-- ==== Sys2Proof/Word.lean ====
section
/-! DEFINITION. The word types of the KS-OH4 and their plainest arithmetic. -/

namespace Sys2Proof

/-- One 32-bit register or instruction word (R6, R44). -/
abbrev Word := BitVec 32

/-- One byte of memory. -/
abbrev Byte := BitVec 8

/-- A 7-bit operand code (R47). -/
abbrev Code := BitVec 7

end Sys2Proof
end

