-- ==== Sys2Proof/Machine/Num.lean ====
section
/-! DEFINITION. Number formats and rounding (04_numbers_and_rounding.md): codes of the binary formats, exact reals as
integers times a power of two, `RoundTo` of R75 and R77, and `FlushOut` of R42. Codes are natural numbers. -/

namespace Sys2Proof.Machine

/-- `n` values of `f`, in order. -/
def tab (n : Nat) (f : Nat → α) : List α := (List.range n).map f

/-- The exception flags in the order of `fsr[4:0]` (R11). -/
abbrev FFlags := BitVec 5
/-- Invalid operation. -/
abbrev fNV : FFlags := 0x10#5
/-- Division by zero. -/
abbrev fDZ : FFlags := 0x08#5
/-- Overflow. -/
abbrev fOF : FFlags := 0x04#5
/-- Underflow. -/
abbrev fUF : FFlags := 0x02#5
/-- Inexact. -/
abbrev fNX : FFlags := 0x01#5

/-- The rounding modes of R74. -/
inductive RM where
  | rne | rtz | rup | rdn | rna
  deriving DecidableEq, Repr

/-- The mode of `fsr[13:12]` (R11, R74). -/
def RM.ofFsr (n : Nat) : RM :=
  match n with
  | 0 => .rne
  | 1 => .rtz
  | 2 => .rup
  | _ => .rdn

/-- A binary floating-point format: exponent width, fraction width, bias (R71). -/
structure Fmt where
  eb : Nat
  fb : Nat
  bias : Nat
  deriving DecidableEq, Repr

/-- binary64. -/
def f64 : Fmt := ⟨11, 52, 1023⟩
/-- binary32. -/
def f32 : Fmt := ⟨8, 23, 127⟩
/-- binary16. -/
def f16 : Fmt := ⟨5, 10, 15⟩
/-- bfloat16. -/
def bf16 : Fmt := ⟨8, 7, 127⟩

/-- All ones in the exponent field. -/
def Fmt.emaxField (F : Fmt) : Nat := 2 ^ F.eb - 1
/-- Bits below the sign. -/
def Fmt.mag (F : Fmt) : Nat := F.eb + F.fb
/-- The sign bit of a code. -/
def Fmt.sign (F : Fmt) (c : Nat) : Bool := c / 2 ^ F.mag % 2 == 1
/-- The exponent field. -/
def Fmt.expo (F : Fmt) (c : Nat) : Nat := c / 2 ^ F.fb % 2 ^ F.eb
/-- The fraction field. -/
def Fmt.frac (F : Fmt) (c : Nat) : Nat := c % 2 ^ F.fb
/-- The code with a given sign and lower bits. -/
def Fmt.pack (F : Fmt) (neg : Bool) (low : Nat) : Nat := (if neg then 2 ^ F.mag else 0) + low
/-- A signed zero. -/
def Fmt.zero (F : Fmt) (neg : Bool) : Nat := F.pack neg 0
/-- A signed infinity. -/
def Fmt.inf (F : Fmt) (neg : Bool) : Nat := F.pack neg (F.emaxField * 2 ^ F.fb)
/-- The default NaN (R73). -/
def Fmt.defNaN (F : Fmt) : Nat := F.emaxField * 2 ^ F.fb + 2 ^ (F.fb - 1)
/-- The largest finite code of a sign. -/
def Fmt.largest (F : Fmt) (neg : Bool) : Nat := F.pack neg (F.emaxField * 2 ^ F.fb - 1)
/-- Exponent of the smallest normal. -/
def Fmt.emin (F : Fmt) : Int := 1 - (F.bias : Int)
/-- Exponent of the largest finite. -/
def Fmt.emax (F : Fmt) : Int := (2 ^ F.eb : Nat) - 2 - (F.bias : Int)

/-- What a code reads as (R72): a finite nonzero value is (-1)^neg * m * 2^e. -/
inductive FVal where
  | nan (neg : Bool) (frac : Nat) (quiet : Bool)
  | inf (neg : Bool)
  | zero (neg : Bool)
  | fin (neg : Bool) (m : Nat) (e : Int)
  deriving DecidableEq, Repr

/-- The reading of a code (R72). -/
def Fmt.val (F : Fmt) (c : Nat) : FVal :=
  let s := F.sign c
  let e := F.expo c
  let f := F.frac c
  if e == F.emaxField then
    if f == 0 then .inf s else .nan s f (f / 2 ^ (F.fb - 1) % 2 == 1)
  else if e == 0 then
    if f == 0 then .zero s else .fin s f (F.emin - F.fb)
  else .fin s (2 ^ F.fb + f) ((e : Int) - F.bias - F.fb)

/-- The code is a subnormal (R72). -/
def Fmt.isSub (F : Fmt) (c : Nat) : Bool := F.expo c == 0 && F.frac c != 0
/-- The code is a NaN. -/
def Fmt.isNaN (F : Fmt) (c : Nat) : Bool := F.expo c == F.emaxField && F.frac c != 0
/-- The code is a signalling NaN. -/
def Fmt.isSNaN (F : Fmt) (c : Nat) : Bool := F.isNaN c && F.frac c / 2 ^ (F.fb - 1) % 2 == 0
/-- The NaN with its quiet bit set (R78). -/
def Fmt.quiet (F : Fmt) (c : Nat) : Nat := if F.frac c / 2 ^ (F.fb - 1) % 2 == 1 then c else c + 2 ^ (F.fb - 1)

/-- One exact real: (-1)^neg * m * 2^e. -/
structure Term where
  neg : Bool
  m : Nat
  e : Int
  deriving DecidableEq, Repr

/-- Whether a quotient `q` with remainder `r` over `d` is raised by one (R74). -/
def bump (rm : RM) (neg : Bool) (q r d : Nat) : Bool :=
  match rm with
  | .rne => 2 * r > d || (2 * r == d && q % 2 == 1)
  | .rtz => false
  | .rup => !neg && r != 0
  | .rdn => neg && r != 0
  | .rna => 2 * r ≥ d && r != 0

/-- m * 2^e as a multiple of 2^k, rounded, with whether it was inexact. -/
def roundAt (rm : RM) (neg : Bool) (m : Nat) (e k : Int) : Nat × Bool :=
  if k ≤ e then (m * 2 ^ (e - k).toNat, false)
  else
    let d := 2 ^ (k - e).toNat
    let q := m / d
    let r := m % d
    (if bump rm neg q r d then q + 1 else q, r != 0)

/-- The overflow table of R75. -/
def Fmt.overflow (F : Fmt) (rm : RM) (neg : Bool) : Nat :=
  match rm, neg with
  | .rtz, _ => F.largest neg
  | .rup, true => F.largest true
  | .rdn, false => F.largest false
  | _, _ => F.inf neg

/-- `RoundTo` of a nonzero real (R75 steps 2 to 6). -/
def Fmt.round (F : Fmt) (rm : RM) (x : Term) : Nat × FFlags :=
  let k := (x.m.log2 : Int) + x.e - F.fb
  let u := (roundAt rm x.neg x.m x.e k).1
  let top := (u.log2 : Int) + k
  if F.emax < top then (F.overflow rm x.neg, fOF ||| fNX)
  else
    let k' := max k (F.emin - F.fb)
    let (q, inx) := roundAt rm x.neg x.m x.e k'
    (F.pack x.neg ((k' + F.fb + F.bias - 1).toNat * 2 ^ F.fb + q),
      if inx then (if top < F.emin then fUF ||| fNX else fNX) else 0)

/-- The exact sum of terms as an integer times a power of two (R42). -/
def exactSum (ts : List Term) : Int × Int :=
  let e := ts.foldl (fun a t => if t.m == 0 then a else min a t.e) 0
  (ts.foldl (fun a t =>
    let v : Int := (t.m * 2 ^ (t.e - e).toNat : Nat)
    if t.m == 0 then a else if t.neg then a - v else a + v) 0, e)

/-- The sign of an exact zero result (R76). -/
def zeroSign (rm : RM) (ts : List Term) : Bool :=
  if ts.all (fun t => t.m == 0) && ts.all (fun t => t.neg) && !ts.isEmpty then true
  else if ts.all (fun t => t.m == 0) && ts.all (fun t => !t.neg) then false
  else rm == .rdn

/-- `RoundTo` of the exact sum of terms (R75, R76). -/
def Fmt.roundSum (F : Fmt) (rm : RM) (ts : List Term) : Nat × FFlags :=
  let (v, e) := exactSum ts
  if v = 0 then (F.zero (zeroSign rm ts), 0)
  else F.round rm ⟨v < 0, v.natAbs, e⟩

/-- `FlushOut` (R42, R82). -/
def Fmt.flushOut (F : Fmt) (fzo : Bool) (r : Nat × FFlags) : Nat × FFlags :=
  if fzo && F.isSub r.1 then (F.zero (F.sign r.1), r.2 ||| fUF ||| fNX) else r

/-- `ReadF` (R42): a subnormal reads as a zero of its sign when FZI is 1. -/
def Fmt.readF (F : Fmt) (fzi : Bool) (c : Nat) : Nat :=
  let c := c % 2 ^ (F.mag + 1)
  if fzi && F.isSub c then F.zero (F.sign c) else c

/-- A finite reading as a term; a zero has m = 0. -/
def FVal.term : FVal → Term
  | .fin s m e => ⟨s, m, e⟩
  | .zero s => ⟨s, 0, 0⟩
  | .inf s => ⟨s, 0, 0⟩
  | .nan s _ _ => ⟨s, 0, 0⟩

/-- A reading with its sign inverted. -/
def FVal.neg : FVal → FVal
  | .fin s m e => .fin (!s) m e
  | .zero s => .zero (!s)
  | .inf s => .inf (!s)
  | .nan s f q => .nan s f q

/-- The product of two finite readings. -/
def Term.mul (x y : Term) : Term := ⟨x.neg != y.neg, x.m * y.m, x.e + y.e⟩

/-- `x < y` of two terms, by value. -/
def Term.lt (x y : Term) : Bool :=
  (exactSum [x, ⟨!y.neg, y.m, y.e⟩]).1 < 0

/-- `RoundTo` of a real into an integer range (R77). -/
def roundToInt (rm : RM) (lo hi : Int) (v : FVal) : Int × FFlags :=
  match v with
  | .nan _ _ _ => (0, fNV)
  | .inf s => (if s then lo else hi, fNV)
  | .zero _ => (0, 0)
  | .fin s m e =>
    let (q, inx) := roundAt rm s m e 0
    let n : Int := if s then -(q : Int) else q
    if n < lo then (lo, fNV) else if hi < n then (hi, fNV) else (n, if inx then fNX else 0)

/-- An integer rounded into a floating-point format (R77, R117). -/
def Fmt.ofInt (F : Fmt) (rm : RM) (n : Int) : Nat × FFlags :=
  if n = 0 then (F.zero false, 0) else F.round rm ⟨n < 0, n.natAbs, 0⟩

end Sys2Proof.Machine
end

