-- ==== Sys2Proof/Machine/Store.lean ====
section
/-! DEFINITION. The two shapes of storage: an association list by key, and sparse byte memory in one canonical form
(addresses strictly rising, no entry equal to the unlisted value). Both are plain data. -/

namespace Sys2Proof.Machine

/-- The value stored under a key. -/
def aget [DecidableEq κ] : List (κ × α) → κ → Option α
  | [], _ => none
  | p :: m, k => if p.1 = k then some p.2 else aget m k

/-- The list with the value under a key replaced, or added at the end. -/
def aput [DecidableEq κ] : List (κ × α) → κ → α → List (κ × α)
  | [], k, v => [(k, v)]
  | p :: m, k, v => if p.1 = k then (k, v) :: m else p :: aput m k v

/-- The list without a key. -/
def adel [DecidableEq κ] (m : List (κ × α)) (k : κ) : List (κ × α) := m.filter (fun p => p.1 ≠ k)

/-- A list with entry n replaced; where the list is shorter, entries of value `z` come before it. -/
def setAt (z : α) : List α → Nat → α → List α
  | [], 0, x => [x]
  | [], n + 1, x => z :: setAt z [] n x
  | _ :: l, 0, x => x :: l
  | y :: l, n + 1, x => y :: setAt z l n x

/-- Sparse byte memory. -/
abbrev Mem := List Host.Cell

/-- What an address that no write has reached reads as (log 1). -/
def unwritten : Byte := 0

/-- The byte at an address. -/
def Mem.get : Mem → Nat → Byte
  | [], _ => unwritten
  | (k, v) :: m, a => if a < k then unwritten else if a = k then v else Mem.get m a

/-- Memory with one byte written; the canonical form is kept. -/
def Mem.set : Mem → Nat → Byte → Mem
  | [], a, b => if b = unwritten then [] else [(a, b)]
  | (k, v) :: m, a, b =>
    if a < k then (if b = unwritten then (k, v) :: m else (a, b) :: (k, v) :: m)
    else if a = k then (if b = unwritten then m else (a, b) :: m)
    else (k, v) :: Mem.set m a b

/-- Every address of the list lies above a bound, in rising order, and no value is the unlisted one. -/
def Mem.wfFrom : Option Nat → Mem → Bool
  | _, [] => true
  | lo, (k, v) :: m => (match lo with | none => true | some l => l < k) && v != unwritten && Mem.wfFrom (some k) m

/-- The canonical form. -/
def Mem.wf (m : Mem) : Bool := m.wfFrom none

/-- The bytes from an address on. -/
def Mem.read (m : Mem) (a n : Nat) : List Byte := tab n (fun i => m.get (a + i))

/-- Memory with bytes written from an address on. -/
def Mem.write (m : Mem) (a : Nat) : List Byte → Mem
  | [] => m
  | b :: bs => Mem.write (m.set a b) (a + 1) bs

/-- The little-endian number of some bytes (R13). -/
def leNat : List Byte → Nat
  | [] => 0
  | b :: bs => b.toNat + 256 * leNat bs

/-- The low `n` bytes of a number, little-endian (R13). -/
def leBytes : Nat → Nat → List Byte
  | 0, _ => []
  | n + 1, x => BitVec.ofNat 8 x :: leBytes n (x / 256)

/-- Bits [hi:lo] of a number. -/
def bits (x hi lo : Nat) : Nat := x / 2 ^ lo % 2 ^ (hi + 1 - lo)

/-- One bit of a number. -/
def bit (x i : Nat) : Bool := x / 2 ^ i % 2 == 1

/-- A number of `n` bits read as two's complement. -/
def signed (n x : Nat) : Int := if x % 2 ^ n < 2 ^ (n - 1) then (x % 2 ^ n : Nat) else ((x % 2 ^ n : Nat) : Int) - (2 ^ n : Nat)

/-- An integer modulo 2^n. -/
def wrap (n : Nat) (x : Int) : Nat := (x % (2 ^ n : Nat)).toNat

end Sys2Proof.Machine
end

