-- ==== Sys2Proof/Machine/Records.lean ====
section
/-! DEFINITION. The records that the state is made of, below the level of a wave, a crew, a core, a grid or a context. -/

namespace Sys2Proof.Machine

/-- One 32-bit register of a wave's 96 threads (R9, R139). -/
abbrev Row := List Word

/-- Threads of a wave (R139). -/
abbrev threads : Nat := 96

/-- A row of zeros. -/
def zeroRow : Row := List.replicate threads 0

/-- The value of thread `t` in a row. -/
def Row.at (r : Row) (t : Nat) : Word := r.getD t 0

/-- The name of a wave: its grid's handle and its wave id (R178). -/
structure WaveId where
  g : Nat
  w : Nat
  deriving DecidableEq, Repr

/-- The name of a crew: its grid's handle and its crew number (R178). -/
structure CrewId where
  g : Nat
  n : Nat
  deriving DecidableEq, Repr

/-- A reconvergence token (R142): KIND, ADDR and the mask of the three beats. -/
structure Token where
  kind : Nat
  addr : Nat
  m0 : Word
  m1 : Word
  m2 : Word
  deriving DecidableEq, Repr

/-- A pending deferred fault (R369, R375): CLASS, SUB and the fault address. -/
structure Fault1 where
  cls : Nat
  sub : Nat
  addr : Nat
  deriving DecidableEq, Repr

/-- The FCALL frame of a wave whose misses run the routine (R209). Rows are allocation rows; D, K and the format are those of the
definition that GEN names. -/
structure FFrame where
  fid : Nat
  gen : Nat
  d : Nat
  k : Nat
  f64 : Bool
  miss : List Nat
  unst : List Nat
  dRow : Nat
  aRow : Nat
  wbase : Nat
  deriving DecidableEq, Repr

/-- What a lane memory instruction does (R244-R253). Operation numbers of atomics are those of R65. -/
inductive MemKind where
  | load (sgn : Bool)
  | store
  | stc
  | atomic (op : Nat)
  deriving DecidableEq, Repr

/-- A lane or uniform memory instruction: its kind, size in bytes, space and operand codes (R244). -/
structure MemOp where
  kind : MemKind
  size : Nat
  uni : Bool
  d : Nat
  a : Nat
  b : Nat
  sc : Nat
  deriving DecidableEq, Repr

/-- Where a load or atomic delivers: an allocation row, a wave register, or nowhere. -/
inductive Dst where
  | row (r : Nat)
  | wreg (n : Nat)
  | none
  deriving DecidableEq, Repr

/-- Where an access is performed: bytes of memory under a key id, reached through a context's virtual address, or bytes of a
crew's local store (R235, R240). -/
inductive Place where
  | mem (pa key ctx va : Nat)
  | ls (crew : CrewId) (off : Nat)
  deriving DecidableEq, Repr

/-- One thread's access of an instruction in flight: thread, address, operand and compare value; the value already captured, for a
load of a deterministic grid (R197); the place its check at issue named; and whether a failed re-translation holds it (R376). -/
structure Acc1 where
  t : Nat
  addr : Nat
  data : Nat
  cmp : Nat
  got : Option Nat
  place : Option Place
  held : Bool
  deriving DecidableEq, Repr

/-- A memory instruction issued and not yet performed (R170, R245, R246, R253): its accesses still to perform, whether a handler issued it, and
its place among what is issued, below the group of every later arrival (R377). -/
structure Flight where
  kind : MemKind
  size : Nat
  uni : Bool
  sc : Nat
  dst : Dst
  accs : List Acc1
  sup : Bool
  seq : Nat
  deriving DecidableEq, Repr

/-- The formats and the operation of a matrix instruction: the minor number of R60 (0x00-0x1D). -/
structure MmaOp where
  minor : Nat
  d : Nat
  a : Nat
  b : Nat
  deriving DecidableEq, Repr

/-- An instruction that may be held (R154, R155, R255) or that a deterministic grid performs in its serial phase (R196):
its operand codes as encoded; `bwait` with whether a phase has completed since its issue (R346), `aseal`, once its handle has passed its check,
with the session's entry and, where another session took the entry, the flags of its own (R304). `again` stands for an instruction that has not issued because a counter is at its limit (R170): 0 VL,
1 WL, 2 ST, 3 EC, 4 FL; because its earlier accesses are not performed: 5; because the matrix queue is full (R327): 6; or because 16 sealed
batches are incomplete (R342): 7; or because writes to other devices are not acknowledged (R279): 8. -/
inductive LongOp where
  | waitc (tv tw ts te tf : Nat)
  | yield
  | bwait (d : Nat) (met : Bool)
  | spop (d b : Nat)
  | spush (d a b : Nat)
  | cwait (a : Nat)
  | twait (all : Bool) (a : Nat)
  | dwait (a b : Nat)
  | gbar
  | launch (d a : Nat)
  | aopen (nb : Bool) (d a b : Nat)
  | aseal (d a : Nat) (got : Option (Nat × Option Nat))
  | fcall (d a b : Nat)
  | mma (m : MmaOp)
  | mem (m : MemOp)
  | fence (cls sc : Nat)
  | again (ctr : Nat)
  deriving DecidableEq, Repr

/-- The waiting instruction a wave is held at, the core's clock when it issued (R155), and the latches it read at issue (R51). -/
structure Hold where
  op : LongOp
  since : Nat
  q : List Row
  deriving DecidableEq, Repr

/-- Why a wave of a deterministic grid has stopped for the round (R195). -/
inductive Stop where
  | quantum
  | sync (op : LongOp)
  | full
  deriving DecidableEq, Repr

/-- A byte of a cached line (R231): not held, clean, or dirty. -/
inductive CByte where
  | absent
  | clean (b : Byte)
  | dirty (b : Byte)
  deriving DecidableEq, Repr

/-- A line in L1, in L2 or in a sector's local copy: its 128 bytes, the waves whose stores dirtied it, and the context,
virtual line address and key id of its last store (R231, R256, R396); `amo` while an atomic's result in it is not written down (R253). -/
structure CLine where
  bytes : List CByte
  owners : List WaveId
  ctx : Nat
  va : Nat
  key : Nat
  amo : Bool
  deriving DecidableEq, Repr

/-- A translation: physical address, permissions, attributes and key id (R388). -/
structure Leaf where
  pa : Nat
  key : Nat
  ap : Bool
  fst : Bool
  rd : Bool
  x : Bool
  w : Bool
  r : Bool
  deriving DecidableEq, Repr

/-- A translation cached for a core (R391): context, base and size of the page, and its leaf. -/
structure TlbEntry where
  ctx : Nat
  base : Nat
  size : Nat
  leaf : Leaf
  deriving DecidableEq, Repr

/-- A table entry in a sector's walker caches (R391): context, level, the address bits above the entry's reach, and its word. -/
structure WalkEntry where
  ctx : Nat
  lvl : Nat
  tag : Nat
  word : Nat
  deriving DecidableEq, Repr

/-- A flit of a device link (R413): SEQ, ACK, TYPE, virtual channel, payload and CRC. -/
structure Flit where
  seq : Nat
  ack : Nat
  ty : Nat
  vc : Nat
  payload : List Byte
  crc : Nat
  deriving DecidableEq, Repr

/-- An entry of a core's local-store mapping table (R238). -/
structure MapEntry where
  state : Nat
  cslot : Nat
  len : Nat
  lbase : Nat
  image : Nat
  crew : CrewId
  deriving DecidableEq, Repr

/-- An entry of a context's session table (R282-R284): STATE (0 FREE, 1 OPEN, 2 SEALING, 3 SEALED), SEQ, the control word,
the base address, the flags word, BROKEN, the opening grid and the physical lines in order. -/
structure Session where
  state : Nat
  seq : Nat
  ctrl : Nat
  base : Nat
  flags : Nat
  broken : Bool
  opener : Nat
  lines : List Nat
  deriving DecidableEq, Repr

/-- The frame of an open line (R285, R292): owning context and session, mode, target, seal rounding and anchor; in EXACT
mode the accumulators S and their status bits; in FAST mode the line's bytes and the sticky flags; NX and COUNT; and the
save-area slot when it is spilled (R291). -/
structure Frame where
  ctx : Nat
  idx : Nat
  exact : Bool
  tgt : Nat
  srm : Nat
  anch : Int
  key : Nat
  s : List Int
  est : List Nat
  nx : Bool
  vals : List Byte
  fl : Nat
  count : Nat
  spilled : Option Nat
  deriving DecidableEq, Repr

/-- What an arrival belongs to, for the completion of the work that posted it (R170, R303, R338). -/
inductive ArrOwner where
  | lane
  | matrix
  | copyOf (cr : CrewId) (tag : Nat)
  deriving DecidableEq, Repr

/-- The value of an arrival: a code of a type (0 f32, 1 f64, 2 s32, 3 s64), or a nonzero exact real of float class (R320). -/
inductive AVal where
  | code (ty v : Nat)
  | real (t : Term)
  deriving DecidableEq, Repr

/-- A posted arrival (R295): its source unit and slice, its number on that channel, the issuing wave, the group of
arrivals of one command, the element's virtual and physical address, its value, and whether a failed re-translation holds it (R377). -/
structure Arrival where
  src : Nat
  slice : Nat
  num : Nat
  wave : WaveId
  grp : Nat
  owner : ArrOwner
  va : Nat
  pa : Nat
  val : AVal
  held : Bool
  deriving DecidableEq, Repr

/-- A write or an arrival sent to a fabric device and not acknowledged by it yet (R279, R295, R412): the device, the number, the address in the
window, the link it was sent on, its bytes as it was sent (R414); the waves whose stores it carries, each with the origin and the address of the
access (R411); the stores and write-backs of scope `sy` that ST counts until it is acknowledged, each by its wave and its place among what is issued
(R170, R246); and the arrival that it carries. -/
structure OpenTxn where
  dev : Nat
  num : Nat
  pa : Nat
  link : Nat
  payload : List Byte
  writers : List (WaveId × Nat × Nat)
  sts : List (WaveId × Nat)
  arr : Option Arrival
  deriving DecidableEq, Repr

/-- A command in a core's matrix queue (R327): the issuing wave; its minor of R60, 0x20 for `scacc.f32` and 0x21 for
`scacc.f64`; the operand block of R309 and the control word of R310 as read at issue; C, or the accumulator offset; the
mask at issue; the next k-step, row block and row (`mrp`, R315); whether a fault holds it; whether it waits to regain leave
after a restore (R326); and the group of its arrivals. -/
structure MatCmd where
  wave : WaveId
  minor : Nat
  aBase : Nat
  bBase : Nat
  sA : Int
  sB : Int
  aScale : Nat
  bScale : Nat
  kLen : Nat
  cst : Nat
  zc : Bool
  c : Nat
  m0 : Word
  m1 : Word
  m2 : Word
  kstep : Nat
  rb : Nat
  held : Bool
  relv : Bool
  grp : Nat
  deriving DecidableEq, Repr

/-- A barrier register, and the arrivals of copies held for its next phase (R346). -/
structure Bar where
  pend : Nat
  phase : Bool
  arr : Nat
  mem : Nat
  held : Nat
  deriving DecidableEq, Repr

/-- A stream register (R348): DEPTH and its entries, oldest first. -/
structure Stream where
  depth : Nat
  ents : List Nat
  deriving DecidableEq, Repr

/-- A grid view (R353, R354). -/
structure View where
  valid : Bool
  base : Nat
  nx : Nat
  ny : Nat
  nz : Nat
  halo : Nat
  sy : Int
  sz : Int
  ls : Bool
  dims : Nat
  bnd : Nat
  fmt : Nat
  deriving DecidableEq, Repr

/-- A weight set (R352, R355): extents and binary32 codes, x fastest. -/
structure WSet where
  sx : Nat
  sy : Nat
  sz : Nat
  ws : List Nat
  deriving DecidableEq, Repr

/-- What one wave posted to a copy or a grid transfer (R335, R338, R357): the wave, the slice index, the element type and direction of a
copy, the barrier mode and register, and the stream push. -/
structure Slice where
  wave : WaveId
  part : Nat
  ty : Nat
  dir : Nat
  bm : Nat
  bar : Nat
  sp : Bool
  sq : Nat
  push : Nat
  deriving DecidableEq, Repr

/-- A unit of a transfer: a chunk of at most 4 KiB of a copy's row (R339), or an output row of a grid transfer (R363).
`st` is 0 to do, 1 held by a fault, 2 its arrivals posted and not all applied, 3 performed. For an output row, `src` is the first
point's x, `dst` the line number and `len` the number of points. -/
structure XUnit where
  part : Nat
  src : Nat
  dst : Nat
  len : Nat
  st : Nat
  grp : Nat
  deriving DecidableEq, Repr

/-- The views, weights, first weight set, mode and flags of a grid transfer, copied when it is posted (R365): kind 2 `grst`,
3 `gprol`, 4 `gproladd`, 5 `gred`. -/
structure GridJob where
  kind : Nat
  first : Nat
  sv : View
  dv : View
  wsets : List WSet
  rm : Nat
  fl : FFlags
  deriving DecidableEq, Repr

/-- A copy or grid transfer on a tag (R338-R340, R364): minor, slices wanted less one and in, units, whether it has started, and its
stage (0 running, 1 its push is due). -/
structure Xfer where
  uid : Nat
  tag : Nat
  minor : Nat
  np : Nat
  slices : List Slice
  units : List XUnit
  job : Option GridJob
  started : Bool
  stage : Nat
  deriving DecidableEq, Repr

/-- A posted copy slice: the control word's fields and the rows of R336 as source, destination and byte count. -/
structure CopyReq where
  minor : Nat
  tag : Nat
  np : Nat
  slice : Slice
  rows : List (Nat × Nat × Nat)
  deriving DecidableEq, Repr

/-- A sealed batch (R333, R342): its number and the transfers in it. -/
structure Batch where
  num : Nat
  uids : List Nat
  deriving DecidableEq, Repr

/-- The descriptor of a function (R201). The five arrays hold binary64 codes. -/
structure FDesc where
  d : Nat
  k : Nat
  f64 : Bool
  lognb : Nat
  routine : Nat
  table : Nat
  origin : List Nat
  width : List Nat
  radius : List Nat
  atol : List Nat
  rtol : List Nat
  deriving DecidableEq, Repr

/-- A function entry as the cores see it (R200): state, GEN, descriptor and the eight counters of R223. -/
structure FEntry where
  defined : Bool
  gen : Nat
  desc : FDesc
  cnt : List Nat
  deriving DecidableEq, Repr

/-- A record (R203); `rid` names the record a way holds, for R212; `bad` marks an uncorrectable error in it (R206). -/
structure FRec where
  rid : Nat
  bad : Bool
  hits : Nat
  age : Nat
  gen : Nat
  c : List Nat
  rho : List Nat
  f0 : List Nat
  jac : List Nat
  deriving DecidableEq, Repr

/-- A bucket of 8 ways (R205, R206); a bucket that is not resident stands in the record table, and `ways` then keeps only the
records' names. -/
structure Bucket where
  resident : Bool
  ways : List (Option FRec)
  deriving DecidableEq, Repr

/-- The search of one thread of an `fcall` (R207, R215): its argument, bucket, and outcome once the store has answered:
`none` for a miss, or the way, the record's name and the values. -/
structure Search1 where
  t : Nat
  x : List Nat
  bucket : Nat
  storable : Bool
  res : Option (Option (Nat × Nat × List Nat))
  deriving DecidableEq, Repr

/-- The searches of the `fcall` a wave waits at, and the definition it issued under; `err` is the address of a record that held an uncorrectable error (R206), and
`scrub` the bucket, way and name of every such record that a deterministic grid found (R217). -/
structure Searching where
  fid : Nat
  gen : Nat
  desc : FDesc
  list : List Search1
  err : Option Nat
  scrub : List (Nat × Nat × Nat)
  deriving DecidableEq, Repr

/-- What a posted function-store operation does (R211, R212, R219, R222, R224); `count` adds to a counter of R223, `scrub` invalidates a record that
holds an uncorrectable error (R206). -/
inductive FsKind where
  | define (d : FDesc)
  | invalidate
  | insert (gen bucket : Nat) (x v jac : List Nat)
  | increment (bucket way rid : Nat)
  | preload (bucket hits : Nat) (c rho f0 jac : List Nat)
  | count (sel n : Nat)
  | scrub (bucket way rid : Nat)
  deriving DecidableEq, Repr

/-- A posted function-store operation: its wave, context and FID, the instruction it belongs to, the stores still to apply
it, and what it does. -/
structure FsOp where
  wave : WaveId
  ctx : Nat
  fid : Nat
  grp : Nat
  stores : List Nat
  kind : FsKind
  deriving DecidableEq, Repr

/-- An effect held in a wave's commit buffer (R197, R217, R328, R350, R366). -/
inductive BufOp where
  | stores (ws : List (Place × List Byte))
  | arrival (a : Arrival)
  | fs (ops : List FsOp)
  | matrix (c : MatCmd)
  | copy (r : CopyReq)
  | grid (minor ctrl fline nlines : Nat)
  | seal (num : Nat)
  | barv (n : Nat)
  | bexp (n x : Nat)
  | binit (n x : Nat)
  | tagclr (m : Nat)
  | gview (n : Nat) (v : View)
  | gstn (n addr sx sy sz : Nat)
  deriving DecidableEq, Repr

end Sys2Proof.Machine
end

