-- ==== Sys2Proof/Machine/FpOps.lean ====
section
/-! DEFINITION. The floating-point operations on codes (05_arithmetic_instructions.md, R103-R119): `FpCore`, minimum and
maximum, compares, sign operations, classification, conversions and `rint`. Each takes a thread's `FZI`, `FZO` and mode
and delivers a code and the raised flags. -/

namespace Sys2Proof.Machine

/-- The parts of a thread's `fsr` that an operation reads (R81): mode, FZI, FZO. -/
structure FEnv where
  rm : RM
  fzi : Bool
  fzo : Bool
  deriving DecidableEq, Repr

/-- The four operations of R103. -/
inductive FOp where
  | add | sub | mul | fma
  deriving DecidableEq, Repr

/-- NV when some operand is a signalling NaN (R78, R80). -/
def snanFlag (F : Fmt) (cs : List Nat) : FFlags := if cs.any F.isSNaN then fNV else 0

/-- The first NaN of the operands, quieted (R78). -/
def firstNaN (F : Fmt) (cs : List Nat) : Option Nat := (cs.find? F.isNaN).map F.quiet

/-- ∞ × 0 in either order. -/
def infTimesZero (x y : FVal) : Bool :=
  match x, y with
  | .inf _, .zero _ => true
  | .zero _, .inf _ => true
  | _, _ => false

/-- The reading is an infinity. -/
def FVal.isInf : FVal → Bool
  | .inf _ => true
  | _ => false

/-- The sign of a reading. -/
def FVal.sgn : FVal → Bool
  | .nan s _ _ => s
  | .inf s => s
  | .zero s => s
  | .fin s _ _ => s

/-- The product of two readings that are not NaNs and not ∞ × 0. -/
def FVal.mul (x y : FVal) : FVal :=
  if x.isInf || y.isInf then .inf (x.sgn != y.sgn)
  else
    let t := x.term.mul y.term
    if t.m == 0 then .zero t.neg else .fin t.neg t.m t.e

/-- The terms of an operation, once products are formed (R104 rule 3). -/
def FOp.terms (op : FOp) (x y z : FVal) : List FVal :=
  match op with
  | .add => [x, y]
  | .sub => [x, y.neg]
  | .mul => [x.mul y]
  | .fma => [x.mul y, z]

/-- Two infinite terms of opposite sign. -/
def oppositeInf (ts : List FVal) : Bool := ts.contains (.inf false) && ts.contains (.inf true)

/-- The operation is invalid by R104 rule 2: ∞ × 0, or an effective addition of opposite infinities. -/
def FOp.invalid (op : FOp) (x y z : FVal) : Bool :=
  match op with
  | .add | .sub => oppositeInf (op.terms x y z)
  | .mul => infTimesZero x y
  | .fma => infTimesZero x y || oppositeInf (op.terms x y z)

/-- `FpCore` of R104 on codes already read by `ReadF`. -/
def fpCore (op : FOp) (F : Fmt) (v : FEnv) (x y z : Nat) : Nat × FFlags :=
  let cs := if op == .fma then [x, y, z] else [x, y]
  match firstNaN F cs with
  | some n =>
    let inv := (op == .mul || op == .fma) && infTimesZero (F.val x) (F.val y)
    (n, snanFlag F cs ||| (if inv then fNV else 0))
  | none =>
    let (a, b, c) := (F.val x, F.val y, F.val z)
    if op.invalid a b c then (F.defNaN, fNV)
    else
      let ts := op.terms a b c
      match ts.find? FVal.isInf with
      | some i => (F.inf i.sgn, 0)
      | none => F.flushOut v.fzo (F.roundSum v.rm (ts.map FVal.term))

/-- One lane of `add`, `sub`, `mul` or `fma` (R104). -/
def fpArith (op : FOp) (F : Fmt) (v : FEnv) (a b d : Nat) : Nat × FFlags :=
  fpCore op F v (F.readF v.fzi a) (F.readF v.fzi b) (F.readF v.fzi d)

/-- A value for ordering: infinities as terms beyond every finite value, with −0 below +0 when `strictZero`. -/
def fpLess (F : Fmt) (x y : Nat) : Bool :=
  match F.val x, F.val y with
  | .inf s, w => s && w != .inf true
  | w, .inf s => !s && w != .inf false
  | a, b => a.term.lt b.term

/-- `min` and `max` (R107). -/
def fpMinMax (isMax : Bool) (F : Fmt) (v : FEnv) (a b : Nat) : Nat × FFlags :=
  let x := F.readF v.fzi a
  let y := F.readF v.fzi b
  let fl := snanFlag F [x, y]
  if F.isNaN x && F.isNaN y then (F.defNaN, fl)
  else
    let bothZero := (F.val x).term.m == 0 && !(F.val x).isInf && (F.val y).term.m == 0 && !(F.val y).isInf
    let xLess := if bothZero then F.sign x && !F.sign y else fpLess F x y
    let pick := if F.isNaN x then y else if F.isNaN y then x else if xLess != isMax then x else y
    let r := F.flushOut v.fzo (pick, 0)
    (r.1, fl ||| r.2)

/-- The compares of R108. -/
inductive FCmp where
  | eq | lt | le | un
  deriving DecidableEq, Repr

/-- One lane of a compare (R108). -/
def fpCompare (c : FCmp) (F : Fmt) (v : FEnv) (a b : Nat) : Bool × FFlags :=
  let x := F.readF v.fzi a
  let y := F.readF v.fzi b
  let nan := F.isNaN x || F.isNaN y
  let same := x == y || ((F.val x) == .zero (F.sign x) && (F.val y) == .zero (F.sign y))
  let r := match c with
    | .eq => !nan && same
    | .lt => !nan && fpLess F x y
    | .le => !nan && (same || fpLess F x y)
    | .un => nan
  let fl := match c with
    | .eq | .un => snanFlag F [x, y]
    | .lt | .le => if nan then fNV else 0
  (r, fl)

/-- `abs` (R109). -/
def fpAbs (F : Fmt) (a : Nat) : Nat := a % 2 ^ F.mag
/-- `neg` (R109). -/
def fpNeg (F : Fmt) (a : Nat) : Nat :=
  let c := a % 2 ^ (F.mag + 1)
  if F.sign c then c - 2 ^ F.mag else c + 2 ^ F.mag

/-- The bit of R109's class table. -/
def fpClassBit (F : Fmt) (a : Nat) : Nat :=
  match F.val (a % 2 ^ (F.mag + 1)) with
  | .nan _ _ q => if q then 9 else 8
  | .inf s => if s then 0 else 7
  | .zero s => if s then 3 else 4
  | .fin s _ _ =>
    let sub := F.isSub (a % 2 ^ (F.mag + 1))
    if s then (if sub then 2 else 1) else (if sub then 5 else 6)

/-- `class` (R109): one-hot. -/
def fpClass (F : Fmt) (a : Nat) : Nat := 2 ^ fpClassBit F a

/-- A NaN carried from one format to another (R79). -/
def nanConvert (S D : Fmt) (c : Nat) : Nat :=
  let f := S.frac (S.quiet c)
  let g := if S.fb ≥ D.fb then f / 2 ^ (S.fb - D.fb) else f * 2 ^ (D.fb - S.fb)
  D.pack (S.sign c) (D.emaxField * 2 ^ D.fb + g)

/-- An FF conversion (R115). -/
def cnvFF (S D : Fmt) (v : FEnv) (a : Nat) : Nat × FFlags :=
  let x := S.readF v.fzi a
  match S.val x with
  | .nan _ _ _ => (nanConvert S D x, snanFlag S [x])
  | .inf s => (D.inf s, 0)
  | .zero s => (D.zero s, 0)
  | .fin s m e => D.flushOut v.fzo (D.round v.rm ⟨s, m, e⟩)

/-- An FI conversion into `[lo, hi]` (R116). -/
def cnvFI (S : Fmt) (lo hi : Int) (v : FEnv) (a : Nat) : Int × FFlags :=
  roundToInt v.rm lo hi (S.val (S.readF v.fzi a))

/-- An IF conversion (R117). -/
def cnvIF (D : Fmt) (v : FEnv) (n : Int) : Nat × FFlags := D.ofInt v.rm n

/-- `rint` (R119). -/
def fpRint (F : Fmt) (v : FEnv) (a : Nat) : Nat × FFlags :=
  let x := F.readF v.fzi a
  match F.val x with
  | .nan _ _ _ => (F.quiet x, snanFlag F [x])
  | .fin s m e =>
    let (q, inx) := roundAt v.rm s m e 0
    if q = 0 then (F.zero s, if inx then fNX else 0)
    else ((F.round .rtz ⟨s, q, 0⟩).1, if inx then fNX else 0)
  | _ => (x, 0)

/-- Clamping to a range (R98, R118). -/
def clampI (lo hi x : Int) : Int := if x < lo then lo else if hi < x then hi else x

end Sys2Proof.Machine
end

