-- ==== Sys2Proof/Machine/Special.lean ====
section
/-! DEFINITION. The special functions of R111-R112. Division and roots round the exact quotient or root, held as an integer
part and a sticky bit. The transcendental functions round an enclosure of the exact value (log 5): 320 fraction bits,
with exact results decided separately, so that a value that is not representable never looks exact. -/

namespace Sys2Proof.Machine

/-- Floor of the square root, bit by bit from 2^(k-1) down. -/
def isqrtFrom (n : Nat) : Nat → Nat → Nat
  | 0, r => r
  | k + 1, r => isqrtFrom n k (if (r + 2 ^ k) * (r + 2 ^ k) ≤ n then r + 2 ^ k else r)
/-- Floor of the square root. -/
def isqrt (n : Nat) : Nat := isqrtFrom n (n.log2 / 2 + 1) 0

/-- A real strictly between m * 2^e and (m + 1) * 2^e, or m * 2^e itself, as a term that rounds the same way. -/
def sticky (neg : Bool) (m : Nat) (e : Int) (inexact : Bool) : Term :=
  ⟨neg, 2 * m + (if inexact then 1 else 0), e - 1⟩

/-- x / y of nonzero terms, to 160 bits and a sticky bit. -/
def divTerm (x y : Term) : Term :=
  let n := x.m * 2 ^ (y.m.log2 + 160)
  sticky (x.neg != y.neg) (n / y.m) (x.e - y.e - (y.m.log2 + 160 : Nat)) (n % y.m != 0)

/-- The square root of a positive m * 2^e, to at least 160 bits and a sticky bit. -/
def sqrtTerm (m : Nat) (e : Int) : Term :=
  let (m, e) := if e % 2 = 0 then (m, e) else (2 * m, e - 1)
  let n := m * 2 ^ 320
  let r := isqrt n
  sticky false r (e / 2 - 160) (r * r != n)

/-- The reciprocal square root of a positive m * 2^e. -/
def rsqTerm (m : Nat) (e : Int) : Term :=
  let (m, e) := if e % 2 = 0 then (m, e) else (2 * m, e - 1)
  let n := 2 ^ (2 * m.log2 + 320)
  let r := isqrt (n / m)
  sticky false r (-(e / 2) - (m.log2 + 160 : Nat)) (r * r * m != n)

/-- Fraction bits of the enclosures. -/
abbrev encBits : Nat := 320
/-- ln 2 in units of 2^-320, rounded down. -/
def ln2Fix : Nat := 0xB17217F7D1CF79ABC9E3B39803F2F6AF40F343267298B62D8A0D175B8BAAFA2BE7B876206DEBAC98
/-- π in units of 2^-320, rounded down. -/
def piFix : Nat := 0x3243F6A8885A308D313198A2E03707344A4093822299F31D0082EFA98EC4E6C89452821E638D01377

/-- Sum of y^k / k! from the term `t` = y^(k-1) / (k-1)! on, in units of 2^-320. -/
def expSeries (y : Nat) : Nat → Nat → Nat → Nat
  | 0, _, _ => 0
  | n + 1, k, t => t + expSeries y n (k + 1) (t * y / 2 ^ encBits / k)
/-- e^y for y in [0, 1), in units of 2^-320. -/
def expFix (y : Nat) : Nat := expSeries y 80 1 (2 ^ encBits)

/-- Sum of t^(2k+1) / (2k+1) from power `p` on. -/
def atanhSeries (t2 : Nat) : Nat → Nat → Nat → Nat
  | 0, _, _ => 0
  | n + 1, k, p => p / k + atanhSeries t2 n (k + 2) (p * t2 / 2 ^ encBits)
/-- ln(y / 2^320) for y in [2^320, 2^321). -/
def lnFix (y : Nat) : Nat :=
  let t := (y - 2 ^ encBits) * 2 ^ encBits / (y + 2 ^ encBits)
  2 * atanhSeries (t * t / 2 ^ encBits) 110 1 t

/-- Alternating series with terms y^k / k!, two powers apart. -/
def trigSeries (y2 : Nat) : Nat → Nat → Nat → Bool → Int
  | 0, _, _, _ => 0
  | n + 1, k, t, neg =>
    (if neg then -(t : Int) else t) + trigSeries y2 n (k + 2) (t * y2 / 2 ^ encBits / (k * (k + 1))) (!neg)
/-- sin y for y in [0, 2), in units of 2^-320. -/
def sinFix (y : Nat) : Nat := (trigSeries (y * y / 2 ^ encBits) 50 2 y false).toNat
/-- cos y for y in [0, π/2], in units of 2^-320. -/
def cosFix (y : Nat) : Nat := (trigSeries (y * y / 2 ^ encBits) 50 1 (2 ^ encBits) false).toNat

/-- 2^x for a nonzero finite x (R111). -/
def exp2Term (neg : Bool) (m : Nat) (e : Int) : Term :=
  let top := (m.log2 : Int) + e
  if top ≥ 14 then ⟨false, 3, if neg then -40000 else 40000⟩
  else if top < -120 then ⟨false, if neg then 2 ^ 300 - 1 else 2 ^ 300 + 1, -300⟩
  else
    let k := (-e).toNat
    let n := m * 2 ^ e.toNat
    let v : Int := if neg then -(n : Int) else n
    let i := v / (2 ^ k : Nat)
    let f := (v % (2 ^ k : Nat)).toNat
    if f = 0 then ⟨false, 1, i⟩
    else sticky false (expFix (f * ln2Fix / 2 ^ k)) (i - encBits) true

/-- log2 of a positive finite x that is not 1 (R111). -/
def log2Term (m : Nat) (e : Int) : Term :=
  let i := (m.log2 : Int) + e
  if m == 2 ^ m.log2 then ⟨i < 0, i.natAbs, 0⟩
  else
    let y := m * 2 ^ (encBits - m.log2)
    let g := lnFix y * 2 ^ encBits / ln2Fix
    let v : Int := i * (2 ^ encBits : Nat) + g
    if v < 0 then sticky true (v.natAbs - 1) (-(encBits : Int)) true else sticky false v.toNat (-(encBits : Int)) true

/-- The part of |x| in quarter turns: floor(2|x|) mod 4 and the remainder r in [0, 1/2) as a numerator over 2^k. -/
def quarter (m : Nat) (e : Int) : Nat × Nat × Nat :=
  if e ≥ 1 then (0, 0, 0)
  else
    let k := (-e).toNat
    (2 * m / 2 ^ k % 4, 2 * m % 2 ^ k, k + 1)

/-- sin(π x) for a finite x that is not an integer (R111). -/
def sinpiTerm (neg : Bool) (m : Nat) (e : Int) : Term :=
  let (q, r, k) := quarter m e
  let y := r * piFix / 2 ^ k
  let s := neg != (q ≥ 2)
  if r = 0 then ⟨s, 1, 0⟩
  else if q % 2 = 0 then sticky s (sinFix y) (-(encBits : Int)) true
  else sticky s (cosFix y) (-(encBits : Int)) true

/-- cos(π x) for a finite x that is not an integer and a half (R111). -/
def cospiTerm (m : Nat) (e : Int) : Term :=
  let (q, r, k) := quarter m e
  let y := r * piFix / 2 ^ k
  let s := q == 1 || q == 2
  if r = 0 then ⟨s, 1, 0⟩
  else if q % 2 = 0 then sticky s (cosFix y) (-(encBits : Int)) true
  else sticky s (sinFix y) (-(encBits : Int)) true

/-- The special functions of R110. -/
inductive SFn where
  | sqrt | rcp | rsq | exp2 | log2 | sinpi | cospi
  deriving DecidableEq, Repr

/-- `div` (R111, R112). -/
def fpDiv (F : Fmt) (v : FEnv) (a b : Nat) : Nat × FFlags :=
  let x := F.readF v.fzi a
  let y := F.readF v.fzi b
  match firstNaN F [x, y] with
  | some n => (n, snanFlag F [x, y])
  | none =>
    let s := F.sign x != F.sign y
    match F.val x, F.val y with
    | .zero _, .zero _ => (F.defNaN, fNV)
    | .inf _, .inf _ => (F.defNaN, fNV)
    | .inf _, _ => (F.inf s, 0)
    | _, .inf _ => (F.zero s, 0)
    | .zero _, _ => (F.zero s, 0)
    | _, .zero _ => (F.inf s, fDZ)
    | p, q => F.flushOut v.fzo (F.round v.rm (divTerm p.term q.term))

/-- The real value of a unary special function at a finite nonzero operand outside R112, or its fixed result. -/
def sfCore (f : SFn) (F : Fmt) (x : FVal) : (Nat × FFlags) ⊕ Term :=
  match f, x with
  | .sqrt, .zero s => .inl (F.zero s, 0)
  | .sqrt, .inf s => .inl (if s then (F.defNaN, fNV) else (F.inf false, 0))
  | .sqrt, .fin s m e => if s then .inl (F.defNaN, fNV) else .inr (sqrtTerm m e)
  | .rcp, .zero s => .inl (F.inf s, fDZ)
  | .rcp, .inf s => .inl (F.zero s, 0)
  | .rcp, .fin s m e => .inr (divTerm ⟨false, 1, 0⟩ ⟨s, m, e⟩)
  | .rsq, .zero s => .inl (F.inf s, fDZ)
  | .rsq, .inf s => .inl (if s then (F.defNaN, fNV) else (F.zero false, 0))
  | .rsq, .fin s m e => if s then .inl (F.defNaN, fNV) else .inr (rsqTerm m e)
  | .exp2, .zero _ => .inr ⟨false, 1, 0⟩
  | .exp2, .inf s => .inl (if s then F.zero false else F.inf false, 0)
  | .exp2, .fin s m e => .inr (exp2Term s m e)
  | .log2, .zero _ => .inl (F.inf true, fDZ)
  | .log2, .inf s => .inl (if s then (F.defNaN, fNV) else (F.inf false, 0))
  | .log2, .fin s m e =>
    if s then .inl (F.defNaN, fNV)
    else if (log2Term m e).m = 0 then .inl (F.zero false, 0) else .inr (log2Term m e)
  | .sinpi, .zero s => .inl (F.zero s, 0)
  | .sinpi, .inf _ => .inl (F.defNaN, fNV)
  | .sinpi, .fin s m e =>
    if (roundAt .rtz s m e 0).2 then .inr (sinpiTerm s m e) else .inl (F.zero s, 0)
  | .cospi, .zero _ => .inr ⟨false, 1, 0⟩
  | .cospi, .inf _ => .inl (F.defNaN, fNV)
  | .cospi, .fin s m e =>
    if (roundAt .rtz s m e 0).2 && !(roundAt .rtz s (2 * m) e 0).2 then .inl (F.zero false, 0) else .inr (cospiTerm m e)
  | _, .nan _ _ _ => .inl (F.defNaN, 0)

/-- One lane of a unary special function (R111, R112). -/
def fpSpecial (f : SFn) (F : Fmt) (v : FEnv) (a : Nat) : Nat × FFlags :=
  let x := F.readF v.fzi a
  if F.isNaN x then (F.quiet x, snanFlag F [x])
  else match sfCore f F (F.val x) with
    | .inl r => r
    | .inr t => F.flushOut v.fzo (F.round v.rm t)

end Sys2Proof.Machine
end

