-- ==== Sys2Proof/Machine/Frame.lean ====
section
/-! DEFINITION. Frames of open lines: arrivals in EXACT and FAST mode, the values and flags of a seal or a snapshot, and the spilled
image (R284-R292). Targets and arrival types: 0 f32, 1 f64, 2 s32, 3 s64. -/

namespace Sys2Proof.Machine

/-- Bytes of a value of a type. -/
def tySize (ty : Nat) : Nat := if ty % 2 = 0 then 4 else 8
/-- The type is a float. -/
def tyFloat (ty : Nat) : Bool := ty < 2
/-- The format of a float type. -/
def tyFmt (ty : Nat) : Fmt := if ty = 0 then f32 else f64
/-- The elements of a line with a target. -/
def tgtCount (tgt : Nat) : Nat := 128 / tySize tgt
/-- W of a target (R285). -/
def tgtW (tgt : Nat) : Nat := if tgt % 2 = 0 then 128 else 256
/-- SRM as a mode (R284). -/
def srmMode : Nat → RM
  | 1 => .rtz | 2 => .rup | 3 => .rdn | 4 => .rna | _ => .rne

/-- An element of a frame in FAST mode, or of a line, as the target's code. -/
def elemAt (tgt : Nat) (bs : List Byte) (i : Nat) : Nat :=
  leNat (tab (tySize tgt) (fun j => bs.getD (i * tySize tgt + j) 0))

/-- Bytes of a line with an element replaced. -/
def setElem (tgt : Nat) (bs : List Byte) (i v : Nat) : List Byte :=
  let n := tySize tgt
  tab 128 (fun j => if j / n = i then (leBytes n v).getD (j % n) 0 else bs.getD j 0)

/-- `Anchor(x, e)`: the nearest multiple of 2^e, ties to even, and whether it differs (R42). -/
def anchor (t : Term) (e : Int) : Int × Bool :=
  let (q, inx) := roundAt .rne t.neg t.m t.e e
  (if t.neg then -(q : Int) else q, inx)

/-- The status bits of an element (R292). -/
def Frame.orEst (f : Frame) (i b : Nat) : Frame := { f with est := f.est.set i (f.est.getD i 0 ||| b) }

/-- An anchored integer added to an element, or its overflow recorded (R286). -/
def Frame.addInt (f : Frame) (i : Nat) (k : Int) (inx : Bool) : Frame :=
  let f := if inx then { f with nx := true } else f
  if 2 ^ (tgtW f.tgt - 1) ≤ k then f.orEst i 0x10
  else if k ≤ -(2 ^ (tgtW f.tgt - 1)) then f.orEst i 0x20
  else { f with s := f.s.set i (f.s.getD i 0 + k) }

/-- The value is of float class (R289). -/
def AVal.isFloat : AVal → Bool
  | .code ty _ => tyFloat ty
  | .real _ => true

/-- One EXACT arrival (R286), not yet counted. -/
def Frame.exactIn (f : Frame) (i : Nat) : AVal → Frame
  | .real t => let (k, inx) := anchor t f.anch; f.addInt i k inx
  | .code ty v =>
    if tyFloat ty then
      let F := tyFmt ty
      match F.val v with
      | .nan _ _ _ => f.orEst i (if F.isSNaN v then 0x03 else 0x01)
      | .inf s => f.orEst i (if s then 0x08 else 0x04)
      | x => let (k, inx) := anchor x.term f.anch; f.addInt i k inx
    else f.addInt i (signed (8 * tySize ty) v) false

/-- The sum of a FAST element and an arrival of float class, with its flags (R288). -/
def fastSum (F : Fmt) (rm : RM) (old : Nat) : AVal → Nat × FFlags
  | .real t =>
    if F.isNaN old then (F.quiet old, snanFlag F [old])
    else match F.val old with
      | .inf s => (F.inf s, 0)
      | x => F.roundSum rm [x.term, t]
  | .code ty v =>
    let A := tyFmt ty
    if F.isNaN old then (F.quiet old, snanFlag F [old] ||| snanFlag A [v])
    else if A.isNaN v then (if A == F then A.quiet v else nanConvert A F v, snanFlag A [v])
    else
      match F.val old, A.val v with
      | .inf s, .inf t => if s == t then (F.inf s, 0) else (F.defNaN, fNV)
      | .inf s, _ => (F.inf s, 0)
      | _, .inf t => (F.inf t, 0)
      | x, y => F.roundSum rm [x.term, y.term]

/-- One FAST arrival (R288), not yet counted. -/
def Frame.fastIn (f : Frame) (i : Nat) (v : AVal) : Frame :=
  let old := elemAt f.tgt f.vals i
  let flt := fun (_ : Unit) =>
    let (new, fl) := fastSum (tyFmt f.tgt) (srmMode f.srm) old v
    { f with vals := setElem f.tgt f.vals i new, fl := f.fl ||| fl.toNat }
  match v with
  | .real _ => flt ()
  | .code ty c =>
    if tyFloat ty then flt ()
    else
      let n := 8 * tySize f.tgt
      { f with vals := setElem f.tgt f.vals i (wrap n (signed n old + signed (8 * tySize ty) c)) }

/-- The accumulation fault that rejects an arrival at a byte offset of the line: its type does not match the target's class, or it
starts inside an element (ACC_TYPE, R289; log 17), or the count is exhausted (ACC_LIMIT, R296). -/
def Frame.rejects (f : Frame) (off : Nat) (v : AVal) : Option Nat :=
  if v.isFloat != tyFloat f.tgt || off % tySize f.tgt ≠ 0 then some 0x06
  else if f.count + 1 > 2 ^ 32 - 1 then some 0x0B else none

/-- An arrival applied as one step (R286, R288). -/
def Frame.arrive (f : Frame) (off : Nat) (v : AVal) : Frame :=
  let i := off / tySize f.tgt
  let f := if f.exact then f.exactIn i v else f.fastIn i v
  { f with count := f.count + 1 }

/-- The value of an element and its flags (R287). -/
def Frame.value (f : Frame) (i : Nat) : Nat × FFlags :=
  if !f.exact then (elemAt f.tgt f.vals i, 0)
  else
    let S := f.s.getD i 0
    let e := f.est.getD i 0
    let W := tgtW f.tgt
    if tyFloat f.tgt then
      let F := tyFmt f.tgt
      let pos := bit e 2 || bit e 4
      let neg := bit e 3 || bit e 5
      if bit e 0 then (F.defNaN, if bit e 1 then fNV else 0)
      else if pos && neg then (F.defNaN, fNV)
      else if bit e 2 then (F.inf false, 0)
      else if bit e 3 then (F.inf true, 0)
      else if bit e 4 then (F.inf false, fOF ||| fNX)
      else if bit e 5 then (F.inf true, fOF ||| fNX)
      else if S < -(2 ^ (W - 1)) || 2 ^ (W - 1) ≤ S then (F.inf (S < 0), fOF ||| fNX)
      else if S = 0 then (F.zero (f.srm = 3), 0)
      else F.round (srmMode f.srm) ⟨S < 0, S.natAbs, f.anch⟩
    else
      let n := 8 * tySize f.tgt
      let lo : Int := -(2 ^ (n - 1))
      let hi : Int := 2 ^ (n - 1) - 1
      if bit e 4 then (wrap n hi, fOF)
      else if bit e 5 then (wrap n lo, fOF)
      else if S < lo then (wrap n lo, fOF) else if hi < S then (wrap n hi, fOF) else (wrap n S, 0)

/-- The 128 bytes that a seal writes and a snapshot returns (R287, R288). -/
def Frame.bytes (f : Frame) : List Byte :=
  if f.exact then (tab (tgtCount f.tgt) (fun i => leBytes (tySize f.tgt) (f.value i).1)).flatten else f.vals

/-- The flags that a seal of the line reports (R287, R288). -/
def Frame.flags (f : Frame) : Nat :=
  if f.exact then
    (List.range (tgtCount f.tgt)).foldl (fun m i => m ||| (f.value i).2.toNat) (if f.nx then 1 else 0)
  else f.fl

/-- A frame at its opening, over the line's bytes (R284, R302). -/
def Frame.open_ (ctx idx ctrl key : Nat) (line : List Byte) : Frame :=
  let tgt := ctrl % 4
  let exact := bit ctrl 2
  let init := bit ctrl 7
  let n := tgtCount tgt
  let f : Frame := ⟨ctx, idx, exact, tgt, bits ctrl 5 3, signed 12 (bits ctrl 19 8), key, List.replicate n 0, List.replicate n 0,
    false, if init then line else List.replicate 128 0, 0, 0, none⟩
  if exact && init then (List.range n).foldl (fun f i => f.arrive (i * tySize tgt) (.code tgt (elemAt tgt line i))) f else f

/-- A control word is invalid (R284). -/
def badControl (c : Nat) : Bool :=
  bits c 31 20 == 0 || 5 ≤ bits c 5 3 || (bits c 19 8 != 0 && (!bit c 2 || 2 ≤ c % 4)) || (bits c 5 3 != 0 && 2 ≤ c % 4)

/-- The 768-byte image of a spilled frame (R292). -/
def Frame.image (f : Frame) (line handle : Nat) : List Byte :=
  let W := tgtW f.tgt
  let pad := fun (n : Nat) (bs : List Byte) => (bs ++ List.replicate n 0).take n
  let win := if f.exact then (f.s.map (fun S => leBytes (W / 8) (wrap W S))).flatten else f.vals
  let ext := if f.exact then (f.s.map (fun S => leBytes 4 (wrap (W + 32) S / 2 ^ W))).flatten else []
  pad 512 win ++ pad 128 ext ++ pad 32 (if f.exact then f.est.map (BitVec.ofNat 8) else [])
    ++ leBytes 8 line ++ leBytes 4 handle ++ leBytes 4 (if f.exact then (if f.nx then 1 else 0) else f.fl)
    ++ leBytes 8 f.count ++ List.replicate 72 0

end Sys2Proof.Machine
end

