-- ==== Sys2Proof/Syntax.lean ====
section
/-! DEFINITION. The syntax of the KS-OH4: one constructor per row of the operation table. A row with an instruction
word carries the fields of its encoding (03_formats_and_opcode_map.md, R44) as they stand in the word; a row without one
is an event of another agent (95_what_each_step_holds.md) and carries the event's input. -/

namespace Sys2Proof

/-- The instructions of the opcode map (R57-R65) and the events of the part's other agents. An operand field is the raw
7-bit operand code of R47; in M-form the address field holds code bits [6:1] (R44); `nw` is the NW bit (R51). -/
inductive Instr where
  /-- R54: LIT prefix: its payload supplies bits of the next I-form instruction's immediate, and the pair executes and retires as one instruction -/
  | lit (pay : BitVec 27)
  /-- R98: Vector 32-bit add modulo 2^32 -/
  | addN32 (d a b : Code) (nw : Bool)
  /-- R98: Vector 32-bit subtract modulo 2^32 -/
  | subN32 (d a b : Code) (nw : Bool)
  /-- R98: Vector 32-bit multiply, low word -/
  | mulN32 (d a b : Code) (nw : Bool)
  /-- R98: Vector signed multiply, high word -/
  | mulhiS32 (d a b : Code) (nw : Bool)
  /-- R98: Vector unsigned multiply, high word -/
  | mulhiN32 (d a b : Code) (nw : Bool)
  /-- R98: Vector multiply-add A*B+D modulo 2^32 -/
  | madN32 (d a b : Code) (nw : Bool)
  /-- R98: Vector bitwise AND -/
  | andN32 (d a b : Code) (nw : Bool)
  /-- R98: Vector bitwise OR; also the mov.n32 alias -/
  | orN32 (d a b : Code) (nw : Bool)
  /-- R98: Vector bitwise XOR -/
  | xorN32 (d a b : Code) (nw : Bool)
  /-- R98: Vector shift left; counts of 32 or more give 0 -/
  | shlN32 (d a b : Code) (nw : Bool)
  /-- R98: Vector logical shift right -/
  | shrN32 (d a b : Code) (nw : Bool)
  /-- R98: Vector arithmetic shift right -/
  | shrS32 (d a b : Code) (nw : Bool)
  /-- R98: Vector signed minimum -/
  | minS32 (d a b : Code) (nw : Bool)
  /-- R98: Vector unsigned minimum -/
  | minN32 (d a b : Code) (nw : Bool)
  /-- R98: Vector signed maximum -/
  | maxS32 (d a b : Code) (nw : Bool)
  /-- R98: Vector unsigned maximum -/
  | maxN32 (d a b : Code) (nw : Bool)
  /-- R98: Vector set if equal -/
  | seqN32 (d a b : Code) (nw : Bool)
  /-- R98: Vector set if signed less than -/
  | sltS32 (d a b : Code) (nw : Bool)
  /-- R98: Vector set if unsigned less than -/
  | sltN32 (d a b : Code) (nw : Bool)
  /-- R98: Vector select A if D is nonzero, else B -/
  | selN32 (d a b : Code) (nw : Bool)
  /-- R98: Vector population count -/
  | popN32 (d a : Code) (nw : Bool)
  /-- R98: Vector count leading zeros -/
  | clzN32 (d a : Code) (nw : Bool)
  /-- R98: Vector bit reverse -/
  | brevN32 (d a : Code) (nw : Bool)
  /-- R98: Vector signed saturating add -/
  | addsS32 (d a b : Code) (nw : Bool)
  /-- R98: Vector signed saturating subtract -/
  | subsS32 (d a b : Code) (nw : Bool)
  /-- R98: Vector unsigned saturating add -/
  | addsN32 (d a b : Code) (nw : Bool)
  /-- R98: Vector unsigned saturating subtract -/
  | subsN32 (d a b : Code) (nw : Bool)
  /-- R98: Vector bit-field extract -/
  | bfxN32 (d a b : Code) (nw : Bool)
  /-- R98: Vector bit-field insert -/
  | bfiN32 (d a b : Code) (nw : Bool)
  /-- R100: Vector 32-bit add of an immediate; the assembler also writes it as sub.n32 or mov.n32 -/
  | addImmN32 (d a : Code) (nw : Bool) (imm : BitVec 12)
  /-- R100: Wave 32-bit add of an immediate; the assembler also writes it as sub.n32 or mov.n32 -/
  | waveAddImmN32 (d a : Code) (nw : Bool) (imm : BitVec 12)
  /-- R101: Vector 64-bit pair add -/
  | addN64 (d a b : Code) (nw : Bool)
  /-- R101: Vector 64-bit pair subtract -/
  | subN64 (d a b : Code) (nw : Bool)
  /-- R101: Vector pair plus zero-extended 32-bit value -/
  | addxN64 (d a b : Code) (nw : Bool)
  /-- R101: Vector pair plus sign-extended 32-bit value -/
  | addxS64 (d a b : Code) (nw : Bool)
  /-- R101: Vector 64-bit shift left -/
  | shlN64 (d a b : Code) (nw : Bool)
  /-- R101: Vector 64-bit logical shift right -/
  | shrN64 (d a b : Code) (nw : Bool)
  /-- R101: Vector 64-bit arithmetic shift right -/
  | shrS64 (d a b : Code) (nw : Bool)
  /-- R101: Vector 64-bit AND -/
  | andN64 (d a b : Code) (nw : Bool)
  /-- R101: Vector 64-bit OR; also the mov.n64 alias -/
  | orN64 (d a b : Code) (nw : Bool)
  /-- R101: Vector 64-bit XOR -/
  | xorN64 (d a b : Code) (nw : Bool)
  /-- R101: Vector 64-bit set if equal -/
  | seqN64 (d a b : Code) (nw : Bool)
  /-- R101: Vector 64-bit set if signed less than -/
  | sltS64 (d a b : Code) (nw : Bool)
  /-- R101: Vector 64-bit set if unsigned less than -/
  | sltN64 (d a b : Code) (nw : Bool)
  /-- R101: Vector full 64-bit unsigned product of 32-bit values -/
  | mulwN32 (d a b : Code) (nw : Bool)
  /-- R101: Vector full 64-bit signed product of 32-bit values -/
  | mulwS32 (d a b : Code) (nw : Bool)
  /-- R102: Wave 32-bit add -/
  | waveAddN32 (d a b : Code) (nw : Bool)
  /-- R102: Wave 32-bit subtract -/
  | waveSubN32 (d a b : Code) (nw : Bool)
  /-- R102: Wave 32-bit multiply -/
  | waveMulN32 (d a b : Code) (nw : Bool)
  /-- R102: Wave signed multiply, high word -/
  | waveMulhiS32 (d a b : Code) (nw : Bool)
  /-- R102: Wave unsigned multiply, high word -/
  | waveMulhiN32 (d a b : Code) (nw : Bool)
  /-- R102: Wave multiply-add -/
  | waveMadN32 (d a b : Code) (nw : Bool)
  /-- R102: Wave AND -/
  | waveAndN32 (d a b : Code) (nw : Bool)
  /-- R102: Wave OR; also the mov.n32 alias -/
  | waveOrN32 (d a b : Code) (nw : Bool)
  /-- R102: Wave XOR -/
  | waveXorN32 (d a b : Code) (nw : Bool)
  /-- R102: Wave shift left -/
  | waveShlN32 (d a b : Code) (nw : Bool)
  /-- R102: Wave logical shift right -/
  | waveShrN32 (d a b : Code) (nw : Bool)
  /-- R102: Wave arithmetic shift right -/
  | waveShrS32 (d a b : Code) (nw : Bool)
  /-- R102: Wave signed minimum -/
  | waveMinS32 (d a b : Code) (nw : Bool)
  /-- R102: Wave unsigned minimum -/
  | waveMinN32 (d a b : Code) (nw : Bool)
  /-- R102: Wave signed maximum -/
  | waveMaxS32 (d a b : Code) (nw : Bool)
  /-- R102: Wave unsigned maximum -/
  | waveMaxN32 (d a b : Code) (nw : Bool)
  /-- R102: Wave set if equal -/
  | waveSeqN32 (d a b : Code) (nw : Bool)
  /-- R102: Wave set if signed less than -/
  | waveSltS32 (d a b : Code) (nw : Bool)
  /-- R102: Wave set if unsigned less than -/
  | waveSltN32 (d a b : Code) (nw : Bool)
  /-- R102: Wave select -/
  | waveSelN32 (d a b : Code) (nw : Bool)
  /-- R102: Wave population count -/
  | wavePopN32 (d a : Code) (nw : Bool)
  /-- R102: Wave count leading zeros -/
  | waveClzN32 (d a : Code) (nw : Bool)
  /-- R102: Wave bit reverse -/
  | waveBrevN32 (d a : Code) (nw : Bool)
  /-- R102: Wave signed saturating add -/
  | waveAddsS32 (d a b : Code) (nw : Bool)
  /-- R102: Wave signed saturating subtract -/
  | waveSubsS32 (d a b : Code) (nw : Bool)
  /-- R102: Wave unsigned saturating add -/
  | waveAddsN32 (d a b : Code) (nw : Bool)
  /-- R102: Wave unsigned saturating subtract -/
  | waveSubsN32 (d a b : Code) (nw : Bool)
  /-- R102: Wave bit-field extract -/
  | waveBfxN32 (d a b : Code) (nw : Bool)
  /-- R102: Wave bit-field insert -/
  | waveBfiN32 (d a b : Code) (nw : Bool)
  /-- R102: Wave 64-bit pair add -/
  | waveAddN64 (d a b : Code) (nw : Bool)
  /-- R102: Wave 64-bit pair subtract -/
  | waveSubN64 (d a b : Code) (nw : Bool)
  /-- R102: Wave 64-bit set if unsigned less than -/
  | waveSltN64 (d a b : Code) (nw : Bool)
  /-- R104: binary32 add rounded in the thread's mode -/
  | addF32 (d a b : Code) (nw : Bool)
  /-- R104: binary32 add, rne -/
  | addF32Rne (d a b : Code) (nw : Bool)
  /-- R104: binary32 add, rtz -/
  | addF32Rtz (d a b : Code) (nw : Bool)
  /-- R104: binary32 add, rup -/
  | addF32Rup (d a b : Code) (nw : Bool)
  /-- R104: binary32 add, rdn -/
  | addF32Rdn (d a b : Code) (nw : Bool)
  /-- R104: binary32 subtract in the thread's mode -/
  | subF32 (d a b : Code) (nw : Bool)
  /-- R104: binary32 subtract, rne -/
  | subF32Rne (d a b : Code) (nw : Bool)
  /-- R104: binary32 subtract, rtz -/
  | subF32Rtz (d a b : Code) (nw : Bool)
  /-- R104: binary32 subtract, rup -/
  | subF32Rup (d a b : Code) (nw : Bool)
  /-- R104: binary32 subtract, rdn -/
  | subF32Rdn (d a b : Code) (nw : Bool)
  /-- R104: binary32 multiply in the thread's mode -/
  | mulF32 (d a b : Code) (nw : Bool)
  /-- R104: binary32 multiply, rne -/
  | mulF32Rne (d a b : Code) (nw : Bool)
  /-- R104: binary32 multiply, rtz -/
  | mulF32Rtz (d a b : Code) (nw : Bool)
  /-- R104: binary32 multiply, rup -/
  | mulF32Rup (d a b : Code) (nw : Bool)
  /-- R104: binary32 multiply, rdn -/
  | mulF32Rdn (d a b : Code) (nw : Bool)
  /-- R104: binary32 fused multiply-add in the thread's mode -/
  | fmaF32 (d a b : Code) (nw : Bool)
  /-- R104: binary32 fused multiply-add, rne -/
  | fmaF32Rne (d a b : Code) (nw : Bool)
  /-- R104: binary32 fused multiply-add, rtz -/
  | fmaF32Rtz (d a b : Code) (nw : Bool)
  /-- R104: binary32 fused multiply-add, rup -/
  | fmaF32Rup (d a b : Code) (nw : Bool)
  /-- R104: binary32 fused multiply-add, rdn -/
  | fmaF32Rdn (d a b : Code) (nw : Bool)
  /-- R107: binary32 minimum with NaN and signed-zero rules -/
  | minF32 (d a b : Code) (nw : Bool)
  /-- R107: binary32 maximum -/
  | maxF32 (d a b : Code) (nw : Bool)
  /-- R108: binary32 compare equal -/
  | ceqF32 (d a b : Code) (nw : Bool)
  /-- R108: binary32 compare less than -/
  | cltF32 (d a b : Code) (nw : Bool)
  /-- R108: binary32 compare less or equal -/
  | cleF32 (d a b : Code) (nw : Bool)
  /-- R108: binary32 compare unordered -/
  | cunF32 (d a b : Code) (nw : Bool)
  /-- R106: binary16 add in the thread's mode -/
  | addF16 (d a b : Code) (nw : Bool)
  /-- R106: binary16 multiply -/
  | mulF16 (d a b : Code) (nw : Bool)
  /-- R106: binary16 fused multiply-add -/
  | fmaF16 (d a b : Code) (nw : Bool)
  /-- R106: bfloat16 add -/
  | addBf16 (d a b : Code) (nw : Bool)
  /-- R106: bfloat16 multiply -/
  | mulBf16 (d a b : Code) (nw : Bool)
  /-- R106: bfloat16 fused multiply-add -/
  | fmaBf16 (d a b : Code) (nw : Bool)
  /-- R104: binary64 add in the thread's mode -/
  | addF64 (d a b : Code) (nw : Bool)
  /-- R104: binary64 add, rne -/
  | addF64Rne (d a b : Code) (nw : Bool)
  /-- R104: binary64 add, rtz -/
  | addF64Rtz (d a b : Code) (nw : Bool)
  /-- R104: binary64 add, rup -/
  | addF64Rup (d a b : Code) (nw : Bool)
  /-- R104: binary64 add, rdn -/
  | addF64Rdn (d a b : Code) (nw : Bool)
  /-- R104: binary64 subtract in the thread's mode -/
  | subF64 (d a b : Code) (nw : Bool)
  /-- R104: binary64 subtract, rne -/
  | subF64Rne (d a b : Code) (nw : Bool)
  /-- R104: binary64 subtract, rtz -/
  | subF64Rtz (d a b : Code) (nw : Bool)
  /-- R104: binary64 subtract, rup -/
  | subF64Rup (d a b : Code) (nw : Bool)
  /-- R104: binary64 subtract, rdn -/
  | subF64Rdn (d a b : Code) (nw : Bool)
  /-- R104: binary64 multiply in the thread's mode -/
  | mulF64 (d a b : Code) (nw : Bool)
  /-- R104: binary64 multiply, rne -/
  | mulF64Rne (d a b : Code) (nw : Bool)
  /-- R104: binary64 multiply, rtz -/
  | mulF64Rtz (d a b : Code) (nw : Bool)
  /-- R104: binary64 multiply, rup -/
  | mulF64Rup (d a b : Code) (nw : Bool)
  /-- R104: binary64 multiply, rdn -/
  | mulF64Rdn (d a b : Code) (nw : Bool)
  /-- R104: binary64 fused multiply-add in the thread's mode -/
  | fmaF64 (d a b : Code) (nw : Bool)
  /-- R104: binary64 fused multiply-add, rne -/
  | fmaF64Rne (d a b : Code) (nw : Bool)
  /-- R104: binary64 fused multiply-add, rtz -/
  | fmaF64Rtz (d a b : Code) (nw : Bool)
  /-- R104: binary64 fused multiply-add, rup -/
  | fmaF64Rup (d a b : Code) (nw : Bool)
  /-- R104: binary64 fused multiply-add, rdn -/
  | fmaF64Rdn (d a b : Code) (nw : Bool)
  /-- R107: binary64 minimum -/
  | minF64 (d a b : Code) (nw : Bool)
  /-- R107: binary64 maximum -/
  | maxF64 (d a b : Code) (nw : Bool)
  /-- R108: binary64 compare equal -/
  | ceqF64 (d a b : Code) (nw : Bool)
  /-- R108: binary64 compare less than -/
  | cltF64 (d a b : Code) (nw : Bool)
  /-- R108: binary64 compare less or equal -/
  | cleF64 (d a b : Code) (nw : Bool)
  /-- R108: binary64 compare unordered -/
  | cunF64 (d a b : Code) (nw : Bool)
  /-- R109: binary64 clear sign bit -/
  | absF64 (d a : Code) (nw : Bool)
  /-- R109: binary64 invert sign bit -/
  | negF64 (d a : Code) (nw : Bool)
  /-- R109: binary64 one-hot classification -/
  | classF64 (d a : Code) (nw : Bool)
  /-- R111: binary32 correctly rounded divide -/
  | divF32 (d a b : Code) (nw : Bool)
  /-- R111: binary32 square root -/
  | sqrtF32 (d a : Code) (nw : Bool)
  /-- R111: binary32 reciprocal -/
  | rcpF32 (d a : Code) (nw : Bool)
  /-- R111: binary32 reciprocal square root -/
  | rsqF32 (d a : Code) (nw : Bool)
  /-- R111: binary32 power of two -/
  | exp2F32 (d a : Code) (nw : Bool)
  /-- R111: binary32 base-2 logarithm -/
  | log2F32 (d a : Code) (nw : Bool)
  /-- R111: binary32 sin(pi x) -/
  | sinpiF32 (d a : Code) (nw : Bool)
  /-- R111: binary32 cos(pi x) -/
  | cospiF32 (d a : Code) (nw : Bool)
  /-- R109: binary32 clear sign bit -/
  | absF32 (d a : Code) (nw : Bool)
  /-- R109: binary32 invert sign bit -/
  | negF32 (d a : Code) (nw : Bool)
  /-- R109: binary32 one-hot classification -/
  | classF32 (d a : Code) (nw : Bool)
  /-- R109: binary16 clear sign bit -/
  | absF16 (d a : Code) (nw : Bool)
  /-- R109: binary16 invert sign bit -/
  | negF16 (d a : Code) (nw : Bool)
  /-- R109: bfloat16 clear sign bit -/
  | absBf16 (d a : Code) (nw : Bool)
  /-- R109: bfloat16 invert sign bit -/
  | negBf16 (d a : Code) (nw : Bool)
  /-- R111: binary64 divide -/
  | divF64 (d a b : Code) (nw : Bool)
  /-- R111: binary64 square root -/
  | sqrtF64 (d a : Code) (nw : Bool)
  /-- R111: binary64 reciprocal -/
  | rcpF64 (d a : Code) (nw : Bool)
  /-- R111: binary64 reciprocal square root -/
  | rsqF64 (d a : Code) (nw : Bool)
  /-- R111: binary64 power of two -/
  | exp2F64 (d a : Code) (nw : Bool)
  /-- R111: binary64 base-2 logarithm -/
  | log2F64 (d a : Code) (nw : Bool)
  /-- R115: Convert binary64 to binary32 with the selected rounding -/
  | cnvF64F32 (d a sel : Code) (nw : Bool)
  /-- R115: Exact widening of binary32 to binary64 -/
  | cnvF32F64 (d a : Code) (nw : Bool)
  /-- R115: Convert binary32 to binary16 -/
  | cnvF32F16 (d a sel : Code) (nw : Bool)
  /-- R115: Exact widening of binary16 to binary32 -/
  | cnvF16F32 (d a : Code) (nw : Bool)
  /-- R115: Convert binary32 to bfloat16 -/
  | cnvF32Bf16 (d a sel : Code) (nw : Bool)
  /-- R115: Exact widening of bfloat16 to binary32 -/
  | cnvBf16F32 (d a : Code) (nw : Bool)
  /-- R115: Convert binary64 to binary16, one rounding -/
  | cnvF64F16 (d a sel : Code) (nw : Bool)
  /-- R115: Convert binary64 to bfloat16, one rounding -/
  | cnvF64Bf16 (d a sel : Code) (nw : Bool)
  /-- R116: Convert binary32 to signed 32-bit integer -/
  | cnvF32S32 (d a sel : Code) (nw : Bool)
  /-- R116: Convert binary32 to unsigned 32-bit integer -/
  | cnvF32N32 (d a sel : Code) (nw : Bool)
  /-- R117: Convert signed 32-bit integer to binary32 -/
  | cnvS32F32 (d a sel : Code) (nw : Bool)
  /-- R117: Convert unsigned 32-bit integer to binary32 -/
  | cnvN32F32 (d a sel : Code) (nw : Bool)
  /-- R116: Convert binary64 to signed 32-bit integer -/
  | cnvF64S32 (d a sel : Code) (nw : Bool)
  /-- R116: Convert binary64 to unsigned 32-bit integer -/
  | cnvF64N32 (d a sel : Code) (nw : Bool)
  /-- R117: Exact conversion of signed 32-bit integer to binary64 -/
  | cnvS32F64 (d a : Code) (nw : Bool)
  /-- R117: Exact conversion of unsigned 32-bit integer to binary64 -/
  | cnvN32F64 (d a : Code) (nw : Bool)
  /-- R116: Convert binary64 to signed 64-bit integer -/
  | cnvF64S64 (d a sel : Code) (nw : Bool)
  /-- R116: Convert binary64 to unsigned 64-bit integer -/
  | cnvF64N64 (d a sel : Code) (nw : Bool)
  /-- R117: Convert signed 64-bit integer to binary64 -/
  | cnvS64F64 (d a sel : Code) (nw : Bool)
  /-- R117: Convert unsigned 64-bit integer to binary64 -/
  | cnvN64F64 (d a sel : Code) (nw : Bool)
  /-- R117: Convert signed 64-bit integer to binary32 -/
  | cnvS64F32 (d a sel : Code) (nw : Bool)
  /-- R117: Convert unsigned 64-bit integer to binary32 -/
  | cnvN64F32 (d a sel : Code) (nw : Bool)
  /-- R118: Clamp a signed value to s16, sign-extended -/
  | cnvS32S16 (d a sel : Code) (nw : Bool)
  /-- R118: Clamp a signed value to n16, zero-extended -/
  | cnvS32N16 (d a sel : Code) (nw : Bool)
  /-- R118: Clamp a signed value to s8, sign-extended -/
  | cnvS32S8 (d a sel : Code) (nw : Bool)
  /-- R118: Clamp a signed value to n8, zero-extended -/
  | cnvS32N8 (d a sel : Code) (nw : Bool)
  /-- R118: Sign-extend 32 bits to a pair -/
  | cnvS32S64 (d a : Code) (nw : Bool)
  /-- R118: Zero-extend 32 bits to a pair -/
  | cnvN32N64 (d a : Code) (nw : Bool)
  /-- R119: Round binary32 to an integral value in the same format -/
  | rintF32 (d a sel : Code) (nw : Bool)
  /-- R119: Round binary64 to an integral value in the same format -/
  | rintF64 (d a sel : Code) (nw : Bool)
  /-- R160: Write one mask word per beat of active threads whose value is nonzero -/
  | ballot (d a : Code)
  /-- R160: Wave truth: some active thread nonzero -/
  | vany (d a : Code) (nw : Bool)
  /-- R160: Wave truth: every active thread nonzero -/
  | vall (d a : Code) (nw : Bool)
  /-- R161: Count the one bits of a wave register triple -/
  | mpop (d a : Code) (nw : Bool)
  /-- R161: Find the first set thread bit of a wave register triple -/
  | mffs (d a : Code) (nw : Bool)
  /-- R162: Each active thread receives the value of a selected thread -/
  | lsel (d a b : Code) (nw : Bool)
  /-- R162: Each active thread receives the value of a thread n behind -/
  | lbck (d a b : Code) (nw : Bool)
  /-- R162: Each active thread receives the value of a thread n ahead -/
  | lfwd (d a b : Code) (nw : Bool)
  /-- R162: Each active thread receives the value of the thread t XOR n -/
  | lmir (d a b : Code) (nw : Bool)
  /-- R163: Write one thread's value to a wave register -/
  | bcast (d a b : Code) (nw : Bool)
  /-- R164: Inclusive prefix sum over active threads -/
  | scanN32 (d a : Code) (nw : Bool)
  /-- R164: Exclusive prefix sum over active threads -/
  | xscanN32 (d a : Code) (nw : Bool)
  /-- R165: Integer sum reduction to a wave register -/
  | redaddN32 (d a : Code) (nw : Bool)
  /-- R165: Signed minimum reduction -/
  | redminS32 (d a : Code) (nw : Bool)
  /-- R165: Signed maximum reduction -/
  | redmaxS32 (d a : Code) (nw : Bool)
  /-- R165: AND reduction -/
  | redandN32 (d a : Code) (nw : Bool)
  /-- R165: OR reduction -/
  | redorN32 (d a : Code) (nw : Bool)
  /-- R166: Exact binary32 sum over active threads, rounded once, flags to the lowest thread -/
  | redaddF32 (d a : Code) (nw : Bool)
  /-- R125: Unconditional uniform branch -/
  | br (off : BitVec 24)
  /-- R125: Branch when w56 is zero -/
  | bz (off : BitVec 24)
  /-- R125: Branch when w56 is nonzero -/
  | bnz (off : BitVec 24)
  /-- R125: Write PC+4 to w54.d and branch -/
  | call (off : BitVec 24)
  /-- R168: Push a RECONV token holding the target and the current mask -/
  | split (off : BitVec 24)
  /-- R143: Per-lane branch on w57-w59, pushing a PATH token for deferred taken threads when divergent -/
  | bl (off : BitVec 24)
  /-- R145: Remove threads from the current mask and every token above the loop token -/
  | brk (off : BitVec 24)
  /-- R144: Pop the top token and install its mask and address -/
  | join
  /-- R126: Jump to w54.d -/
  | ret
  /-- R126: Jump to a wave pair -/
  | jr (a : Code)
  /-- R126: Jump to a wave pair and write the return address to a pair -/
  | jalr (d a : Code)
  /-- R171: Wait until the selected outstanding-operation counters reach their thresholds; yielding -/
  | waitc (tv tw ts te tf : BitVec 4)
  /-- R172: Exchange the wave when a ready pending wave exists -/
  | yield
  /-- R127: End the wave, discard its token stack and release its slot once its operations are accepted -/
  | exit
  /-- R134: Retire and enter supervisor mode with CLASS 0x08 -/
  | svc (num : Code)
  /-- R134: Enter supervisor mode with CLASS 0x09 without retiring -/
  | trap (num : Code)
  /-- R134: Restore the latches, leave supervisor mode and resume at epch:epcl -/
  | eret
  /-- R130: Read a wave system register into a wave register -/
  | rsr (d sel : Code) (nw : Bool)
  /-- R130: Write a wave system register from a wave register -/
  | wsr (a sel : Code)
  /-- R130: Read each active thread's system register (fsr) -/
  | vrsr (d sel : Code) (nw : Bool)
  /-- R130: Write each active thread's system register (fsr) -/
  | vwsr (a sel : Code)
  /-- R136: Read the retired-instruction count into a wave pair -/
  | clk (d : Code) (nw : Bool)
  /-- R137: Set wbase to 8n -/
  | win (b : Code)
  /-- R138: Post or give back a power-leave request for a matrix class -/
  | leave (num : Code)
  /-- R245: Vector load of an unsigned byte -/
  | ldN8 (d : Code) (a : BitVec 6) (b : Code) (sc : BitVec 3)
  /-- R245: Vector load of a signed byte -/
  | ldS8 (d : Code) (a : BitVec 6) (b : Code) (sc : BitVec 3)
  /-- R245: Vector load of an unsigned halfword -/
  | ldN16 (d : Code) (a : BitVec 6) (b : Code) (sc : BitVec 3)
  /-- R245: Vector load of a signed halfword -/
  | ldS16 (d : Code) (a : BitVec 6) (b : Code) (sc : BitVec 3)
  /-- R245: Vector load of a 32-bit word; an acquire for scopes cr to sy -/
  | ld32 (d : Code) (a : BitVec 6) (b : Code) (sc : BitVec 3)
  /-- R245: Vector load of a 64-bit pair -/
  | ld64 (d : Code) (a : BitVec 6) (b : Code) (sc : BitVec 3)
  /-- R245: Uniform load of an unsigned byte -/
  | ldUniN8 (d : Code) (a : BitVec 6) (b : Code) (sc : BitVec 3)
  /-- R245: Uniform load of a signed byte -/
  | ldUniS8 (d : Code) (a : BitVec 6) (b : Code) (sc : BitVec 3)
  /-- R245: Uniform load of an unsigned halfword -/
  | ldUniN16 (d : Code) (a : BitVec 6) (b : Code) (sc : BitVec 3)
  /-- R245: Uniform load of a signed halfword -/
  | ldUniS16 (d : Code) (a : BitVec 6) (b : Code) (sc : BitVec 3)
  /-- R245: Uniform load of a 32-bit word -/
  | ldUni32 (d : Code) (a : BitVec 6) (b : Code) (sc : BitVec 3)
  /-- R245: Uniform load of a 64-bit pair -/
  | ldUni64 (d : Code) (a : BitVec 6) (b : Code) (sc : BitVec 3)
  /-- R246: Vector byte store; a release for scopes cr to sy -/
  | st8 (d : Code) (a : BitVec 6) (b : Code) (sc : BitVec 3)
  /-- R246: Vector halfword store -/
  | st16 (d : Code) (a : BitVec 6) (b : Code) (sc : BitVec 3)
  /-- R246: Vector word store -/
  | st32 (d : Code) (a : BitVec 6) (b : Code) (sc : BitVec 3)
  /-- R246: Vector pair store -/
  | st64 (d : Code) (a : BitVec 6) (b : Code) (sc : BitVec 3)
  /-- R246: Uniform byte store -/
  | stUni8 (d : Code) (a : BitVec 6) (b : Code) (sc : BitVec 3)
  /-- R246: Uniform halfword store -/
  | stUni16 (d : Code) (a : BitVec 6) (b : Code) (sc : BitVec 3)
  /-- R246: Uniform word store -/
  | stUni32 (d : Code) (a : BitVec 6) (b : Code) (sc : BitVec 3)
  /-- R246: Uniform pair store -/
  | stUni64 (d : Code) (a : BitVec 6) (b : Code) (sc : BitVec 3)
  /-- R249: Compress-store 32-bit values of active threads, resumable from w60 after a partial fault -/
  | stcN32 (d : Code) (a : BitVec 6) (sc : BitVec 3)
  /-- R249: Compress-store 64-bit values of active threads -/
  | stcN64 (d : Code) (a : BitVec 6) (sc : BitVec 3)
  /-- R251: Atomic 32-bit add -/
  | amaddN32 (d : Code) (a : BitVec 6) (b : Code) (sc : BitVec 3)
  /-- R251: Atomic 64-bit add -/
  | amaddN64 (d : Code) (a : BitVec 6) (b : Code) (sc : BitVec 3)
  /-- R252: Atomic binary32 add, rne, folded into an open session -/
  | amaddF32 (d : Code) (a : BitVec 6) (b : Code) (sc : BitVec 3)
  /-- R252: Atomic binary64 add -/
  | amaddF64 (d : Code) (a : BitVec 6) (b : Code) (sc : BitVec 3)
  /-- R251: Atomic signed minimum -/
  | amminS32 (d : Code) (a : BitVec 6) (b : Code) (sc : BitVec 3)
  /-- R251: Atomic signed maximum -/
  | ammaxS32 (d : Code) (a : BitVec 6) (b : Code) (sc : BitVec 3)
  /-- R251: Atomic unsigned minimum -/
  | amminN32 (d : Code) (a : BitVec 6) (b : Code) (sc : BitVec 3)
  /-- R251: Atomic unsigned maximum -/
  | ammaxN32 (d : Code) (a : BitVec 6) (b : Code) (sc : BitVec 3)
  /-- R251: Atomic AND -/
  | amandN32 (d : Code) (a : BitVec 6) (b : Code) (sc : BitVec 3)
  /-- R251: Atomic OR -/
  | amorN32 (d : Code) (a : BitVec 6) (b : Code) (sc : BitVec 3)
  /-- R251: Atomic XOR -/
  | amxorN32 (d : Code) (a : BitVec 6) (b : Code) (sc : BitVec 3)
  /-- R251: Atomic 32-bit swap -/
  | amswpN32 (d : Code) (a : BitVec 6) (b : Code) (sc : BitVec 3)
  /-- R251: Atomic 64-bit swap -/
  | amswpN64 (d : Code) (a : BitVec 6) (b : Code) (sc : BitVec 3)
  /-- R251: Atomic 32-bit compare-and-swap -/
  | amcasN32 (d : Code) (a : BitVec 6) (b : Code) (sc : BitVec 3)
  /-- R251: Atomic 64-bit compare-and-swap -/
  | amcasN64 (d : Code) (a : BitVec 6) (b : Code) (sc : BitVec 3)
  /-- R255: Order and complete the named classes (mem, eng, acc, fs) at a scope -/
  | fence (cls : BitVec 4) (sc : BitVec 3)
  /-- R258: Write dirty bytes of a line down to the scope's level -/
  | cwb (a : BitVec 6) (b : Code) (sc : BitVec 3)
  /-- R258: Write a line down, then drop copies at the scope's levels -/
  | cinv (a : BitVec 6) (b : Code) (sc : BitVec 3)
  /-- R258: Discard dirty bytes and drop copies at the scope's levels -/
  | cinvd (a : BitVec 6) (b : Code) (sc : BitVec 3)
  /-- R258: Prefetch a line into the scope's level -/
  | pref (a : BitVec 6) (b : Code) (sc : BitVec 3)
  /-- R302: Open an accumulation session, waiting for frames; yielding -/
  | aopen (d a b : Code)
  /-- R302: Open a session only if frames are free now, else return 0 -/
  | aopennb (d a b : Code)
  /-- R303: Post binary32 arrivals of active threads to session elements -/
  | aredF32 (d a b : Code)
  /-- R303: Post binary64 arrivals -/
  | aredF64 (d a b : Code)
  /-- R303: Post s32 arrivals -/
  | aredS32 (d a b : Code)
  /-- R303: Post s64 arrivals -/
  | aredS64 (d a b : Code)
  /-- R304: Seal a session after a device-scope release and return its flags word -/
  | aseal (d a : Code)
  /-- R305: Read 8 bytes, taking open lines from their snapshot -/
  | asnap (d a : Code)
  /-- R306: Read a session's status word -/
  | aqry (d a : Code)
  /-- R318: Tile product in f64 drained into a local-store tile -/
  | mmaF64 (d a b : Code)
  /-- R318: Tile product in f32 drained into a local-store tile -/
  | mmaF32 (d a b : Code)
  /-- R318: Tile product of f16 inputs with f32 steps -/
  | mmaF16 (d a b : Code)
  /-- R318: Tile product of bf16 inputs with f32 steps -/
  | mmaBf16 (d a b : Code)
  /-- R319: MX block product into exact partial sums -/
  | mmaE4m3 (d a b : Code)
  /-- R319: MX block product, E5M2 -/
  | mmaE5m2 (d a b : Code)
  /-- R319: MX block product, E3M2 -/
  | mmaE3m2 (d a b : Code)
  /-- R319: MX block product, E2M3 -/
  | mmaE2m3 (d a b : Code)
  /-- R319: MX block product, E2M1 -/
  | mmaE2m1 (d a b : Code)
  /-- R319: MX block product, MXINT8 -/
  | mmaMxi8 (d a b : Code)
  /-- R319: MX block product, E4M3 by E5M2 -/
  | mmaE4m3E5m2 (d a b : Code)
  /-- R319: MX block product, E5M2 by E4M3 -/
  | mmaE5m2E4m3 (d a b : Code)
  /-- R319: MX block product, E3M2 by E2M3 -/
  | mmaE3m2E2m3 (d a b : Code)
  /-- R319: MX block product, E2M3 by E3M2 -/
  | mmaE2m3E3m2 (d a b : Code)
  /-- R318: Tile product in f64 drained as arrivals into a session -/
  | mmafF64 (d a b : Code)
  /-- R318: Tile product in f32 drained as arrivals -/
  | mmafF32 (d a b : Code)
  /-- R318: f16 tile product drained as arrivals -/
  | mmafF16 (d a b : Code)
  /-- R318: bf16 tile product drained as arrivals -/
  | mmafBf16 (d a b : Code)
  /-- R320: Scaled MX block product posted as arrivals -/
  | mmafE4m3 (d a b : Code)
  /-- R320: Scaled MX product, E5M2 -/
  | mmafE5m2 (d a b : Code)
  /-- R320: Scaled MX product, E3M2 -/
  | mmafE3m2 (d a b : Code)
  /-- R320: Scaled MX product, E2M3 -/
  | mmafE2m3 (d a b : Code)
  /-- R320: Scaled MX product, E2M1 -/
  | mmafE2m1 (d a b : Code)
  /-- R320: Scaled MX product, MXINT8 -/
  | mmafMxi8 (d a b : Code)
  /-- R320: Scaled MX product, E4M3 by E5M2 -/
  | mmafE4m3E5m2 (d a b : Code)
  /-- R320: Scaled MX product, E5M2 by E4M3 -/
  | mmafE5m2E4m3 (d a b : Code)
  /-- R320: Scaled MX product, E3M2 by E2M3 -/
  | mmafE3m2E2m3 (d a b : Code)
  /-- R320: Scaled MX product, E2M3 by E3M2 -/
  | mmafE2m3E3m2 (d a b : Code)
  /-- R322: Quantize each beat's f32 values into an E4M3 block with its scale -/
  | cvtmxE4m3F32 (d a b : Code)
  /-- R322: Quantize into an E5M2 block -/
  | cvtmxE5m2F32 (d a b : Code)
  /-- R322: Quantize into an E3M2 block -/
  | cvtmxE3m2F32 (d a b : Code)
  /-- R322: Quantize into an E2M3 block -/
  | cvtmxE2m3F32 (d a b : Code)
  /-- R322: Quantize into an E2M1 block -/
  | cvtmxE2m1F32 (d a b : Code)
  /-- R322: Quantize into an MXINT8 block -/
  | cvtmxMxi8F32 (d a b : Code)
  /-- R323: Dequantize E4M3 elements to f32 under beat scales -/
  | dqmxE4m3F32 (d a b : Code)
  /-- R323: Dequantize E5M2 elements -/
  | dqmxE5m2F32 (d a b : Code)
  /-- R323: Dequantize E3M2 elements -/
  | dqmxE3m2F32 (d a b : Code)
  /-- R323: Dequantize E2M3 elements -/
  | dqmxE2m3F32 (d a b : Code)
  /-- R323: Dequantize E2M1 elements -/
  | dqmxE2m1F32 (d a b : Code)
  /-- R323: Dequantize MXINT8 elements -/
  | dqmxMxi8F32 (d a b : Code)
  /-- R321: Apply block scales to a partial-sum tile and add into an f32 tile on the engine -/
  | scaccF32 (d a : Code)
  /-- R321: Apply block scales and add into an f64 tile -/
  | scaccF64 (d a : Code)
  /-- R325: Read a maximum register or mrp -/
  | amxrd (d a : Code)
  /-- R325: Clear a maximum register -/
  | amxclr (a : Code)
  /-- R219: Read a descriptor and post the definition of a function id to all twelve stores -/
  | fdef (a b : Code)
  /-- R220: Search the function store for each active thread, deliver hits and branch misses to the routine; yielding -/
  | fcall (d a b : Code)
  /-- R221: Return miss values, post inserts and rejoin at the FCALL token -/
  | fret (a b : Code)
  /-- R222: Invalidate every record of a function id by raising its generation -/
  | finv (b : Code)
  /-- R223: Read a function-store counter -/
  | fstat (d a b : Code)
  /-- R224: Preload records into their home buckets -/
  | fpre (a b : Code)
  /-- R338: Post a slice of a strided copy gathered by tag; the copy starts when every slice is in -/
  | copy (a b : Code)
  /-- R336: Post a slice of a 3-D box copy -/
  | copybox (a b : Code)
  /-- R341: Post a slice of a reducing copy that sends arrivals -/
  | copyred (a b : Code)
  /-- R342: Seal the open batch and return its number -/
  | cseal (d : Code)
  /-- R343: Wait until a batch and every earlier batch complete; yielding -/
  | cwait (a : Code)
  /-- R344: Wait until any selected tag is set; yielding -/
  | twaitany (a : Code)
  /-- R344: Wait until all selected tags are set; yielding -/
  | twaitall (a : Code)
  /-- R344: Return and clear the lowest set selected tag -/
  | tffr (d a : Code)
  /-- R353: Load a grid view from seven wave registers -/
  | gview (d a : Code)
  /-- R355: Load a stencil weight set from memory -/
  | gstn (d a b : Code)
  /-- R360: Post a restriction from a fine view to a coarse view -/
  | grst (a b : Code)
  /-- R360: Post a prolongation that writes the fine view -/
  | gprol (a b : Code)
  /-- R360: Post a prolongation added into the fine view -/
  | gproladd (a b : Code)
  /-- R361: Post a reducing restriction whose points arrive in a session -/
  | gred (a b : Code)
  /-- R346: Initialise a barrier register or a stream register -/
  | binit (d a : Code)
  /-- R346: Arrive on a barrier, a release at cr -/
  | barv (d : Code)
  /-- R346: Wait for the barrier phase to complete; yielding -/
  | bwait (d : Code)
  /-- R347: Add an expected byte count to PEND, trapping BAR_OVERFLOW on overflow -/
  | bexp (d a : Code)
  /-- R348: Remove the oldest stream entry, waiting while empty; yielding -/
  | spop (d b : Code)
  /-- R348: Append an entry to a stream unless full -/
  | spush (d a b : Code)
  /-- R344: Clear selected tag bits -/
  | tagclr (a : Code)
  /-- R344: Read the crew's tags -/
  | tagrd (d : Code)
  /-- R192: Release at dv and post a launch record copy to the die's device queue -/
  | launch (d a : Code)
  /-- R193: Wait until a 64-bit signal word reaches a threshold; yielding, an sy acquire -/
  | dwait (a b : Code)
  /-- R194: Grid-wide barrier phase with release and acquire at dv; yielding -/
  | gbar
  /-- R155: A wave held at a waiting instruction retires it when its condition holds at its next issue -/
  | waitConditionMet (g wv : Nat)
  /-- R155: A waiting instruction whose condition is still unmet 32 clocks after issue exchanges the wave -/
  | waitExchangeTimeout (g wv : Nat)
  /-- R190: A vacant slot is filled by the oldest pending wave at the first clock at which one is ready -/
  | vacancyFill (core : Nat)
  /-- R375: The wave takes the oldest queued deferred fault at its next user-mode instruction boundary -/
  | deferredFaultDelivery (g wv : Nat)
  /-- R195: A deterministic wave stops for the round when its count reaches a multiple of Q, and may round-exchange -/
  | quantumExpiry (g wv : Nat)
  /-- R198: When every live wave has stopped, buffers are performed in wave-id order and engine commands dispatched -/
  | detCommitPhase (g : Nat)
  /-- R245: A load's data returns, writes its destination and lowers VL or WL -/
  | loadDataReturn (g wv k : Nat)
  /-- R246: A store's bytes are performed at its level, re-translating held accesses, and ST falls -/
  | storePerformed (g wv k : Nat)
  /-- R253: An atomic is performed at its scope's level and its old value returned -/
  | atomicPerformed (g wv k : Nat)
  /-- R231: A dirty line evicted from L1, L2 or LLC writes its dirty bytes to the level below -/
  | cacheEviction (level unit line : Nat)
  /-- R392: A sector walker reads the page-table entries for a coalesced TLB miss and fills the translation -/
  | pageWalk (core ctx va : Nat)
  /-- R314: The matrix engine computes one k-step of one row block and drains it, or discards it on a fault -/
  | matrixStep (core k : Nat)
  /-- R316: The engine writes one scaled accumulator row of a scacc and advances mrp -/
  | scaccRow (core k : Nat)
  /-- R427: The sector steward grants the oldest charged leave request when the budget allows -/
  | leaveGrant (sector : Nat)
  /-- R426: A sector junction crossing 95 C changes the leave budget; at 105 C the module shuts down -/
  | temperatureThreshold (sector temp : Nat)
  /-- R339: The transfer engine performs one chunk of a copy, landing its bytes on a barrier -/
  | copyChunk (g cr tag k : Nat)
  /-- R340: A completed copy's or transfer's push enters its stream once there is room and earlier pushes are done -/
  | engineStreamPush (g cr tag : Nat)
  /-- R363: The engine forms and writes one output row of a grid transfer, indivisibly -/
  | gridTransferRow (g cr tag k : Nat)
  /-- R286: A slice applies one arrival to a frame element, EXACT or FAST, or drops a duplicate or rejects it -/
  | accumulationArrival (k : Nat)
  /-- R304: A home slice seals one line of a session, writing its values and freeing the frame -/
  | lineSeal (ctx index k : Nat)
  /-- R291: While an aopen waits, the steward spills every open frame of the longest-unbound context -/
  | frameSpill (ctx : Nat)
  /-- R291: Spilled frames are reloaded once a crew of the context is bound and slices have room -/
  | frameReload (ctx : Nat)
  /-- R207: A home store searches one bucket for a record containing the argument -/
  | fsSearch (g wv t : Nat)
  /-- R212: A hit increment is applied to its way if the way still holds the same record -/
  | fsHitIncrement (k : Nat)
  /-- R211: A home store applies an insert: drop, covered, grow, or write a new record with eviction -/
  | fsInsert (k : Nat)
  /-- R219: A store applies an fdef, raising the generation and zeroing counters -/
  | fsDefinitionApply (k store : Nat)
  /-- R222: A store applies an finv, raising the generation -/
  | fsInvalidationApply (k store : Nat)
  /-- R224: A store places one preloaded record in its home bucket -/
  | fsPreloadPlacement (k : Nat)
  /-- R206: A home store writes a whole bucket through the LLC to the record table -/
  | fsBucketSpill (ctx fid bucket : Nat)
  /-- R179: The host driver registers a launch queue, and the steward resumes or stops it by HEAD and TAIL -/
  | launchQueueRegister (die q ctx ring size headAt tailAt : Nat)
  /-- R180: A write to a queue's TAIL removes the steward's cached copy and wakes it -/
  | tailWrite (die q value : Nat)
  /-- R183: A write to an unmet dependence's signal word makes the steward read the dependence again -/
  | dependenceSignalWrite (g dep value : Nat)
  /-- R184: The steward binds a crew of an eligible grid and writes its bind record when resources allow -/
  | bindCrew (g cr core slot row lsBase image : Nat)
  /-- R187: The steward pre-empts parked consumer crews, or lower-class crews, until a starved producer's crew fits -/
  | parkedCrewPreemption (g cr : Nat)
  /-- R182: When every wave has exited and every operation completed, sessions are sealed and the completion record and signal written -/
  | gridCompletion (g : Nat)
  /-- R432: The runtime handler asks the steward to end the grid as a trap termination with STATUS 0x0001 -/
  | gridTerminationRequest (g wv : Nat)
  /-- R432: The host driver terminates a grid on its own initiative with STATUS 0x0002 -/
  | hostDriverTermination (g : Nat)
  /-- R380: A steward pre-emption request halts every core at instruction and step boundaries within 0.9 us -/
  | preemptionRequest (crews : List (Nat × Nat))
  /-- R383: After the halt the steward saves each pre-empted crew to its save area as a fence.sy.mem -/
  | crewSave (g cr : Nat)
  /-- R239: A core writes a resident crew's dirty local-store lines to its image when its LLC path is idle -/
  | localImageWriteback (g cr line : Nat)
  /-- R404: The rebalancer moves a slice-table bucket: hold, drain, flush, copy, switch SLICE and release -/
  | bucketMove (bucket slice : Nat)
  /-- R421: A host CXL.mem ownership read of a device line half invalidates device copies and sets H to E -/
  | hostMemReadOwnership (pa : Nat)
  /-- R421: A host shared read recalls exclusive device copies and sets H to S, poisoning on an uncorrectable error -/
  | hostMemReadShared (pa : Nat)
  /-- R294: A host write to device memory merges at home, sealing any open session as BROKEN first -/
  | hostMemWrite (pa : Nat) (data : List Byte)
  /-- R421: The host answers a back-invalidate snoop, with data if modified, and the device access proceeds -/
  | bisnpResponse (pa : Nat) (inv : Bool) (data : List Byte)
  /-- R409: A host snoop that invalidates writes back an M half of a host line and sets H to I -/
  | hostSnoopInvalidate (pa : Nat)
  /-- R409: A host snoop for data writes back an M half and sets H to S -/
  | hostSnoopData (pa : Nat)
  /-- R414: A receiver takes a flit in order, or on CRC or sequence error discards it and sends a retry request -/
  | linkFlitReceive (link hdr : Nat) (body : List Byte × Nat)
  /-- R414: A sender receiving a retry request resends from the expected SEQ -/
  | linkRetryRequest (link seq : Nat)
  /-- R414: After 16 failed resends of one SEQ the link retrains, or goes down and reroutes -/
  | linkRetrain (link : Nat) (ok : Bool)
  /-- R412: An owner device performs a remote access at its home slice, dropping resends and acknowledging writes -/
  | peerRemoteTransaction (src txn kind pa size data : Nat)
  /-- R411: The steward fills the fabric window table when the fabric domain is formed -/
  | fabricDomainFormation (self : Nat) (devs : List Nat × List Nat) (keyIds : List (Nat × Nat))
  /-- R417: A steward sends a heartbeat every 10 us over the management network -/
  | heartbeatSend
  /-- R417: A steward receives a heartbeat from a fabric device -/
  | heartbeatReceive (dev : Nat)
  /-- R417: After 8 missed heartbeats a device declares the peer dead, fences its links and fails open operations -/
  | deviceDead (dev : Nat)
  /-- R419: A scrub engine clears the dead device from every directory entry and takes over its replica sets -/
  | deadDeviceScrub (dev : Nat)
  /-- R416: The creating steward collapses a read-duplicated block to one writable owner, splitting pages -/
  | replicaCollapse (ctx va dev pa : Nat) (tables reply : Nat × Nat)
  /-- R393: The steward writes one page-table entry and shoots down the old translation on the device -/
  | pteChange (ctx : Nat) (entry : Nat × Nat) (dev : Nat) (reply : Nat × Nat)
  /-- R386: The steward creates a context, choosing and filling its table key slot -/
  | contextCreate (ctx root key quota saveArea : Nat) (keyIds : List Nat) (win : List (Nat × Nat))
  /-- R397: The steward seals sessions, flushes lines, empties key slots and frees the context's pages -/
  | contextTeardown (ctx : Nat)
  /-- R428: Each die's boot ROM reads fuses, verifies firmware, trains HBM and computes the defect-map signature -/
  | powerOn (die : Nat) (fuseMap fuseHash fuseVersion secret image : List Byte)
  /-- R431: An SPDM 1.3 attestation or key-exchange message is served over CXL.io -/
  | spdmRequest (kind session : Nat)
  /-- R66: Issue of a word that is of major 0x00 or 0x1A-0x1E, an unallocated minor, kind, size or scope, or a nonzero reserved field raises the precise illegal-instruction trap -/
  | illegalInstruction
  /-- R19: A fetch at a PC outside the code pages, on a page without X, or meeting an uncorrectable error raises the precise fetch translation fault at that PC -/
  | instructionFetchFault
  /-- R192: The die's steward takes a record posted by launch from the device queue, checks it as R182 states and makes the grid eligible or refuses it -/
  | deviceQueueRecord (die : Nat)
  deriving DecidableEq, Repr

end Sys2Proof
end

