-- ==== Sys2Proof/Machine/Fields.lean ====
section
/-! DEFINITION. What each encoded field of an instruction may hold (R46-R50, R61, R64 and the entries): one list of
operands per instruction, read by the well-formedness check, by the window check of R9 and by the issue logic. -/

namespace Sys2Proof

/-- What a field is: an operand position of the vector or the wave code space (R47-R50), a run of wave registers, an
implicit register, a system register number (R129) or a raw number with its limits (R61). -/
inductive Kind where
  /-- 32-bit vector destination, codes 0-95 (R49). -/
  | vDst
  /-- vector pair destination, even 0-94 (R50). -/
  | vDstP
  /-- readable 32-bit vector position (R47). -/
  | vSrc
  /-- readable vector pair position (R50). -/
  | vSrcP
  /-- vector row base of the function store, codes 0-95 (R218). -/
  | vRow
  /-- atomic destination: a vector row or `z` (R49). -/
  | vDstZ
  /-- atomic pair destination: an even vector row or `z` (R49, R50). -/
  | vDstZP
  /-- broadcast wave pair, codes 96-110 (R248). -/
  | bPair
  /-- wave destination, codes 0-63 (R49). -/
  | wDst
  /-- wave pair destination, even 0-62 (R50). -/
  | wDstP
  /-- readable wave position (R47). -/
  | wSrc
  /-- readable wave pair position (R50). -/
  | wSrcP
  /-- even wave register up to `max`: a pair that is not `z`, or the base of an operand block. -/
  | wEven (max : Nat)
  /-- wave register up to `max`. -/
  | wMax (max : Nat)
  /-- wave triple base 0-61 (R157). -/
  | wTri
  /-- wave triple base 0-61 or `z` (R157). -/
  | wTriZ
  /-- implicit wave register; always legal. -/
  | useW
  /-- number of a wave system register (R129, R131). -/
  | sysRd
  /-- number of a wave system register that software may write (R129, R131). -/
  | sysWr
  /-- number of a per-thread system register (R129, R131). -/
  | sysThr
  /-- raw number from `lo` to `hi` (R61). -/
  | range (lo hi : Nat)
  deriving DecidableEq, Repr

/-- One field of an instruction: what it is and the number it holds. -/
structure Opnd where
  kind : Kind
  code : Nat
  deriving DecidableEq, Repr

/-- The wave system registers of R131. -/
def isWaveSys (n : Nat) : Bool := (0x10 ≤ n && n ≤ 0x1D) || (0x20 ≤ n && n ≤ 0x23)

/-- The wave system registers that R131 marks RW, supervisor. -/
def isSupervisorSys (n : Nat) : Bool := (0x11 ≤ n && n ≤ 0x17) || n == 0x1C || n == 0x1D

/-- The field holds a code or number its kind allows (R46-R50, R61, R129). -/
def Opnd.ok (o : Opnd) : Bool :=
  let c := o.code
  match o.kind with
  | .vDst => c ≤ 95
  | .vDstP => c ≤ 94 && c % 2 == 0
  | .vSrc => c ≤ 115 || (120 ≤ c && c ≤ 127)
  | .vSrcP => (c ≤ 110 && c % 2 == 0) || c == 112
  | .vRow => c ≤ 95
  | .vDstZ => c ≤ 95 || c == 112
  | .vDstZP => (c ≤ 94 && c % 2 == 0) || c == 112
  | .bPair => 96 ≤ c && c ≤ 110 && c % 2 == 0
  | .wDst => c ≤ 63
  | .wDstP => c ≤ 62 && c % 2 == 0
  | .wSrc => c ≤ 63 || c == 112 || c == 114 || c == 115 || (120 ≤ c && c ≤ 127)
  | .wSrcP => (c ≤ 62 && c % 2 == 0) || c == 112
  | .wEven m => c ≤ m && c % 2 == 0
  | .wMax m => c ≤ m
  | .wTri => c ≤ 61
  | .wTriZ => c ≤ 61 || c == 112
  | .useW => true
  | .sysRd => isWaveSys c
  | .sysWr => isSupervisorSys c
  | .sysThr => c == 0
  | .range lo hi => lo ≤ c && c ≤ hi

/-- The window rows, relative to `wbase`, that a field names (R9). -/
def Opnd.rows (o : Opnd) : List Nat :=
  match o.kind with
  | .vDst | .vSrc | .vRow | .vDstZ => if o.code ≤ 95 then [o.code] else []
  | .vDstP | .vSrcP | .vDstZP => if o.code ≤ 95 then [o.code, o.code + 1] else []
  | _ => []

/-- The vector rows, relative to `wbase`, that a field reads as a source. -/
def Opnd.srcRows (o : Opnd) : List Nat :=
  match o.kind with
  | .vSrc | .vRow => if o.code ≤ 95 then [o.code] else []
  | .vSrcP => if o.code ≤ 95 then [o.code, o.code + 1] else []
  | _ => []

/-- The wave registers that a field names or reads as a broadcast (R10, R47). -/
def Opnd.wregs (o : Opnd) : List Nat :=
  let c := o.code
  match o.kind with
  | .wDst | .wSrc | .wMax _ | .useW => if c ≤ 63 then [c] else []
  | .wDstP | .wSrcP | .wEven _ => if c ≤ 63 then [c, c + 1] else []
  | .wTri | .wTriZ => if c ≤ 63 then [c, c + 1, c + 2] else []
  | .vSrc => if 96 ≤ c && c ≤ 111 then [c - 96] else []
  | .vSrcP | .bPair => if 96 ≤ c && c ≤ 111 then [c - 96, c - 95] else []
  | _ => []

/-- The operand fields of each instruction, in the order d, a, b, then raw fields and implicit registers. -/
def Instr.operands : Instr → List Opnd
  | .lit pay => [⟨.range 0 0xFFFFF, pay.toNat⟩]
  | .addN32 d a b _ => [⟨.vDst, d.toNat⟩, ⟨.vSrc, a.toNat⟩, ⟨.vSrc, b.toNat⟩]
  | .subN32 d a b _ => [⟨.vDst, d.toNat⟩, ⟨.vSrc, a.toNat⟩, ⟨.vSrc, b.toNat⟩]
  | .mulN32 d a b _ => [⟨.vDst, d.toNat⟩, ⟨.vSrc, a.toNat⟩, ⟨.vSrc, b.toNat⟩]
  | .mulhiS32 d a b _ => [⟨.vDst, d.toNat⟩, ⟨.vSrc, a.toNat⟩, ⟨.vSrc, b.toNat⟩]
  | .mulhiN32 d a b _ => [⟨.vDst, d.toNat⟩, ⟨.vSrc, a.toNat⟩, ⟨.vSrc, b.toNat⟩]
  | .madN32 d a b _ => [⟨.vDst, d.toNat⟩, ⟨.vSrc, a.toNat⟩, ⟨.vSrc, b.toNat⟩, ⟨.vSrc, d.toNat⟩]
  | .andN32 d a b _ => [⟨.vDst, d.toNat⟩, ⟨.vSrc, a.toNat⟩, ⟨.vSrc, b.toNat⟩]
  | .orN32 d a b _ => [⟨.vDst, d.toNat⟩, ⟨.vSrc, a.toNat⟩, ⟨.vSrc, b.toNat⟩]
  | .xorN32 d a b _ => [⟨.vDst, d.toNat⟩, ⟨.vSrc, a.toNat⟩, ⟨.vSrc, b.toNat⟩]
  | .shlN32 d a b _ => [⟨.vDst, d.toNat⟩, ⟨.vSrc, a.toNat⟩, ⟨.vSrc, b.toNat⟩]
  | .shrN32 d a b _ => [⟨.vDst, d.toNat⟩, ⟨.vSrc, a.toNat⟩, ⟨.vSrc, b.toNat⟩]
  | .shrS32 d a b _ => [⟨.vDst, d.toNat⟩, ⟨.vSrc, a.toNat⟩, ⟨.vSrc, b.toNat⟩]
  | .minS32 d a b _ => [⟨.vDst, d.toNat⟩, ⟨.vSrc, a.toNat⟩, ⟨.vSrc, b.toNat⟩]
  | .minN32 d a b _ => [⟨.vDst, d.toNat⟩, ⟨.vSrc, a.toNat⟩, ⟨.vSrc, b.toNat⟩]
  | .maxS32 d a b _ => [⟨.vDst, d.toNat⟩, ⟨.vSrc, a.toNat⟩, ⟨.vSrc, b.toNat⟩]
  | .maxN32 d a b _ => [⟨.vDst, d.toNat⟩, ⟨.vSrc, a.toNat⟩, ⟨.vSrc, b.toNat⟩]
  | .seqN32 d a b _ => [⟨.vDst, d.toNat⟩, ⟨.vSrc, a.toNat⟩, ⟨.vSrc, b.toNat⟩]
  | .sltS32 d a b _ => [⟨.vDst, d.toNat⟩, ⟨.vSrc, a.toNat⟩, ⟨.vSrc, b.toNat⟩]
  | .sltN32 d a b _ => [⟨.vDst, d.toNat⟩, ⟨.vSrc, a.toNat⟩, ⟨.vSrc, b.toNat⟩]
  | .selN32 d a b _ => [⟨.vDst, d.toNat⟩, ⟨.vSrc, a.toNat⟩, ⟨.vSrc, b.toNat⟩, ⟨.vSrc, d.toNat⟩]
  | .popN32 d a _ => [⟨.vDst, d.toNat⟩, ⟨.vSrc, a.toNat⟩]
  | .clzN32 d a _ => [⟨.vDst, d.toNat⟩, ⟨.vSrc, a.toNat⟩]
  | .brevN32 d a _ => [⟨.vDst, d.toNat⟩, ⟨.vSrc, a.toNat⟩]
  | .addsS32 d a b _ => [⟨.vDst, d.toNat⟩, ⟨.vSrc, a.toNat⟩, ⟨.vSrc, b.toNat⟩]
  | .subsS32 d a b _ => [⟨.vDst, d.toNat⟩, ⟨.vSrc, a.toNat⟩, ⟨.vSrc, b.toNat⟩]
  | .addsN32 d a b _ => [⟨.vDst, d.toNat⟩, ⟨.vSrc, a.toNat⟩, ⟨.vSrc, b.toNat⟩]
  | .subsN32 d a b _ => [⟨.vDst, d.toNat⟩, ⟨.vSrc, a.toNat⟩, ⟨.vSrc, b.toNat⟩]
  | .bfxN32 d a b _ => [⟨.vDst, d.toNat⟩, ⟨.vSrc, a.toNat⟩, ⟨.vSrc, b.toNat⟩]
  | .bfiN32 d a b _ => [⟨.vDst, d.toNat⟩, ⟨.vSrc, a.toNat⟩, ⟨.vSrc, b.toNat⟩, ⟨.vSrc, d.toNat⟩]
  | .addImmN32 d a _ _ => [⟨.vDst, d.toNat⟩, ⟨.vSrc, a.toNat⟩]
  | .waveAddImmN32 d a _ _ => [⟨.wDst, d.toNat⟩, ⟨.wSrc, a.toNat⟩]
  | .addN64 d a b nw => [⟨.vDstP, d.toNat⟩, ⟨.vSrcP, a.toNat⟩, ⟨.vSrcP, b.toNat⟩, ⟨.range 0 0, nw.toNat⟩]
  | .subN64 d a b nw => [⟨.vDstP, d.toNat⟩, ⟨.vSrcP, a.toNat⟩, ⟨.vSrcP, b.toNat⟩, ⟨.range 0 0, nw.toNat⟩]
  | .addxN64 d a b nw => [⟨.vDstP, d.toNat⟩, ⟨.vSrcP, a.toNat⟩, ⟨.vSrc, b.toNat⟩, ⟨.range 0 0, nw.toNat⟩]
  | .addxS64 d a b nw => [⟨.vDstP, d.toNat⟩, ⟨.vSrcP, a.toNat⟩, ⟨.vSrc, b.toNat⟩, ⟨.range 0 0, nw.toNat⟩]
  | .shlN64 d a b nw => [⟨.vDstP, d.toNat⟩, ⟨.vSrcP, a.toNat⟩, ⟨.vSrc, b.toNat⟩, ⟨.range 0 0, nw.toNat⟩]
  | .shrN64 d a b nw => [⟨.vDstP, d.toNat⟩, ⟨.vSrcP, a.toNat⟩, ⟨.vSrc, b.toNat⟩, ⟨.range 0 0, nw.toNat⟩]
  | .shrS64 d a b nw => [⟨.vDstP, d.toNat⟩, ⟨.vSrcP, a.toNat⟩, ⟨.vSrc, b.toNat⟩, ⟨.range 0 0, nw.toNat⟩]
  | .andN64 d a b nw => [⟨.vDstP, d.toNat⟩, ⟨.vSrcP, a.toNat⟩, ⟨.vSrcP, b.toNat⟩, ⟨.range 0 0, nw.toNat⟩]
  | .orN64 d a b nw => [⟨.vDstP, d.toNat⟩, ⟨.vSrcP, a.toNat⟩, ⟨.vSrcP, b.toNat⟩, ⟨.range 0 0, nw.toNat⟩]
  | .xorN64 d a b nw => [⟨.vDstP, d.toNat⟩, ⟨.vSrcP, a.toNat⟩, ⟨.vSrcP, b.toNat⟩, ⟨.range 0 0, nw.toNat⟩]
  | .seqN64 d a b _ => [⟨.vDst, d.toNat⟩, ⟨.vSrcP, a.toNat⟩, ⟨.vSrcP, b.toNat⟩]
  | .sltS64 d a b _ => [⟨.vDst, d.toNat⟩, ⟨.vSrcP, a.toNat⟩, ⟨.vSrcP, b.toNat⟩]
  | .sltN64 d a b _ => [⟨.vDst, d.toNat⟩, ⟨.vSrcP, a.toNat⟩, ⟨.vSrcP, b.toNat⟩]
  | .mulwN32 d a b nw => [⟨.vDstP, d.toNat⟩, ⟨.vSrc, a.toNat⟩, ⟨.vSrc, b.toNat⟩, ⟨.range 0 0, nw.toNat⟩]
  | .mulwS32 d a b nw => [⟨.vDstP, d.toNat⟩, ⟨.vSrc, a.toNat⟩, ⟨.vSrc, b.toNat⟩, ⟨.range 0 0, nw.toNat⟩]
  | .waveAddN32 d a b _ => [⟨.wDst, d.toNat⟩, ⟨.wSrc, a.toNat⟩, ⟨.wSrc, b.toNat⟩]
  | .waveSubN32 d a b _ => [⟨.wDst, d.toNat⟩, ⟨.wSrc, a.toNat⟩, ⟨.wSrc, b.toNat⟩]
  | .waveMulN32 d a b _ => [⟨.wDst, d.toNat⟩, ⟨.wSrc, a.toNat⟩, ⟨.wSrc, b.toNat⟩]
  | .waveMulhiS32 d a b _ => [⟨.wDst, d.toNat⟩, ⟨.wSrc, a.toNat⟩, ⟨.wSrc, b.toNat⟩]
  | .waveMulhiN32 d a b _ => [⟨.wDst, d.toNat⟩, ⟨.wSrc, a.toNat⟩, ⟨.wSrc, b.toNat⟩]
  | .waveMadN32 d a b _ => [⟨.wDst, d.toNat⟩, ⟨.wSrc, a.toNat⟩, ⟨.wSrc, b.toNat⟩]
  | .waveAndN32 d a b _ => [⟨.wDst, d.toNat⟩, ⟨.wSrc, a.toNat⟩, ⟨.wSrc, b.toNat⟩]
  | .waveOrN32 d a b _ => [⟨.wDst, d.toNat⟩, ⟨.wSrc, a.toNat⟩, ⟨.wSrc, b.toNat⟩]
  | .waveXorN32 d a b _ => [⟨.wDst, d.toNat⟩, ⟨.wSrc, a.toNat⟩, ⟨.wSrc, b.toNat⟩]
  | .waveShlN32 d a b _ => [⟨.wDst, d.toNat⟩, ⟨.wSrc, a.toNat⟩, ⟨.wSrc, b.toNat⟩]
  | .waveShrN32 d a b _ => [⟨.wDst, d.toNat⟩, ⟨.wSrc, a.toNat⟩, ⟨.wSrc, b.toNat⟩]
  | .waveShrS32 d a b _ => [⟨.wDst, d.toNat⟩, ⟨.wSrc, a.toNat⟩, ⟨.wSrc, b.toNat⟩]
  | .waveMinS32 d a b _ => [⟨.wDst, d.toNat⟩, ⟨.wSrc, a.toNat⟩, ⟨.wSrc, b.toNat⟩]
  | .waveMinN32 d a b _ => [⟨.wDst, d.toNat⟩, ⟨.wSrc, a.toNat⟩, ⟨.wSrc, b.toNat⟩]
  | .waveMaxS32 d a b _ => [⟨.wDst, d.toNat⟩, ⟨.wSrc, a.toNat⟩, ⟨.wSrc, b.toNat⟩]
  | .waveMaxN32 d a b _ => [⟨.wDst, d.toNat⟩, ⟨.wSrc, a.toNat⟩, ⟨.wSrc, b.toNat⟩]
  | .waveSeqN32 d a b _ => [⟨.wDst, d.toNat⟩, ⟨.wSrc, a.toNat⟩, ⟨.wSrc, b.toNat⟩]
  | .waveSltS32 d a b _ => [⟨.wDst, d.toNat⟩, ⟨.wSrc, a.toNat⟩, ⟨.wSrc, b.toNat⟩]
  | .waveSltN32 d a b _ => [⟨.wDst, d.toNat⟩, ⟨.wSrc, a.toNat⟩, ⟨.wSrc, b.toNat⟩]
  | .waveSelN32 d a b _ => [⟨.wDst, d.toNat⟩, ⟨.wSrc, a.toNat⟩, ⟨.wSrc, b.toNat⟩]
  | .wavePopN32 d a _ => [⟨.wDst, d.toNat⟩, ⟨.wSrc, a.toNat⟩]
  | .waveClzN32 d a _ => [⟨.wDst, d.toNat⟩, ⟨.wSrc, a.toNat⟩]
  | .waveBrevN32 d a _ => [⟨.wDst, d.toNat⟩, ⟨.wSrc, a.toNat⟩]
  | .waveAddsS32 d a b _ => [⟨.wDst, d.toNat⟩, ⟨.wSrc, a.toNat⟩, ⟨.wSrc, b.toNat⟩]
  | .waveSubsS32 d a b _ => [⟨.wDst, d.toNat⟩, ⟨.wSrc, a.toNat⟩, ⟨.wSrc, b.toNat⟩]
  | .waveAddsN32 d a b _ => [⟨.wDst, d.toNat⟩, ⟨.wSrc, a.toNat⟩, ⟨.wSrc, b.toNat⟩]
  | .waveSubsN32 d a b _ => [⟨.wDst, d.toNat⟩, ⟨.wSrc, a.toNat⟩, ⟨.wSrc, b.toNat⟩]
  | .waveBfxN32 d a b _ => [⟨.wDst, d.toNat⟩, ⟨.wSrc, a.toNat⟩, ⟨.wSrc, b.toNat⟩]
  | .waveBfiN32 d a b _ => [⟨.wDst, d.toNat⟩, ⟨.wSrc, a.toNat⟩, ⟨.wSrc, b.toNat⟩]
  | .waveAddN64 d a b nw => [⟨.wDstP, d.toNat⟩, ⟨.wSrcP, a.toNat⟩, ⟨.wSrcP, b.toNat⟩, ⟨.range 0 0, nw.toNat⟩]
  | .waveSubN64 d a b nw => [⟨.wDstP, d.toNat⟩, ⟨.wSrcP, a.toNat⟩, ⟨.wSrcP, b.toNat⟩, ⟨.range 0 0, nw.toNat⟩]
  | .waveSltN64 d a b _ => [⟨.wDst, d.toNat⟩, ⟨.wSrcP, a.toNat⟩, ⟨.wSrcP, b.toNat⟩]
  | .addF32 d a b _ => [⟨.vDst, d.toNat⟩, ⟨.vSrc, a.toNat⟩, ⟨.vSrc, b.toNat⟩]
  | .addF32Rne d a b _ => [⟨.vDst, d.toNat⟩, ⟨.vSrc, a.toNat⟩, ⟨.vSrc, b.toNat⟩]
  | .addF32Rtz d a b _ => [⟨.vDst, d.toNat⟩, ⟨.vSrc, a.toNat⟩, ⟨.vSrc, b.toNat⟩]
  | .addF32Rup d a b _ => [⟨.vDst, d.toNat⟩, ⟨.vSrc, a.toNat⟩, ⟨.vSrc, b.toNat⟩]
  | .addF32Rdn d a b _ => [⟨.vDst, d.toNat⟩, ⟨.vSrc, a.toNat⟩, ⟨.vSrc, b.toNat⟩]
  | .subF32 d a b _ => [⟨.vDst, d.toNat⟩, ⟨.vSrc, a.toNat⟩, ⟨.vSrc, b.toNat⟩]
  | .subF32Rne d a b _ => [⟨.vDst, d.toNat⟩, ⟨.vSrc, a.toNat⟩, ⟨.vSrc, b.toNat⟩]
  | .subF32Rtz d a b _ => [⟨.vDst, d.toNat⟩, ⟨.vSrc, a.toNat⟩, ⟨.vSrc, b.toNat⟩]
  | .subF32Rup d a b _ => [⟨.vDst, d.toNat⟩, ⟨.vSrc, a.toNat⟩, ⟨.vSrc, b.toNat⟩]
  | .subF32Rdn d a b _ => [⟨.vDst, d.toNat⟩, ⟨.vSrc, a.toNat⟩, ⟨.vSrc, b.toNat⟩]
  | .mulF32 d a b _ => [⟨.vDst, d.toNat⟩, ⟨.vSrc, a.toNat⟩, ⟨.vSrc, b.toNat⟩]
  | .mulF32Rne d a b _ => [⟨.vDst, d.toNat⟩, ⟨.vSrc, a.toNat⟩, ⟨.vSrc, b.toNat⟩]
  | .mulF32Rtz d a b _ => [⟨.vDst, d.toNat⟩, ⟨.vSrc, a.toNat⟩, ⟨.vSrc, b.toNat⟩]
  | .mulF32Rup d a b _ => [⟨.vDst, d.toNat⟩, ⟨.vSrc, a.toNat⟩, ⟨.vSrc, b.toNat⟩]
  | .mulF32Rdn d a b _ => [⟨.vDst, d.toNat⟩, ⟨.vSrc, a.toNat⟩, ⟨.vSrc, b.toNat⟩]
  | .fmaF32 d a b _ => [⟨.vDst, d.toNat⟩, ⟨.vSrc, a.toNat⟩, ⟨.vSrc, b.toNat⟩, ⟨.vSrc, d.toNat⟩]
  | .fmaF32Rne d a b _ => [⟨.vDst, d.toNat⟩, ⟨.vSrc, a.toNat⟩, ⟨.vSrc, b.toNat⟩, ⟨.vSrc, d.toNat⟩]
  | .fmaF32Rtz d a b _ => [⟨.vDst, d.toNat⟩, ⟨.vSrc, a.toNat⟩, ⟨.vSrc, b.toNat⟩, ⟨.vSrc, d.toNat⟩]
  | .fmaF32Rup d a b _ => [⟨.vDst, d.toNat⟩, ⟨.vSrc, a.toNat⟩, ⟨.vSrc, b.toNat⟩, ⟨.vSrc, d.toNat⟩]
  | .fmaF32Rdn d a b _ => [⟨.vDst, d.toNat⟩, ⟨.vSrc, a.toNat⟩, ⟨.vSrc, b.toNat⟩, ⟨.vSrc, d.toNat⟩]
  | .minF32 d a b _ => [⟨.vDst, d.toNat⟩, ⟨.vSrc, a.toNat⟩, ⟨.vSrc, b.toNat⟩]
  | .maxF32 d a b _ => [⟨.vDst, d.toNat⟩, ⟨.vSrc, a.toNat⟩, ⟨.vSrc, b.toNat⟩]
  | .ceqF32 d a b _ => [⟨.vDst, d.toNat⟩, ⟨.vSrc, a.toNat⟩, ⟨.vSrc, b.toNat⟩]
  | .cltF32 d a b _ => [⟨.vDst, d.toNat⟩, ⟨.vSrc, a.toNat⟩, ⟨.vSrc, b.toNat⟩]
  | .cleF32 d a b _ => [⟨.vDst, d.toNat⟩, ⟨.vSrc, a.toNat⟩, ⟨.vSrc, b.toNat⟩]
  | .cunF32 d a b _ => [⟨.vDst, d.toNat⟩, ⟨.vSrc, a.toNat⟩, ⟨.vSrc, b.toNat⟩]
  | .addF16 d a b _ => [⟨.vDst, d.toNat⟩, ⟨.vSrc, a.toNat⟩, ⟨.vSrc, b.toNat⟩]
  | .mulF16 d a b _ => [⟨.vDst, d.toNat⟩, ⟨.vSrc, a.toNat⟩, ⟨.vSrc, b.toNat⟩]
  | .fmaF16 d a b _ => [⟨.vDst, d.toNat⟩, ⟨.vSrc, a.toNat⟩, ⟨.vSrc, b.toNat⟩, ⟨.vSrc, d.toNat⟩]
  | .addBf16 d a b _ => [⟨.vDst, d.toNat⟩, ⟨.vSrc, a.toNat⟩, ⟨.vSrc, b.toNat⟩]
  | .mulBf16 d a b _ => [⟨.vDst, d.toNat⟩, ⟨.vSrc, a.toNat⟩, ⟨.vSrc, b.toNat⟩]
  | .fmaBf16 d a b _ => [⟨.vDst, d.toNat⟩, ⟨.vSrc, a.toNat⟩, ⟨.vSrc, b.toNat⟩, ⟨.vSrc, d.toNat⟩]
  | .addF64 d a b nw => [⟨.vDstP, d.toNat⟩, ⟨.vSrcP, a.toNat⟩, ⟨.vSrcP, b.toNat⟩, ⟨.range 0 0, nw.toNat⟩]
  | .addF64Rne d a b nw => [⟨.vDstP, d.toNat⟩, ⟨.vSrcP, a.toNat⟩, ⟨.vSrcP, b.toNat⟩, ⟨.range 0 0, nw.toNat⟩]
  | .addF64Rtz d a b nw => [⟨.vDstP, d.toNat⟩, ⟨.vSrcP, a.toNat⟩, ⟨.vSrcP, b.toNat⟩, ⟨.range 0 0, nw.toNat⟩]
  | .addF64Rup d a b nw => [⟨.vDstP, d.toNat⟩, ⟨.vSrcP, a.toNat⟩, ⟨.vSrcP, b.toNat⟩, ⟨.range 0 0, nw.toNat⟩]
  | .addF64Rdn d a b nw => [⟨.vDstP, d.toNat⟩, ⟨.vSrcP, a.toNat⟩, ⟨.vSrcP, b.toNat⟩, ⟨.range 0 0, nw.toNat⟩]
  | .subF64 d a b nw => [⟨.vDstP, d.toNat⟩, ⟨.vSrcP, a.toNat⟩, ⟨.vSrcP, b.toNat⟩, ⟨.range 0 0, nw.toNat⟩]
  | .subF64Rne d a b nw => [⟨.vDstP, d.toNat⟩, ⟨.vSrcP, a.toNat⟩, ⟨.vSrcP, b.toNat⟩, ⟨.range 0 0, nw.toNat⟩]
  | .subF64Rtz d a b nw => [⟨.vDstP, d.toNat⟩, ⟨.vSrcP, a.toNat⟩, ⟨.vSrcP, b.toNat⟩, ⟨.range 0 0, nw.toNat⟩]
  | .subF64Rup d a b nw => [⟨.vDstP, d.toNat⟩, ⟨.vSrcP, a.toNat⟩, ⟨.vSrcP, b.toNat⟩, ⟨.range 0 0, nw.toNat⟩]
  | .subF64Rdn d a b nw => [⟨.vDstP, d.toNat⟩, ⟨.vSrcP, a.toNat⟩, ⟨.vSrcP, b.toNat⟩, ⟨.range 0 0, nw.toNat⟩]
  | .mulF64 d a b nw => [⟨.vDstP, d.toNat⟩, ⟨.vSrcP, a.toNat⟩, ⟨.vSrcP, b.toNat⟩, ⟨.range 0 0, nw.toNat⟩]
  | .mulF64Rne d a b nw => [⟨.vDstP, d.toNat⟩, ⟨.vSrcP, a.toNat⟩, ⟨.vSrcP, b.toNat⟩, ⟨.range 0 0, nw.toNat⟩]
  | .mulF64Rtz d a b nw => [⟨.vDstP, d.toNat⟩, ⟨.vSrcP, a.toNat⟩, ⟨.vSrcP, b.toNat⟩, ⟨.range 0 0, nw.toNat⟩]
  | .mulF64Rup d a b nw => [⟨.vDstP, d.toNat⟩, ⟨.vSrcP, a.toNat⟩, ⟨.vSrcP, b.toNat⟩, ⟨.range 0 0, nw.toNat⟩]
  | .mulF64Rdn d a b nw => [⟨.vDstP, d.toNat⟩, ⟨.vSrcP, a.toNat⟩, ⟨.vSrcP, b.toNat⟩, ⟨.range 0 0, nw.toNat⟩]
  | .fmaF64 d a b nw => [⟨.vDstP, d.toNat⟩, ⟨.vSrcP, a.toNat⟩, ⟨.vSrcP, b.toNat⟩, ⟨.vSrcP, d.toNat⟩, ⟨.range 0 0, nw.toNat⟩]
  | .fmaF64Rne d a b nw => [⟨.vDstP, d.toNat⟩, ⟨.vSrcP, a.toNat⟩, ⟨.vSrcP, b.toNat⟩, ⟨.vSrcP, d.toNat⟩, ⟨.range 0 0, nw.toNat⟩]
  | .fmaF64Rtz d a b nw => [⟨.vDstP, d.toNat⟩, ⟨.vSrcP, a.toNat⟩, ⟨.vSrcP, b.toNat⟩, ⟨.vSrcP, d.toNat⟩, ⟨.range 0 0, nw.toNat⟩]
  | .fmaF64Rup d a b nw => [⟨.vDstP, d.toNat⟩, ⟨.vSrcP, a.toNat⟩, ⟨.vSrcP, b.toNat⟩, ⟨.vSrcP, d.toNat⟩, ⟨.range 0 0, nw.toNat⟩]
  | .fmaF64Rdn d a b nw => [⟨.vDstP, d.toNat⟩, ⟨.vSrcP, a.toNat⟩, ⟨.vSrcP, b.toNat⟩, ⟨.vSrcP, d.toNat⟩, ⟨.range 0 0, nw.toNat⟩]
  | .minF64 d a b nw => [⟨.vDstP, d.toNat⟩, ⟨.vSrcP, a.toNat⟩, ⟨.vSrcP, b.toNat⟩, ⟨.range 0 0, nw.toNat⟩]
  | .maxF64 d a b nw => [⟨.vDstP, d.toNat⟩, ⟨.vSrcP, a.toNat⟩, ⟨.vSrcP, b.toNat⟩, ⟨.range 0 0, nw.toNat⟩]
  | .ceqF64 d a b _ => [⟨.vDst, d.toNat⟩, ⟨.vSrcP, a.toNat⟩, ⟨.vSrcP, b.toNat⟩]
  | .cltF64 d a b _ => [⟨.vDst, d.toNat⟩, ⟨.vSrcP, a.toNat⟩, ⟨.vSrcP, b.toNat⟩]
  | .cleF64 d a b _ => [⟨.vDst, d.toNat⟩, ⟨.vSrcP, a.toNat⟩, ⟨.vSrcP, b.toNat⟩]
  | .cunF64 d a b _ => [⟨.vDst, d.toNat⟩, ⟨.vSrcP, a.toNat⟩, ⟨.vSrcP, b.toNat⟩]
  | .absF64 d a nw => [⟨.vDstP, d.toNat⟩, ⟨.vSrcP, a.toNat⟩, ⟨.range 0 0, nw.toNat⟩]
  | .negF64 d a nw => [⟨.vDstP, d.toNat⟩, ⟨.vSrcP, a.toNat⟩, ⟨.range 0 0, nw.toNat⟩]
  | .classF64 d a _ => [⟨.vDst, d.toNat⟩, ⟨.vSrcP, a.toNat⟩]
  | .divF32 d a b _ => [⟨.vDst, d.toNat⟩, ⟨.vSrc, a.toNat⟩, ⟨.vSrc, b.toNat⟩]
  | .sqrtF32 d a _ => [⟨.vDst, d.toNat⟩, ⟨.vSrc, a.toNat⟩]
  | .rcpF32 d a _ => [⟨.vDst, d.toNat⟩, ⟨.vSrc, a.toNat⟩]
  | .rsqF32 d a _ => [⟨.vDst, d.toNat⟩, ⟨.vSrc, a.toNat⟩]
  | .exp2F32 d a _ => [⟨.vDst, d.toNat⟩, ⟨.vSrc, a.toNat⟩]
  | .log2F32 d a _ => [⟨.vDst, d.toNat⟩, ⟨.vSrc, a.toNat⟩]
  | .sinpiF32 d a _ => [⟨.vDst, d.toNat⟩, ⟨.vSrc, a.toNat⟩]
  | .cospiF32 d a _ => [⟨.vDst, d.toNat⟩, ⟨.vSrc, a.toNat⟩]
  | .absF32 d a _ => [⟨.vDst, d.toNat⟩, ⟨.vSrc, a.toNat⟩]
  | .negF32 d a _ => [⟨.vDst, d.toNat⟩, ⟨.vSrc, a.toNat⟩]
  | .classF32 d a _ => [⟨.vDst, d.toNat⟩, ⟨.vSrc, a.toNat⟩]
  | .absF16 d a _ => [⟨.vDst, d.toNat⟩, ⟨.vSrc, a.toNat⟩]
  | .negF16 d a _ => [⟨.vDst, d.toNat⟩, ⟨.vSrc, a.toNat⟩]
  | .absBf16 d a _ => [⟨.vDst, d.toNat⟩, ⟨.vSrc, a.toNat⟩]
  | .negBf16 d a _ => [⟨.vDst, d.toNat⟩, ⟨.vSrc, a.toNat⟩]
  | .divF64 d a b nw => [⟨.vDstP, d.toNat⟩, ⟨.vSrcP, a.toNat⟩, ⟨.vSrcP, b.toNat⟩, ⟨.range 0 0, nw.toNat⟩]
  | .sqrtF64 d a nw => [⟨.vDstP, d.toNat⟩, ⟨.vSrcP, a.toNat⟩, ⟨.range 0 0, nw.toNat⟩]
  | .rcpF64 d a nw => [⟨.vDstP, d.toNat⟩, ⟨.vSrcP, a.toNat⟩, ⟨.range 0 0, nw.toNat⟩]
  | .rsqF64 d a nw => [⟨.vDstP, d.toNat⟩, ⟨.vSrcP, a.toNat⟩, ⟨.range 0 0, nw.toNat⟩]
  | .exp2F64 d a nw => [⟨.vDstP, d.toNat⟩, ⟨.vSrcP, a.toNat⟩, ⟨.range 0 0, nw.toNat⟩]
  | .log2F64 d a nw => [⟨.vDstP, d.toNat⟩, ⟨.vSrcP, a.toNat⟩, ⟨.range 0 0, nw.toNat⟩]
  | .cnvF64F32 d a sel _ => [⟨.vDst, d.toNat⟩, ⟨.vSrcP, a.toNat⟩, ⟨.range 0 5, sel.toNat⟩]
  | .cnvF32F64 d a nw => [⟨.vDstP, d.toNat⟩, ⟨.vSrc, a.toNat⟩, ⟨.range 0 0, nw.toNat⟩]
  | .cnvF32F16 d a sel _ => [⟨.vDst, d.toNat⟩, ⟨.vSrc, a.toNat⟩, ⟨.range 0 5, sel.toNat⟩]
  | .cnvF16F32 d a _ => [⟨.vDst, d.toNat⟩, ⟨.vSrc, a.toNat⟩]
  | .cnvF32Bf16 d a sel _ => [⟨.vDst, d.toNat⟩, ⟨.vSrc, a.toNat⟩, ⟨.range 0 5, sel.toNat⟩]
  | .cnvBf16F32 d a _ => [⟨.vDst, d.toNat⟩, ⟨.vSrc, a.toNat⟩]
  | .cnvF64F16 d a sel _ => [⟨.vDst, d.toNat⟩, ⟨.vSrcP, a.toNat⟩, ⟨.range 0 5, sel.toNat⟩]
  | .cnvF64Bf16 d a sel _ => [⟨.vDst, d.toNat⟩, ⟨.vSrcP, a.toNat⟩, ⟨.range 0 5, sel.toNat⟩]
  | .cnvF32S32 d a sel _ => [⟨.vDst, d.toNat⟩, ⟨.vSrc, a.toNat⟩, ⟨.range 0 5, sel.toNat⟩]
  | .cnvF32N32 d a sel _ => [⟨.vDst, d.toNat⟩, ⟨.vSrc, a.toNat⟩, ⟨.range 0 5, sel.toNat⟩]
  | .cnvS32F32 d a sel _ => [⟨.vDst, d.toNat⟩, ⟨.vSrc, a.toNat⟩, ⟨.range 0 5, sel.toNat⟩]
  | .cnvN32F32 d a sel _ => [⟨.vDst, d.toNat⟩, ⟨.vSrc, a.toNat⟩, ⟨.range 0 5, sel.toNat⟩]
  | .cnvF64S32 d a sel _ => [⟨.vDst, d.toNat⟩, ⟨.vSrcP, a.toNat⟩, ⟨.range 0 5, sel.toNat⟩]
  | .cnvF64N32 d a sel _ => [⟨.vDst, d.toNat⟩, ⟨.vSrcP, a.toNat⟩, ⟨.range 0 5, sel.toNat⟩]
  | .cnvS32F64 d a nw => [⟨.vDstP, d.toNat⟩, ⟨.vSrc, a.toNat⟩, ⟨.range 0 0, nw.toNat⟩]
  | .cnvN32F64 d a nw => [⟨.vDstP, d.toNat⟩, ⟨.vSrc, a.toNat⟩, ⟨.range 0 0, nw.toNat⟩]
  | .cnvF64S64 d a sel nw => [⟨.vDstP, d.toNat⟩, ⟨.vSrcP, a.toNat⟩, ⟨.range 0 5, sel.toNat⟩, ⟨.range 0 0, nw.toNat⟩]
  | .cnvF64N64 d a sel nw => [⟨.vDstP, d.toNat⟩, ⟨.vSrcP, a.toNat⟩, ⟨.range 0 5, sel.toNat⟩, ⟨.range 0 0, nw.toNat⟩]
  | .cnvS64F64 d a sel nw => [⟨.vDstP, d.toNat⟩, ⟨.vSrcP, a.toNat⟩, ⟨.range 0 5, sel.toNat⟩, ⟨.range 0 0, nw.toNat⟩]
  | .cnvN64F64 d a sel nw => [⟨.vDstP, d.toNat⟩, ⟨.vSrcP, a.toNat⟩, ⟨.range 0 5, sel.toNat⟩, ⟨.range 0 0, nw.toNat⟩]
  | .cnvS64F32 d a sel _ => [⟨.vDst, d.toNat⟩, ⟨.vSrcP, a.toNat⟩, ⟨.range 0 5, sel.toNat⟩]
  | .cnvN64F32 d a sel _ => [⟨.vDst, d.toNat⟩, ⟨.vSrcP, a.toNat⟩, ⟨.range 0 5, sel.toNat⟩]
  | .cnvS32S16 d a sel _ => [⟨.vDst, d.toNat⟩, ⟨.vSrc, a.toNat⟩, ⟨.range 0 5, sel.toNat⟩]
  | .cnvS32N16 d a sel _ => [⟨.vDst, d.toNat⟩, ⟨.vSrc, a.toNat⟩, ⟨.range 0 5, sel.toNat⟩]
  | .cnvS32S8 d a sel _ => [⟨.vDst, d.toNat⟩, ⟨.vSrc, a.toNat⟩, ⟨.range 0 5, sel.toNat⟩]
  | .cnvS32N8 d a sel _ => [⟨.vDst, d.toNat⟩, ⟨.vSrc, a.toNat⟩, ⟨.range 0 5, sel.toNat⟩]
  | .cnvS32S64 d a nw => [⟨.vDstP, d.toNat⟩, ⟨.vSrc, a.toNat⟩, ⟨.range 0 0, nw.toNat⟩]
  | .cnvN32N64 d a nw => [⟨.vDstP, d.toNat⟩, ⟨.vSrc, a.toNat⟩, ⟨.range 0 0, nw.toNat⟩]
  | .rintF32 d a sel _ => [⟨.vDst, d.toNat⟩, ⟨.vSrc, a.toNat⟩, ⟨.range 0 5, sel.toNat⟩]
  | .rintF64 d a sel nw => [⟨.vDstP, d.toNat⟩, ⟨.vSrcP, a.toNat⟩, ⟨.range 0 5, sel.toNat⟩, ⟨.range 0 0, nw.toNat⟩]
  | .ballot d a => [⟨.wTri, d.toNat⟩, ⟨.vSrc, a.toNat⟩]
  | .vany d a _ => [⟨.wDst, d.toNat⟩, ⟨.vSrc, a.toNat⟩]
  | .vall d a _ => [⟨.wDst, d.toNat⟩, ⟨.vSrc, a.toNat⟩]
  | .mpop d a _ => [⟨.wDst, d.toNat⟩, ⟨.wTriZ, a.toNat⟩]
  | .mffs d a _ => [⟨.wDst, d.toNat⟩, ⟨.wTriZ, a.toNat⟩]
  | .lsel d a b _ => [⟨.vDst, d.toNat⟩, ⟨.vSrc, a.toNat⟩, ⟨.vSrc, b.toNat⟩]
  | .lbck d a b _ => [⟨.vDst, d.toNat⟩, ⟨.vSrc, a.toNat⟩, ⟨.vSrc, b.toNat⟩]
  | .lfwd d a b _ => [⟨.vDst, d.toNat⟩, ⟨.vSrc, a.toNat⟩, ⟨.vSrc, b.toNat⟩]
  | .lmir d a b _ => [⟨.vDst, d.toNat⟩, ⟨.vSrc, a.toNat⟩, ⟨.vSrc, b.toNat⟩]
  | .bcast d a b _ => [⟨.wDst, d.toNat⟩, ⟨.vSrc, a.toNat⟩, ⟨.wSrc, b.toNat⟩]
  | .scanN32 d a _ => [⟨.vDst, d.toNat⟩, ⟨.vSrc, a.toNat⟩]
  | .xscanN32 d a _ => [⟨.vDst, d.toNat⟩, ⟨.vSrc, a.toNat⟩]
  | .redaddN32 d a _ => [⟨.wDst, d.toNat⟩, ⟨.vSrc, a.toNat⟩]
  | .redminS32 d a _ => [⟨.wDst, d.toNat⟩, ⟨.vSrc, a.toNat⟩]
  | .redmaxS32 d a _ => [⟨.wDst, d.toNat⟩, ⟨.vSrc, a.toNat⟩]
  | .redandN32 d a _ => [⟨.wDst, d.toNat⟩, ⟨.vSrc, a.toNat⟩]
  | .redorN32 d a _ => [⟨.wDst, d.toNat⟩, ⟨.vSrc, a.toNat⟩]
  | .redaddF32 d a _ => [⟨.wDst, d.toNat⟩, ⟨.vSrc, a.toNat⟩]
  | .br _ => []
  | .bz _ => [⟨.useW, 56⟩]
  | .bnz _ => [⟨.useW, 56⟩]
  | .call _ => [⟨.useW, 54⟩, ⟨.useW, 55⟩]
  | .split _ => []
  | .bl _ => [⟨.useW, 57⟩, ⟨.useW, 58⟩, ⟨.useW, 59⟩]
  | .brk _ => [⟨.useW, 57⟩, ⟨.useW, 58⟩, ⟨.useW, 59⟩]
  | .join => []
  | .ret => [⟨.useW, 54⟩, ⟨.useW, 55⟩]
  | .jr a => [⟨.wSrcP, a.toNat⟩]
  | .jalr d a => [⟨.wDstP, d.toNat⟩, ⟨.wSrcP, a.toNat⟩]
  | .waitc _ _ _ _ _ => []
  | .yield => []
  | .exit => []
  | .svc _ => []
  | .trap _ => []
  | .eret => []
  | .rsr d sel _ => [⟨.wDst, d.toNat⟩, ⟨.sysRd, sel.toNat⟩]
  | .wsr a sel => [⟨.wSrc, a.toNat⟩, ⟨.sysWr, sel.toNat⟩]
  | .vrsr d sel _ => [⟨.vDst, d.toNat⟩, ⟨.sysThr, sel.toNat⟩]
  | .vwsr a sel => [⟨.vSrc, a.toNat⟩, ⟨.sysThr, sel.toNat⟩]
  | .clk d nw => [⟨.wDstP, d.toNat⟩, ⟨.range 0 0, nw.toNat⟩]
  | .win b => [⟨.range 0 63, b.toNat⟩]
  | .leave num => [⟨.range 0 5, num.toNat⟩]
  | .ldN8 d a b sc => [⟨.vDst, d.toNat⟩, ⟨.vSrcP, (2 * a.toNat)⟩, ⟨.vSrc, b.toNat⟩, ⟨.range 0 6, sc.toNat⟩]
  | .ldS8 d a b sc => [⟨.vDst, d.toNat⟩, ⟨.vSrcP, (2 * a.toNat)⟩, ⟨.vSrc, b.toNat⟩, ⟨.range 0 6, sc.toNat⟩]
  | .ldN16 d a b sc => [⟨.vDst, d.toNat⟩, ⟨.vSrcP, (2 * a.toNat)⟩, ⟨.vSrc, b.toNat⟩, ⟨.range 0 6, sc.toNat⟩]
  | .ldS16 d a b sc => [⟨.vDst, d.toNat⟩, ⟨.vSrcP, (2 * a.toNat)⟩, ⟨.vSrc, b.toNat⟩, ⟨.range 0 6, sc.toNat⟩]
  | .ld32 d a b sc => [⟨.vDst, d.toNat⟩, ⟨.vSrcP, (2 * a.toNat)⟩, ⟨.vSrc, b.toNat⟩, ⟨.range 0 6, sc.toNat⟩]
  | .ld64 d a b sc => [⟨.vDstP, d.toNat⟩, ⟨.vSrcP, (2 * a.toNat)⟩, ⟨.vSrc, b.toNat⟩, ⟨.range 0 6, sc.toNat⟩]
  | .ldUniN8 d a b sc => [⟨.wDst, d.toNat⟩, ⟨.wSrcP, (2 * a.toNat)⟩, ⟨.wSrc, b.toNat⟩, ⟨.range 0 6, sc.toNat⟩]
  | .ldUniS8 d a b sc => [⟨.wDst, d.toNat⟩, ⟨.wSrcP, (2 * a.toNat)⟩, ⟨.wSrc, b.toNat⟩, ⟨.range 0 6, sc.toNat⟩]
  | .ldUniN16 d a b sc => [⟨.wDst, d.toNat⟩, ⟨.wSrcP, (2 * a.toNat)⟩, ⟨.wSrc, b.toNat⟩, ⟨.range 0 6, sc.toNat⟩]
  | .ldUniS16 d a b sc => [⟨.wDst, d.toNat⟩, ⟨.wSrcP, (2 * a.toNat)⟩, ⟨.wSrc, b.toNat⟩, ⟨.range 0 6, sc.toNat⟩]
  | .ldUni32 d a b sc => [⟨.wDst, d.toNat⟩, ⟨.wSrcP, (2 * a.toNat)⟩, ⟨.wSrc, b.toNat⟩, ⟨.range 0 6, sc.toNat⟩]
  | .ldUni64 d a b sc => [⟨.wDstP, d.toNat⟩, ⟨.wSrcP, (2 * a.toNat)⟩, ⟨.wSrc, b.toNat⟩, ⟨.range 0 6, sc.toNat⟩]
  | .st8 d a b sc => [⟨.vSrc, d.toNat⟩, ⟨.vSrcP, (2 * a.toNat)⟩, ⟨.vSrc, b.toNat⟩, ⟨.range 0 6, sc.toNat⟩]
  | .st16 d a b sc => [⟨.vSrc, d.toNat⟩, ⟨.vSrcP, (2 * a.toNat)⟩, ⟨.vSrc, b.toNat⟩, ⟨.range 0 6, sc.toNat⟩]
  | .st32 d a b sc => [⟨.vSrc, d.toNat⟩, ⟨.vSrcP, (2 * a.toNat)⟩, ⟨.vSrc, b.toNat⟩, ⟨.range 0 6, sc.toNat⟩]
  | .st64 d a b sc => [⟨.vSrcP, d.toNat⟩, ⟨.vSrcP, (2 * a.toNat)⟩, ⟨.vSrc, b.toNat⟩, ⟨.range 0 6, sc.toNat⟩]
  | .stUni8 d a b sc => [⟨.wSrc, d.toNat⟩, ⟨.wSrcP, (2 * a.toNat)⟩, ⟨.wSrc, b.toNat⟩, ⟨.range 0 6, sc.toNat⟩]
  | .stUni16 d a b sc => [⟨.wSrc, d.toNat⟩, ⟨.wSrcP, (2 * a.toNat)⟩, ⟨.wSrc, b.toNat⟩, ⟨.range 0 6, sc.toNat⟩]
  | .stUni32 d a b sc => [⟨.wSrc, d.toNat⟩, ⟨.wSrcP, (2 * a.toNat)⟩, ⟨.wSrc, b.toNat⟩, ⟨.range 0 6, sc.toNat⟩]
  | .stUni64 d a b sc => [⟨.wSrcP, d.toNat⟩, ⟨.wSrcP, (2 * a.toNat)⟩, ⟨.wSrc, b.toNat⟩, ⟨.range 0 6, sc.toNat⟩]
  | .stcN32 d a sc => [⟨.vSrc, d.toNat⟩, ⟨.bPair, (2 * a.toNat)⟩, ⟨.useW, 60⟩, ⟨.range 0 6, sc.toNat⟩]
  | .stcN64 d a sc => [⟨.vSrcP, d.toNat⟩, ⟨.bPair, (2 * a.toNat)⟩, ⟨.useW, 60⟩, ⟨.range 0 6, sc.toNat⟩]
  | .amaddN32 d a b sc => [⟨.vDstZ, d.toNat⟩, ⟨.vSrcP, (2 * a.toNat)⟩, ⟨.vSrc, b.toNat⟩, ⟨.range 1 6, sc.toNat⟩]
  | .amaddN64 d a b sc => [⟨.vDstZP, d.toNat⟩, ⟨.vSrcP, (2 * a.toNat)⟩, ⟨.vSrcP, b.toNat⟩, ⟨.range 1 6, sc.toNat⟩]
  | .amaddF32 d a b sc => [⟨.vDstZ, d.toNat⟩, ⟨.vSrcP, (2 * a.toNat)⟩, ⟨.vSrc, b.toNat⟩, ⟨.range 1 6, sc.toNat⟩]
  | .amaddF64 d a b sc => [⟨.vDstZP, d.toNat⟩, ⟨.vSrcP, (2 * a.toNat)⟩, ⟨.vSrcP, b.toNat⟩, ⟨.range 1 6, sc.toNat⟩]
  | .amminS32 d a b sc => [⟨.vDstZ, d.toNat⟩, ⟨.vSrcP, (2 * a.toNat)⟩, ⟨.vSrc, b.toNat⟩, ⟨.range 1 6, sc.toNat⟩]
  | .ammaxS32 d a b sc => [⟨.vDstZ, d.toNat⟩, ⟨.vSrcP, (2 * a.toNat)⟩, ⟨.vSrc, b.toNat⟩, ⟨.range 1 6, sc.toNat⟩]
  | .amminN32 d a b sc => [⟨.vDstZ, d.toNat⟩, ⟨.vSrcP, (2 * a.toNat)⟩, ⟨.vSrc, b.toNat⟩, ⟨.range 1 6, sc.toNat⟩]
  | .ammaxN32 d a b sc => [⟨.vDstZ, d.toNat⟩, ⟨.vSrcP, (2 * a.toNat)⟩, ⟨.vSrc, b.toNat⟩, ⟨.range 1 6, sc.toNat⟩]
  | .amandN32 d a b sc => [⟨.vDstZ, d.toNat⟩, ⟨.vSrcP, (2 * a.toNat)⟩, ⟨.vSrc, b.toNat⟩, ⟨.range 1 6, sc.toNat⟩]
  | .amorN32 d a b sc => [⟨.vDstZ, d.toNat⟩, ⟨.vSrcP, (2 * a.toNat)⟩, ⟨.vSrc, b.toNat⟩, ⟨.range 1 6, sc.toNat⟩]
  | .amxorN32 d a b sc => [⟨.vDstZ, d.toNat⟩, ⟨.vSrcP, (2 * a.toNat)⟩, ⟨.vSrc, b.toNat⟩, ⟨.range 1 6, sc.toNat⟩]
  | .amswpN32 d a b sc => [⟨.vDstZ, d.toNat⟩, ⟨.vSrcP, (2 * a.toNat)⟩, ⟨.vSrc, b.toNat⟩, ⟨.range 1 6, sc.toNat⟩]
  | .amswpN64 d a b sc => [⟨.vDstZP, d.toNat⟩, ⟨.vSrcP, (2 * a.toNat)⟩, ⟨.vSrcP, b.toNat⟩, ⟨.range 1 6, sc.toNat⟩]
  | .amcasN32 d a b sc => [⟨.vDstZ, d.toNat⟩, ⟨.vSrcP, (2 * a.toNat)⟩, ⟨.vSrc, b.toNat⟩, ⟨.vSrc, d.toNat⟩, ⟨.range 1 6, sc.toNat⟩]
  | .amcasN64 d a b sc => [⟨.vDstZP, d.toNat⟩, ⟨.vSrcP, (2 * a.toNat)⟩, ⟨.vSrcP, b.toNat⟩, ⟨.vSrcP, d.toNat⟩, ⟨.range 1 6, sc.toNat⟩]
  | .fence cls sc => [⟨.range 1 15, cls.toNat⟩, ⟨.range 0 5, sc.toNat⟩]
  | .cwb a b sc => [⟨.vSrcP, (2 * a.toNat)⟩, ⟨.vSrc, b.toNat⟩, ⟨.range 0 5, sc.toNat⟩]
  | .cinv a b sc => [⟨.vSrcP, (2 * a.toNat)⟩, ⟨.vSrc, b.toNat⟩, ⟨.range 0 5, sc.toNat⟩]
  | .cinvd a b sc => [⟨.vSrcP, (2 * a.toNat)⟩, ⟨.vSrc, b.toNat⟩, ⟨.range 0 5, sc.toNat⟩]
  | .pref a b sc => [⟨.vSrcP, (2 * a.toNat)⟩, ⟨.vSrc, b.toNat⟩, ⟨.range 0 5, sc.toNat⟩]
  | .aopen d a b => [⟨.wDst, d.toNat⟩, ⟨.wEven 62, a.toNat⟩, ⟨.wSrc, b.toNat⟩]
  | .aopennb d a b => [⟨.wDst, d.toNat⟩, ⟨.wEven 62, a.toNat⟩, ⟨.wSrc, b.toNat⟩]
  | .aredF32 d a b => [⟨.vSrc, d.toNat⟩, ⟨.wEven 62, a.toNat⟩, ⟨.wSrc, b.toNat⟩]
  | .aredF64 d a b => [⟨.vSrcP, d.toNat⟩, ⟨.wEven 62, a.toNat⟩, ⟨.wSrc, b.toNat⟩]
  | .aredS32 d a b => [⟨.vSrc, d.toNat⟩, ⟨.wEven 62, a.toNat⟩, ⟨.wSrc, b.toNat⟩]
  | .aredS64 d a b => [⟨.vSrcP, d.toNat⟩, ⟨.wEven 62, a.toNat⟩, ⟨.wSrc, b.toNat⟩]
  | .aseal d a => [⟨.wDst, d.toNat⟩, ⟨.wSrc, a.toNat⟩]
  | .asnap d a => [⟨.wDstP, d.toNat⟩, ⟨.wEven 62, a.toNat⟩]
  | .aqry d a => [⟨.wDst, d.toNat⟩, ⟨.wSrc, a.toNat⟩]
  | .mmaF64 d a b => [⟨.wSrc, d.toNat⟩, ⟨.wEven 58, a.toNat⟩, ⟨.wSrc, b.toNat⟩, ⟨.useW, (a.toNat + 1)⟩, ⟨.useW, (a.toNat + 2)⟩, ⟨.useW, (a.toNat + 3)⟩, ⟨.useW, (a.toNat + 4)⟩, ⟨.useW, (a.toNat + 5)⟩]
  | .mmaF32 d a b => [⟨.wSrc, d.toNat⟩, ⟨.wEven 58, a.toNat⟩, ⟨.wSrc, b.toNat⟩, ⟨.useW, (a.toNat + 1)⟩, ⟨.useW, (a.toNat + 2)⟩, ⟨.useW, (a.toNat + 3)⟩, ⟨.useW, (a.toNat + 4)⟩, ⟨.useW, (a.toNat + 5)⟩]
  | .mmaF16 d a b => [⟨.wSrc, d.toNat⟩, ⟨.wEven 58, a.toNat⟩, ⟨.wSrc, b.toNat⟩, ⟨.useW, (a.toNat + 1)⟩, ⟨.useW, (a.toNat + 2)⟩, ⟨.useW, (a.toNat + 3)⟩, ⟨.useW, (a.toNat + 4)⟩, ⟨.useW, (a.toNat + 5)⟩]
  | .mmaBf16 d a b => [⟨.wSrc, d.toNat⟩, ⟨.wEven 58, a.toNat⟩, ⟨.wSrc, b.toNat⟩, ⟨.useW, (a.toNat + 1)⟩, ⟨.useW, (a.toNat + 2)⟩, ⟨.useW, (a.toNat + 3)⟩, ⟨.useW, (a.toNat + 4)⟩, ⟨.useW, (a.toNat + 5)⟩]
  | .mmaE4m3 d a b => [⟨.wSrc, d.toNat⟩, ⟨.wEven 58, a.toNat⟩, ⟨.wSrc, b.toNat⟩, ⟨.useW, (a.toNat + 1)⟩, ⟨.useW, (a.toNat + 2)⟩, ⟨.useW, (a.toNat + 3)⟩, ⟨.useW, (a.toNat + 4)⟩, ⟨.useW, (a.toNat + 5)⟩]
  | .mmaE5m2 d a b => [⟨.wSrc, d.toNat⟩, ⟨.wEven 58, a.toNat⟩, ⟨.wSrc, b.toNat⟩, ⟨.useW, (a.toNat + 1)⟩, ⟨.useW, (a.toNat + 2)⟩, ⟨.useW, (a.toNat + 3)⟩, ⟨.useW, (a.toNat + 4)⟩, ⟨.useW, (a.toNat + 5)⟩]
  | .mmaE3m2 d a b => [⟨.wSrc, d.toNat⟩, ⟨.wEven 58, a.toNat⟩, ⟨.wSrc, b.toNat⟩, ⟨.useW, (a.toNat + 1)⟩, ⟨.useW, (a.toNat + 2)⟩, ⟨.useW, (a.toNat + 3)⟩, ⟨.useW, (a.toNat + 4)⟩, ⟨.useW, (a.toNat + 5)⟩]
  | .mmaE2m3 d a b => [⟨.wSrc, d.toNat⟩, ⟨.wEven 58, a.toNat⟩, ⟨.wSrc, b.toNat⟩, ⟨.useW, (a.toNat + 1)⟩, ⟨.useW, (a.toNat + 2)⟩, ⟨.useW, (a.toNat + 3)⟩, ⟨.useW, (a.toNat + 4)⟩, ⟨.useW, (a.toNat + 5)⟩]
  | .mmaE2m1 d a b => [⟨.wSrc, d.toNat⟩, ⟨.wEven 58, a.toNat⟩, ⟨.wSrc, b.toNat⟩, ⟨.useW, (a.toNat + 1)⟩, ⟨.useW, (a.toNat + 2)⟩, ⟨.useW, (a.toNat + 3)⟩, ⟨.useW, (a.toNat + 4)⟩, ⟨.useW, (a.toNat + 5)⟩]
  | .mmaMxi8 d a b => [⟨.wSrc, d.toNat⟩, ⟨.wEven 58, a.toNat⟩, ⟨.wSrc, b.toNat⟩, ⟨.useW, (a.toNat + 1)⟩, ⟨.useW, (a.toNat + 2)⟩, ⟨.useW, (a.toNat + 3)⟩, ⟨.useW, (a.toNat + 4)⟩, ⟨.useW, (a.toNat + 5)⟩]
  | .mmaE4m3E5m2 d a b => [⟨.wSrc, d.toNat⟩, ⟨.wEven 58, a.toNat⟩, ⟨.wSrc, b.toNat⟩, ⟨.useW, (a.toNat + 1)⟩, ⟨.useW, (a.toNat + 2)⟩, ⟨.useW, (a.toNat + 3)⟩, ⟨.useW, (a.toNat + 4)⟩, ⟨.useW, (a.toNat + 5)⟩]
  | .mmaE5m2E4m3 d a b => [⟨.wSrc, d.toNat⟩, ⟨.wEven 58, a.toNat⟩, ⟨.wSrc, b.toNat⟩, ⟨.useW, (a.toNat + 1)⟩, ⟨.useW, (a.toNat + 2)⟩, ⟨.useW, (a.toNat + 3)⟩, ⟨.useW, (a.toNat + 4)⟩, ⟨.useW, (a.toNat + 5)⟩]
  | .mmaE3m2E2m3 d a b => [⟨.wSrc, d.toNat⟩, ⟨.wEven 58, a.toNat⟩, ⟨.wSrc, b.toNat⟩, ⟨.useW, (a.toNat + 1)⟩, ⟨.useW, (a.toNat + 2)⟩, ⟨.useW, (a.toNat + 3)⟩, ⟨.useW, (a.toNat + 4)⟩, ⟨.useW, (a.toNat + 5)⟩]
  | .mmaE2m3E3m2 d a b => [⟨.wSrc, d.toNat⟩, ⟨.wEven 58, a.toNat⟩, ⟨.wSrc, b.toNat⟩, ⟨.useW, (a.toNat + 1)⟩, ⟨.useW, (a.toNat + 2)⟩, ⟨.useW, (a.toNat + 3)⟩, ⟨.useW, (a.toNat + 4)⟩, ⟨.useW, (a.toNat + 5)⟩]
  | .mmafF64 d a b => [⟨.wSrcP, d.toNat⟩, ⟨.wEven 58, a.toNat⟩, ⟨.wSrc, b.toNat⟩, ⟨.useW, (a.toNat + 1)⟩, ⟨.useW, (a.toNat + 2)⟩, ⟨.useW, (a.toNat + 3)⟩, ⟨.useW, (a.toNat + 4)⟩, ⟨.useW, (a.toNat + 5)⟩]
  | .mmafF32 d a b => [⟨.wSrcP, d.toNat⟩, ⟨.wEven 58, a.toNat⟩, ⟨.wSrc, b.toNat⟩, ⟨.useW, (a.toNat + 1)⟩, ⟨.useW, (a.toNat + 2)⟩, ⟨.useW, (a.toNat + 3)⟩, ⟨.useW, (a.toNat + 4)⟩, ⟨.useW, (a.toNat + 5)⟩]
  | .mmafF16 d a b => [⟨.wSrcP, d.toNat⟩, ⟨.wEven 58, a.toNat⟩, ⟨.wSrc, b.toNat⟩, ⟨.useW, (a.toNat + 1)⟩, ⟨.useW, (a.toNat + 2)⟩, ⟨.useW, (a.toNat + 3)⟩, ⟨.useW, (a.toNat + 4)⟩, ⟨.useW, (a.toNat + 5)⟩]
  | .mmafBf16 d a b => [⟨.wSrcP, d.toNat⟩, ⟨.wEven 58, a.toNat⟩, ⟨.wSrc, b.toNat⟩, ⟨.useW, (a.toNat + 1)⟩, ⟨.useW, (a.toNat + 2)⟩, ⟨.useW, (a.toNat + 3)⟩, ⟨.useW, (a.toNat + 4)⟩, ⟨.useW, (a.toNat + 5)⟩]
  | .mmafE4m3 d a b => [⟨.wSrcP, d.toNat⟩, ⟨.wEven 54, a.toNat⟩, ⟨.wSrc, b.toNat⟩, ⟨.useW, (a.toNat + 1)⟩, ⟨.useW, (a.toNat + 2)⟩, ⟨.useW, (a.toNat + 3)⟩, ⟨.useW, (a.toNat + 4)⟩, ⟨.useW, (a.toNat + 5)⟩, ⟨.useW, (a.toNat + 6)⟩, ⟨.useW, (a.toNat + 7)⟩, ⟨.useW, (a.toNat + 8)⟩, ⟨.useW, (a.toNat + 9)⟩]
  | .mmafE5m2 d a b => [⟨.wSrcP, d.toNat⟩, ⟨.wEven 54, a.toNat⟩, ⟨.wSrc, b.toNat⟩, ⟨.useW, (a.toNat + 1)⟩, ⟨.useW, (a.toNat + 2)⟩, ⟨.useW, (a.toNat + 3)⟩, ⟨.useW, (a.toNat + 4)⟩, ⟨.useW, (a.toNat + 5)⟩, ⟨.useW, (a.toNat + 6)⟩, ⟨.useW, (a.toNat + 7)⟩, ⟨.useW, (a.toNat + 8)⟩, ⟨.useW, (a.toNat + 9)⟩]
  | .mmafE3m2 d a b => [⟨.wSrcP, d.toNat⟩, ⟨.wEven 54, a.toNat⟩, ⟨.wSrc, b.toNat⟩, ⟨.useW, (a.toNat + 1)⟩, ⟨.useW, (a.toNat + 2)⟩, ⟨.useW, (a.toNat + 3)⟩, ⟨.useW, (a.toNat + 4)⟩, ⟨.useW, (a.toNat + 5)⟩, ⟨.useW, (a.toNat + 6)⟩, ⟨.useW, (a.toNat + 7)⟩, ⟨.useW, (a.toNat + 8)⟩, ⟨.useW, (a.toNat + 9)⟩]
  | .mmafE2m3 d a b => [⟨.wSrcP, d.toNat⟩, ⟨.wEven 54, a.toNat⟩, ⟨.wSrc, b.toNat⟩, ⟨.useW, (a.toNat + 1)⟩, ⟨.useW, (a.toNat + 2)⟩, ⟨.useW, (a.toNat + 3)⟩, ⟨.useW, (a.toNat + 4)⟩, ⟨.useW, (a.toNat + 5)⟩, ⟨.useW, (a.toNat + 6)⟩, ⟨.useW, (a.toNat + 7)⟩, ⟨.useW, (a.toNat + 8)⟩, ⟨.useW, (a.toNat + 9)⟩]
  | .mmafE2m1 d a b => [⟨.wSrcP, d.toNat⟩, ⟨.wEven 54, a.toNat⟩, ⟨.wSrc, b.toNat⟩, ⟨.useW, (a.toNat + 1)⟩, ⟨.useW, (a.toNat + 2)⟩, ⟨.useW, (a.toNat + 3)⟩, ⟨.useW, (a.toNat + 4)⟩, ⟨.useW, (a.toNat + 5)⟩, ⟨.useW, (a.toNat + 6)⟩, ⟨.useW, (a.toNat + 7)⟩, ⟨.useW, (a.toNat + 8)⟩, ⟨.useW, (a.toNat + 9)⟩]
  | .mmafMxi8 d a b => [⟨.wSrcP, d.toNat⟩, ⟨.wEven 54, a.toNat⟩, ⟨.wSrc, b.toNat⟩, ⟨.useW, (a.toNat + 1)⟩, ⟨.useW, (a.toNat + 2)⟩, ⟨.useW, (a.toNat + 3)⟩, ⟨.useW, (a.toNat + 4)⟩, ⟨.useW, (a.toNat + 5)⟩, ⟨.useW, (a.toNat + 6)⟩, ⟨.useW, (a.toNat + 7)⟩, ⟨.useW, (a.toNat + 8)⟩, ⟨.useW, (a.toNat + 9)⟩]
  | .mmafE4m3E5m2 d a b => [⟨.wSrcP, d.toNat⟩, ⟨.wEven 54, a.toNat⟩, ⟨.wSrc, b.toNat⟩, ⟨.useW, (a.toNat + 1)⟩, ⟨.useW, (a.toNat + 2)⟩, ⟨.useW, (a.toNat + 3)⟩, ⟨.useW, (a.toNat + 4)⟩, ⟨.useW, (a.toNat + 5)⟩, ⟨.useW, (a.toNat + 6)⟩, ⟨.useW, (a.toNat + 7)⟩, ⟨.useW, (a.toNat + 8)⟩, ⟨.useW, (a.toNat + 9)⟩]
  | .mmafE5m2E4m3 d a b => [⟨.wSrcP, d.toNat⟩, ⟨.wEven 54, a.toNat⟩, ⟨.wSrc, b.toNat⟩, ⟨.useW, (a.toNat + 1)⟩, ⟨.useW, (a.toNat + 2)⟩, ⟨.useW, (a.toNat + 3)⟩, ⟨.useW, (a.toNat + 4)⟩, ⟨.useW, (a.toNat + 5)⟩, ⟨.useW, (a.toNat + 6)⟩, ⟨.useW, (a.toNat + 7)⟩, ⟨.useW, (a.toNat + 8)⟩, ⟨.useW, (a.toNat + 9)⟩]
  | .mmafE3m2E2m3 d a b => [⟨.wSrcP, d.toNat⟩, ⟨.wEven 54, a.toNat⟩, ⟨.wSrc, b.toNat⟩, ⟨.useW, (a.toNat + 1)⟩, ⟨.useW, (a.toNat + 2)⟩, ⟨.useW, (a.toNat + 3)⟩, ⟨.useW, (a.toNat + 4)⟩, ⟨.useW, (a.toNat + 5)⟩, ⟨.useW, (a.toNat + 6)⟩, ⟨.useW, (a.toNat + 7)⟩, ⟨.useW, (a.toNat + 8)⟩, ⟨.useW, (a.toNat + 9)⟩]
  | .mmafE2m3E3m2 d a b => [⟨.wSrcP, d.toNat⟩, ⟨.wEven 54, a.toNat⟩, ⟨.wSrc, b.toNat⟩, ⟨.useW, (a.toNat + 1)⟩, ⟨.useW, (a.toNat + 2)⟩, ⟨.useW, (a.toNat + 3)⟩, ⟨.useW, (a.toNat + 4)⟩, ⟨.useW, (a.toNat + 5)⟩, ⟨.useW, (a.toNat + 6)⟩, ⟨.useW, (a.toNat + 7)⟩, ⟨.useW, (a.toNat + 8)⟩, ⟨.useW, (a.toNat + 9)⟩]
  | .cvtmxE4m3F32 d a b => [⟨.vDst, d.toNat⟩, ⟨.vSrc, a.toNat⟩, ⟨.wMax 62, b.toNat⟩, ⟨.useW, (b.toNat + 1)⟩]
  | .cvtmxE5m2F32 d a b => [⟨.vDst, d.toNat⟩, ⟨.vSrc, a.toNat⟩, ⟨.wMax 62, b.toNat⟩, ⟨.useW, (b.toNat + 1)⟩]
  | .cvtmxE3m2F32 d a b => [⟨.vDst, d.toNat⟩, ⟨.vSrc, a.toNat⟩, ⟨.wMax 62, b.toNat⟩, ⟨.useW, (b.toNat + 1)⟩]
  | .cvtmxE2m3F32 d a b => [⟨.vDst, d.toNat⟩, ⟨.vSrc, a.toNat⟩, ⟨.wMax 62, b.toNat⟩, ⟨.useW, (b.toNat + 1)⟩]
  | .cvtmxE2m1F32 d a b => [⟨.vDst, d.toNat⟩, ⟨.vSrc, a.toNat⟩, ⟨.wMax 62, b.toNat⟩, ⟨.useW, (b.toNat + 1)⟩]
  | .cvtmxMxi8F32 d a b => [⟨.vDst, d.toNat⟩, ⟨.vSrc, a.toNat⟩, ⟨.wMax 62, b.toNat⟩, ⟨.useW, (b.toNat + 1)⟩]
  | .dqmxE4m3F32 d a b => [⟨.vDst, d.toNat⟩, ⟨.vSrc, a.toNat⟩, ⟨.wSrc, b.toNat⟩]
  | .dqmxE5m2F32 d a b => [⟨.vDst, d.toNat⟩, ⟨.vSrc, a.toNat⟩, ⟨.wSrc, b.toNat⟩]
  | .dqmxE3m2F32 d a b => [⟨.vDst, d.toNat⟩, ⟨.vSrc, a.toNat⟩, ⟨.wSrc, b.toNat⟩]
  | .dqmxE2m3F32 d a b => [⟨.vDst, d.toNat⟩, ⟨.vSrc, a.toNat⟩, ⟨.wSrc, b.toNat⟩]
  | .dqmxE2m1F32 d a b => [⟨.vDst, d.toNat⟩, ⟨.vSrc, a.toNat⟩, ⟨.wSrc, b.toNat⟩]
  | .dqmxMxi8F32 d a b => [⟨.vDst, d.toNat⟩, ⟨.vSrc, a.toNat⟩, ⟨.wSrc, b.toNat⟩]
  | .scaccF32 d a => [⟨.wSrc, d.toNat⟩, ⟨.wMax 61, a.toNat⟩, ⟨.useW, (a.toNat + 1)⟩, ⟨.useW, (a.toNat + 2)⟩]
  | .scaccF64 d a => [⟨.wSrc, d.toNat⟩, ⟨.wMax 61, a.toNat⟩, ⟨.useW, (a.toNat + 1)⟩, ⟨.useW, (a.toNat + 2)⟩]
  | .amxrd d a => [⟨.wDst, d.toNat⟩, ⟨.wSrc, a.toNat⟩]
  | .amxclr a => [⟨.wSrc, a.toNat⟩]
  | .fdef a b => [⟨.wSrcP, a.toNat⟩, ⟨.wSrc, b.toNat⟩]
  | .fcall d a b => [⟨.vDst, d.toNat⟩, ⟨.vRow, a.toNat⟩, ⟨.wSrc, b.toNat⟩]
  | .fret a b => [⟨.vRow, a.toNat⟩, ⟨.vRow, b.toNat⟩]
  | .finv b => [⟨.wSrc, b.toNat⟩]
  | .fstat d a b => [⟨.wDstP, d.toNat⟩, ⟨.wSrc, a.toNat⟩, ⟨.wSrc, b.toNat⟩]
  | .fpre a b => [⟨.wSrcP, a.toNat⟩, ⟨.wSrc, b.toNat⟩]
  | .copy a b => [⟨.wEven 56, a.toNat⟩, ⟨.wSrc, b.toNat⟩, ⟨.useW, (a.toNat + 1)⟩, ⟨.useW, (a.toNat + 2)⟩, ⟨.useW, (a.toNat + 3)⟩, ⟨.useW, (a.toNat + 4)⟩, ⟨.useW, (a.toNat + 5)⟩, ⟨.useW, (a.toNat + 6)⟩, ⟨.useW, (a.toNat + 7)⟩]
  | .copybox a b => [⟨.wEven 54, a.toNat⟩, ⟨.wSrc, b.toNat⟩, ⟨.useW, (a.toNat + 1)⟩, ⟨.useW, (a.toNat + 2)⟩, ⟨.useW, (a.toNat + 3)⟩, ⟨.useW, (a.toNat + 4)⟩, ⟨.useW, (a.toNat + 5)⟩, ⟨.useW, (a.toNat + 6)⟩, ⟨.useW, (a.toNat + 7)⟩, ⟨.useW, (a.toNat + 8)⟩, ⟨.useW, (a.toNat + 9)⟩]
  | .copyred a b => [⟨.wEven 56, a.toNat⟩, ⟨.wSrc, b.toNat⟩, ⟨.useW, (a.toNat + 1)⟩, ⟨.useW, (a.toNat + 2)⟩, ⟨.useW, (a.toNat + 3)⟩, ⟨.useW, (a.toNat + 4)⟩, ⟨.useW, (a.toNat + 5)⟩, ⟨.useW, (a.toNat + 6)⟩, ⟨.useW, (a.toNat + 7)⟩]
  | .cseal d => [⟨.wDst, d.toNat⟩]
  | .cwait a => [⟨.wSrc, a.toNat⟩]
  | .twaitany a => [⟨.wEven 62, a.toNat⟩]
  | .twaitall a => [⟨.wEven 62, a.toNat⟩]
  | .tffr d a => [⟨.wDst, d.toNat⟩, ⟨.wEven 62, a.toNat⟩]
  | .gview d a => [⟨.range 0 15, d.toNat⟩, ⟨.wEven 56, a.toNat⟩, ⟨.useW, (a.toNat + 1)⟩, ⟨.useW, (a.toNat + 2)⟩, ⟨.useW, (a.toNat + 3)⟩, ⟨.useW, (a.toNat + 4)⟩, ⟨.useW, (a.toNat + 5)⟩, ⟨.useW, (a.toNat + 6)⟩]
  | .gstn d a b => [⟨.range 0 7, d.toNat⟩, ⟨.wEven 62, a.toNat⟩, ⟨.wSrc, b.toNat⟩]
  | .grst a b => [⟨.wEven 62, a.toNat⟩, ⟨.wSrc, b.toNat⟩]
  | .gprol a b => [⟨.wEven 62, a.toNat⟩, ⟨.wSrc, b.toNat⟩]
  | .gproladd a b => [⟨.wEven 62, a.toNat⟩, ⟨.wSrc, b.toNat⟩]
  | .gred a b => [⟨.wEven 62, a.toNat⟩, ⟨.wSrc, b.toNat⟩]
  | .binit d a => [⟨.range 0 19, d.toNat⟩, ⟨.wEven 62, a.toNat⟩]
  | .barv d => [⟨.range 0 15, d.toNat⟩]
  | .bwait d => [⟨.range 0 15, d.toNat⟩]
  | .bexp d a => [⟨.range 0 15, d.toNat⟩, ⟨.wSrc, a.toNat⟩]
  | .spop d b => [⟨.wDstP, d.toNat⟩, ⟨.range 0 3, b.toNat⟩]
  | .spush d a b => [⟨.wDst, d.toNat⟩, ⟨.wEven 62, a.toNat⟩, ⟨.range 0 3, b.toNat⟩]
  | .tagclr a => [⟨.wEven 62, a.toNat⟩]
  | .tagrd d => [⟨.wDstP, d.toNat⟩]
  | .launch d a => [⟨.wDst, d.toNat⟩, ⟨.wEven 62, a.toNat⟩]
  | .dwait a b => [⟨.wSrcP, a.toNat⟩, ⟨.wSrcP, b.toNat⟩]
  | .gbar => []
  | .waitConditionMet _ _ => []
  | .waitExchangeTimeout _ _ => []
  | .vacancyFill _ => []
  | .deferredFaultDelivery _ _ => []
  | .quantumExpiry _ _ => []
  | .detCommitPhase _ => []
  | .loadDataReturn _ _ _ => []
  | .storePerformed _ _ _ => []
  | .atomicPerformed _ _ _ => []
  | .cacheEviction _ _ _ => []
  | .pageWalk _ _ _ => []
  | .matrixStep _ _ => []
  | .scaccRow _ _ => []
  | .leaveGrant _ => []
  | .temperatureThreshold _ _ => []
  | .copyChunk _ _ _ _ => []
  | .engineStreamPush _ _ _ => []
  | .gridTransferRow _ _ _ _ => []
  | .accumulationArrival _ => []
  | .lineSeal _ _ _ => []
  | .frameSpill _ => []
  | .frameReload _ => []
  | .fsSearch _ _ _ => []
  | .fsHitIncrement _ => []
  | .fsInsert _ => []
  | .fsDefinitionApply _ _ => []
  | .fsInvalidationApply _ _ => []
  | .fsPreloadPlacement _ => []
  | .fsBucketSpill _ _ _ => []
  | .launchQueueRegister _ _ _ _ _ _ _ => []
  | .tailWrite _ _ _ => []
  | .dependenceSignalWrite _ _ _ => []
  | .bindCrew _ _ _ _ _ _ _ => []
  | .parkedCrewPreemption _ _ => []
  | .gridCompletion _ => []
  | .gridTerminationRequest _ _ => []
  | .hostDriverTermination _ => []
  | .preemptionRequest _ => []
  | .crewSave _ _ => []
  | .localImageWriteback _ _ _ => []
  | .bucketMove _ _ => []
  | .hostMemReadOwnership _ => []
  | .hostMemReadShared _ => []
  | .hostMemWrite _ _ => []
  | .bisnpResponse _ _ _ => []
  | .hostSnoopInvalidate _ => []
  | .hostSnoopData _ => []
  | .linkFlitReceive _ _ _ => []
  | .linkRetryRequest _ _ => []
  | .linkRetrain _ _ => []
  | .peerRemoteTransaction _ _ _ _ _ _ => []
  | .fabricDomainFormation _ _ _ => []
  | .heartbeatSend => []
  | .heartbeatReceive _ => []
  | .deviceDead _ => []
  | .deadDeviceScrub _ => []
  | .replicaCollapse _ _ _ _ _ _ => []
  | .pteChange _ _ _ _ => []
  | .contextCreate _ _ _ _ _ _ _ => []
  | .contextTeardown _ => []
  | .powerOn _ _ _ _ _ _ => []
  | .spdmRequest _ _ => []
  | .illegalInstruction => []
  | .instructionFetchFault => []
  | .deviceQueueRecord _ => []

/-- The row has an instruction word (the other rows are events of other agents). -/
def Instr.isWord : Instr → Bool
  | .lit _ => true
  | .addN32 _ _ _ _ => true
  | .subN32 _ _ _ _ => true
  | .mulN32 _ _ _ _ => true
  | .mulhiS32 _ _ _ _ => true
  | .mulhiN32 _ _ _ _ => true
  | .madN32 _ _ _ _ => true
  | .andN32 _ _ _ _ => true
  | .orN32 _ _ _ _ => true
  | .xorN32 _ _ _ _ => true
  | .shlN32 _ _ _ _ => true
  | .shrN32 _ _ _ _ => true
  | .shrS32 _ _ _ _ => true
  | .minS32 _ _ _ _ => true
  | .minN32 _ _ _ _ => true
  | .maxS32 _ _ _ _ => true
  | .maxN32 _ _ _ _ => true
  | .seqN32 _ _ _ _ => true
  | .sltS32 _ _ _ _ => true
  | .sltN32 _ _ _ _ => true
  | .selN32 _ _ _ _ => true
  | .popN32 _ _ _ => true
  | .clzN32 _ _ _ => true
  | .brevN32 _ _ _ => true
  | .addsS32 _ _ _ _ => true
  | .subsS32 _ _ _ _ => true
  | .addsN32 _ _ _ _ => true
  | .subsN32 _ _ _ _ => true
  | .bfxN32 _ _ _ _ => true
  | .bfiN32 _ _ _ _ => true
  | .addImmN32 _ _ _ _ => true
  | .waveAddImmN32 _ _ _ _ => true
  | .addN64 _ _ _ _ => true
  | .subN64 _ _ _ _ => true
  | .addxN64 _ _ _ _ => true
  | .addxS64 _ _ _ _ => true
  | .shlN64 _ _ _ _ => true
  | .shrN64 _ _ _ _ => true
  | .shrS64 _ _ _ _ => true
  | .andN64 _ _ _ _ => true
  | .orN64 _ _ _ _ => true
  | .xorN64 _ _ _ _ => true
  | .seqN64 _ _ _ _ => true
  | .sltS64 _ _ _ _ => true
  | .sltN64 _ _ _ _ => true
  | .mulwN32 _ _ _ _ => true
  | .mulwS32 _ _ _ _ => true
  | .waveAddN32 _ _ _ _ => true
  | .waveSubN32 _ _ _ _ => true
  | .waveMulN32 _ _ _ _ => true
  | .waveMulhiS32 _ _ _ _ => true
  | .waveMulhiN32 _ _ _ _ => true
  | .waveMadN32 _ _ _ _ => true
  | .waveAndN32 _ _ _ _ => true
  | .waveOrN32 _ _ _ _ => true
  | .waveXorN32 _ _ _ _ => true
  | .waveShlN32 _ _ _ _ => true
  | .waveShrN32 _ _ _ _ => true
  | .waveShrS32 _ _ _ _ => true
  | .waveMinS32 _ _ _ _ => true
  | .waveMinN32 _ _ _ _ => true
  | .waveMaxS32 _ _ _ _ => true
  | .waveMaxN32 _ _ _ _ => true
  | .waveSeqN32 _ _ _ _ => true
  | .waveSltS32 _ _ _ _ => true
  | .waveSltN32 _ _ _ _ => true
  | .waveSelN32 _ _ _ _ => true
  | .wavePopN32 _ _ _ => true
  | .waveClzN32 _ _ _ => true
  | .waveBrevN32 _ _ _ => true
  | .waveAddsS32 _ _ _ _ => true
  | .waveSubsS32 _ _ _ _ => true
  | .waveAddsN32 _ _ _ _ => true
  | .waveSubsN32 _ _ _ _ => true
  | .waveBfxN32 _ _ _ _ => true
  | .waveBfiN32 _ _ _ _ => true
  | .waveAddN64 _ _ _ _ => true
  | .waveSubN64 _ _ _ _ => true
  | .waveSltN64 _ _ _ _ => true
  | .addF32 _ _ _ _ => true
  | .addF32Rne _ _ _ _ => true
  | .addF32Rtz _ _ _ _ => true
  | .addF32Rup _ _ _ _ => true
  | .addF32Rdn _ _ _ _ => true
  | .subF32 _ _ _ _ => true
  | .subF32Rne _ _ _ _ => true
  | .subF32Rtz _ _ _ _ => true
  | .subF32Rup _ _ _ _ => true
  | .subF32Rdn _ _ _ _ => true
  | .mulF32 _ _ _ _ => true
  | .mulF32Rne _ _ _ _ => true
  | .mulF32Rtz _ _ _ _ => true
  | .mulF32Rup _ _ _ _ => true
  | .mulF32Rdn _ _ _ _ => true
  | .fmaF32 _ _ _ _ => true
  | .fmaF32Rne _ _ _ _ => true
  | .fmaF32Rtz _ _ _ _ => true
  | .fmaF32Rup _ _ _ _ => true
  | .fmaF32Rdn _ _ _ _ => true
  | .minF32 _ _ _ _ => true
  | .maxF32 _ _ _ _ => true
  | .ceqF32 _ _ _ _ => true
  | .cltF32 _ _ _ _ => true
  | .cleF32 _ _ _ _ => true
  | .cunF32 _ _ _ _ => true
  | .addF16 _ _ _ _ => true
  | .mulF16 _ _ _ _ => true
  | .fmaF16 _ _ _ _ => true
  | .addBf16 _ _ _ _ => true
  | .mulBf16 _ _ _ _ => true
  | .fmaBf16 _ _ _ _ => true
  | .addF64 _ _ _ _ => true
  | .addF64Rne _ _ _ _ => true
  | .addF64Rtz _ _ _ _ => true
  | .addF64Rup _ _ _ _ => true
  | .addF64Rdn _ _ _ _ => true
  | .subF64 _ _ _ _ => true
  | .subF64Rne _ _ _ _ => true
  | .subF64Rtz _ _ _ _ => true
  | .subF64Rup _ _ _ _ => true
  | .subF64Rdn _ _ _ _ => true
  | .mulF64 _ _ _ _ => true
  | .mulF64Rne _ _ _ _ => true
  | .mulF64Rtz _ _ _ _ => true
  | .mulF64Rup _ _ _ _ => true
  | .mulF64Rdn _ _ _ _ => true
  | .fmaF64 _ _ _ _ => true
  | .fmaF64Rne _ _ _ _ => true
  | .fmaF64Rtz _ _ _ _ => true
  | .fmaF64Rup _ _ _ _ => true
  | .fmaF64Rdn _ _ _ _ => true
  | .minF64 _ _ _ _ => true
  | .maxF64 _ _ _ _ => true
  | .ceqF64 _ _ _ _ => true
  | .cltF64 _ _ _ _ => true
  | .cleF64 _ _ _ _ => true
  | .cunF64 _ _ _ _ => true
  | .absF64 _ _ _ => true
  | .negF64 _ _ _ => true
  | .classF64 _ _ _ => true
  | .divF32 _ _ _ _ => true
  | .sqrtF32 _ _ _ => true
  | .rcpF32 _ _ _ => true
  | .rsqF32 _ _ _ => true
  | .exp2F32 _ _ _ => true
  | .log2F32 _ _ _ => true
  | .sinpiF32 _ _ _ => true
  | .cospiF32 _ _ _ => true
  | .absF32 _ _ _ => true
  | .negF32 _ _ _ => true
  | .classF32 _ _ _ => true
  | .absF16 _ _ _ => true
  | .negF16 _ _ _ => true
  | .absBf16 _ _ _ => true
  | .negBf16 _ _ _ => true
  | .divF64 _ _ _ _ => true
  | .sqrtF64 _ _ _ => true
  | .rcpF64 _ _ _ => true
  | .rsqF64 _ _ _ => true
  | .exp2F64 _ _ _ => true
  | .log2F64 _ _ _ => true
  | .cnvF64F32 _ _ _ _ => true
  | .cnvF32F64 _ _ _ => true
  | .cnvF32F16 _ _ _ _ => true
  | .cnvF16F32 _ _ _ => true
  | .cnvF32Bf16 _ _ _ _ => true
  | .cnvBf16F32 _ _ _ => true
  | .cnvF64F16 _ _ _ _ => true
  | .cnvF64Bf16 _ _ _ _ => true
  | .cnvF32S32 _ _ _ _ => true
  | .cnvF32N32 _ _ _ _ => true
  | .cnvS32F32 _ _ _ _ => true
  | .cnvN32F32 _ _ _ _ => true
  | .cnvF64S32 _ _ _ _ => true
  | .cnvF64N32 _ _ _ _ => true
  | .cnvS32F64 _ _ _ => true
  | .cnvN32F64 _ _ _ => true
  | .cnvF64S64 _ _ _ _ => true
  | .cnvF64N64 _ _ _ _ => true
  | .cnvS64F64 _ _ _ _ => true
  | .cnvN64F64 _ _ _ _ => true
  | .cnvS64F32 _ _ _ _ => true
  | .cnvN64F32 _ _ _ _ => true
  | .cnvS32S16 _ _ _ _ => true
  | .cnvS32N16 _ _ _ _ => true
  | .cnvS32S8 _ _ _ _ => true
  | .cnvS32N8 _ _ _ _ => true
  | .cnvS32S64 _ _ _ => true
  | .cnvN32N64 _ _ _ => true
  | .rintF32 _ _ _ _ => true
  | .rintF64 _ _ _ _ => true
  | .ballot _ _ => true
  | .vany _ _ _ => true
  | .vall _ _ _ => true
  | .mpop _ _ _ => true
  | .mffs _ _ _ => true
  | .lsel _ _ _ _ => true
  | .lbck _ _ _ _ => true
  | .lfwd _ _ _ _ => true
  | .lmir _ _ _ _ => true
  | .bcast _ _ _ _ => true
  | .scanN32 _ _ _ => true
  | .xscanN32 _ _ _ => true
  | .redaddN32 _ _ _ => true
  | .redminS32 _ _ _ => true
  | .redmaxS32 _ _ _ => true
  | .redandN32 _ _ _ => true
  | .redorN32 _ _ _ => true
  | .redaddF32 _ _ _ => true
  | .br _ => true
  | .bz _ => true
  | .bnz _ => true
  | .call _ => true
  | .split _ => true
  | .bl _ => true
  | .brk _ => true
  | .join => true
  | .ret => true
  | .jr _ => true
  | .jalr _ _ => true
  | .waitc _ _ _ _ _ => true
  | .yield => true
  | .exit => true
  | .svc _ => true
  | .trap _ => true
  | .eret => true
  | .rsr _ _ _ => true
  | .wsr _ _ => true
  | .vrsr _ _ _ => true
  | .vwsr _ _ => true
  | .clk _ _ => true
  | .win _ => true
  | .leave _ => true
  | .ldN8 _ _ _ _ => true
  | .ldS8 _ _ _ _ => true
  | .ldN16 _ _ _ _ => true
  | .ldS16 _ _ _ _ => true
  | .ld32 _ _ _ _ => true
  | .ld64 _ _ _ _ => true
  | .ldUniN8 _ _ _ _ => true
  | .ldUniS8 _ _ _ _ => true
  | .ldUniN16 _ _ _ _ => true
  | .ldUniS16 _ _ _ _ => true
  | .ldUni32 _ _ _ _ => true
  | .ldUni64 _ _ _ _ => true
  | .st8 _ _ _ _ => true
  | .st16 _ _ _ _ => true
  | .st32 _ _ _ _ => true
  | .st64 _ _ _ _ => true
  | .stUni8 _ _ _ _ => true
  | .stUni16 _ _ _ _ => true
  | .stUni32 _ _ _ _ => true
  | .stUni64 _ _ _ _ => true
  | .stcN32 _ _ _ => true
  | .stcN64 _ _ _ => true
  | .amaddN32 _ _ _ _ => true
  | .amaddN64 _ _ _ _ => true
  | .amaddF32 _ _ _ _ => true
  | .amaddF64 _ _ _ _ => true
  | .amminS32 _ _ _ _ => true
  | .ammaxS32 _ _ _ _ => true
  | .amminN32 _ _ _ _ => true
  | .ammaxN32 _ _ _ _ => true
  | .amandN32 _ _ _ _ => true
  | .amorN32 _ _ _ _ => true
  | .amxorN32 _ _ _ _ => true
  | .amswpN32 _ _ _ _ => true
  | .amswpN64 _ _ _ _ => true
  | .amcasN32 _ _ _ _ => true
  | .amcasN64 _ _ _ _ => true
  | .fence _ _ => true
  | .cwb _ _ _ => true
  | .cinv _ _ _ => true
  | .cinvd _ _ _ => true
  | .pref _ _ _ => true
  | .aopen _ _ _ => true
  | .aopennb _ _ _ => true
  | .aredF32 _ _ _ => true
  | .aredF64 _ _ _ => true
  | .aredS32 _ _ _ => true
  | .aredS64 _ _ _ => true
  | .aseal _ _ => true
  | .asnap _ _ => true
  | .aqry _ _ => true
  | .mmaF64 _ _ _ => true
  | .mmaF32 _ _ _ => true
  | .mmaF16 _ _ _ => true
  | .mmaBf16 _ _ _ => true
  | .mmaE4m3 _ _ _ => true
  | .mmaE5m2 _ _ _ => true
  | .mmaE3m2 _ _ _ => true
  | .mmaE2m3 _ _ _ => true
  | .mmaE2m1 _ _ _ => true
  | .mmaMxi8 _ _ _ => true
  | .mmaE4m3E5m2 _ _ _ => true
  | .mmaE5m2E4m3 _ _ _ => true
  | .mmaE3m2E2m3 _ _ _ => true
  | .mmaE2m3E3m2 _ _ _ => true
  | .mmafF64 _ _ _ => true
  | .mmafF32 _ _ _ => true
  | .mmafF16 _ _ _ => true
  | .mmafBf16 _ _ _ => true
  | .mmafE4m3 _ _ _ => true
  | .mmafE5m2 _ _ _ => true
  | .mmafE3m2 _ _ _ => true
  | .mmafE2m3 _ _ _ => true
  | .mmafE2m1 _ _ _ => true
  | .mmafMxi8 _ _ _ => true
  | .mmafE4m3E5m2 _ _ _ => true
  | .mmafE5m2E4m3 _ _ _ => true
  | .mmafE3m2E2m3 _ _ _ => true
  | .mmafE2m3E3m2 _ _ _ => true
  | .cvtmxE4m3F32 _ _ _ => true
  | .cvtmxE5m2F32 _ _ _ => true
  | .cvtmxE3m2F32 _ _ _ => true
  | .cvtmxE2m3F32 _ _ _ => true
  | .cvtmxE2m1F32 _ _ _ => true
  | .cvtmxMxi8F32 _ _ _ => true
  | .dqmxE4m3F32 _ _ _ => true
  | .dqmxE5m2F32 _ _ _ => true
  | .dqmxE3m2F32 _ _ _ => true
  | .dqmxE2m3F32 _ _ _ => true
  | .dqmxE2m1F32 _ _ _ => true
  | .dqmxMxi8F32 _ _ _ => true
  | .scaccF32 _ _ => true
  | .scaccF64 _ _ => true
  | .amxrd _ _ => true
  | .amxclr _ => true
  | .fdef _ _ => true
  | .fcall _ _ _ => true
  | .fret _ _ => true
  | .finv _ => true
  | .fstat _ _ _ => true
  | .fpre _ _ => true
  | .copy _ _ => true
  | .copybox _ _ => true
  | .copyred _ _ => true
  | .cseal _ => true
  | .cwait _ => true
  | .twaitany _ => true
  | .twaitall _ => true
  | .tffr _ _ => true
  | .gview _ _ => true
  | .gstn _ _ _ => true
  | .grst _ _ => true
  | .gprol _ _ => true
  | .gproladd _ _ => true
  | .gred _ _ => true
  | .binit _ _ => true
  | .barv _ => true
  | .bwait _ => true
  | .bexp _ _ => true
  | .spop _ _ => true
  | .spush _ _ _ => true
  | .tagclr _ => true
  | .tagrd _ => true
  | .launch _ _ => true
  | .dwait _ _ => true
  | .gbar => true
  | .waitConditionMet _ _ => false
  | .waitExchangeTimeout _ _ => false
  | .vacancyFill _ => false
  | .deferredFaultDelivery _ _ => false
  | .quantumExpiry _ _ => false
  | .detCommitPhase _ => false
  | .loadDataReturn _ _ _ => false
  | .storePerformed _ _ _ => false
  | .atomicPerformed _ _ _ => false
  | .cacheEviction _ _ _ => false
  | .pageWalk _ _ _ => false
  | .matrixStep _ _ => false
  | .scaccRow _ _ => false
  | .leaveGrant _ => false
  | .temperatureThreshold _ _ => false
  | .copyChunk _ _ _ _ => false
  | .engineStreamPush _ _ _ => false
  | .gridTransferRow _ _ _ _ => false
  | .accumulationArrival _ => false
  | .lineSeal _ _ _ => false
  | .frameSpill _ => false
  | .frameReload _ => false
  | .fsSearch _ _ _ => false
  | .fsHitIncrement _ => false
  | .fsInsert _ => false
  | .fsDefinitionApply _ _ => false
  | .fsInvalidationApply _ _ => false
  | .fsPreloadPlacement _ => false
  | .fsBucketSpill _ _ _ => false
  | .launchQueueRegister _ _ _ _ _ _ _ => false
  | .tailWrite _ _ _ => false
  | .dependenceSignalWrite _ _ _ => false
  | .bindCrew _ _ _ _ _ _ _ => false
  | .parkedCrewPreemption _ _ => false
  | .gridCompletion _ => false
  | .gridTerminationRequest _ _ => false
  | .hostDriverTermination _ => false
  | .preemptionRequest _ => false
  | .crewSave _ _ => false
  | .localImageWriteback _ _ _ => false
  | .bucketMove _ _ => false
  | .hostMemReadOwnership _ => false
  | .hostMemReadShared _ => false
  | .hostMemWrite _ _ => false
  | .bisnpResponse _ _ _ => false
  | .hostSnoopInvalidate _ => false
  | .hostSnoopData _ => false
  | .linkFlitReceive _ _ _ => false
  | .linkRetryRequest _ _ => false
  | .linkRetrain _ _ => false
  | .peerRemoteTransaction _ _ _ _ _ _ => false
  | .fabricDomainFormation _ _ _ => false
  | .heartbeatSend => false
  | .heartbeatReceive _ => false
  | .deviceDead _ => false
  | .deadDeviceScrub _ => false
  | .replicaCollapse _ _ _ _ _ _ => false
  | .pteChange _ _ _ _ => false
  | .contextCreate _ _ _ _ _ _ _ => false
  | .contextTeardown _ => false
  | .powerOn _ _ _ _ _ _ => false
  | .spdmRequest _ _ => false
  | .illegalInstruction => false
  | .instructionFetchFault => false
  | .deviceQueueRecord _ => false

end Sys2Proof
end

