-- ==== Sys2Proof/Config.lean ====
section
/-! DEFINITION. What the spec leaves open: the order in which agents move (log 2), the results of AES-256-XTS, SHAKE256, ML-DSA-65
and the links' CRC-64 (logs 6, 7, 26), what a full cache or store gives up (log 59), and what another device or the host answers
(logs 60, 61). Each is a constant without a body, so nothing can rest on its value. -/

namespace Sys2Proof

/-- One move of the device: a core's issue clock, in which the slots `busy` meet a pipe that cannot accept them (R189), or
one event of another agent. -/
inductive Move where
  | issue (core : Nat) (busy : List Nat)
  | occur (e : Instr)
  deriving DecidableEq, Repr, Inhabited

/-- Which agent moves next, for the n-th choice (log 2). -/
opaque Config.nextMove : Nat → Move

/-- The byte at an offset of a line stored under one key and read under another: key instances, line number, plaintext of
the line, offset (R396, log 6). -/
opaque Config.xts (stored read line : Nat) (plain : List Byte) (i : Nat) : Byte

/-- SHAKE256 of a message to n bytes (R428-R431, log 7). -/
opaque Config.shake256 (n : Nat) (msg : List Byte) : List Byte

/-- Whether an ML-DSA-65 signature of a firmware image is good under the public key in its header (R428, log 7). -/
opaque Config.imageSigned (image : List Byte) : Bool

/-- The public key, the security version and the signed part in the header of a firmware image (R428, log 7): where they
stand is not given. -/
opaque Config.imageKey (image : List Byte) : List Byte
opaque Config.imageVersion (image : List Byte) : Nat

/-- The bytes of the boot ROM (R428, R431): not given. -/
opaque Config.bootRom : List Byte

/-- The ML-DSA-65 public key derived from a seed (R430, log 7). -/
opaque Config.mlDsaPublic (seed : List Byte) : List Byte

/-- The ML-DSA-65 private key derived from a seed (R430, log 7). -/
opaque Config.mlDsaPrivate (seed : List Byte) : List Byte

/-- The ML-DSA-65 signature of a message under a private key (R431, log 7). -/
opaque Config.mlDsaSign (key msg : List Byte) : List Byte

/-- Koryar's certificate over the public identity key, in flash (R430): not given. -/
opaque Config.certificate : List Byte

/-- The IDE key that the n-th key exchange of an SPDM session sets (R406, R431, log 52). -/
opaque Config.ideKey (session n : Nat) : List Byte

/-- The CRC-64 of the first 248 bytes of a link flit (R413, log 26). -/
opaque Config.crc64 (bytes : List Byte) : Nat

/-- The entry that a full cache, slice or record store gives up, for the n-th such choice (R206, R228, log 59). -/
opaque Config.victim (n : Nat) : Nat

/-- The bytes of a line that a fabric device wrote while it held the line exclusively: the name of its hold, the line (R403, log 60). -/
opaque Config.peerDirty (hold ln : Nat) : List (Nat × Byte)

/-- Whether fabric device `dev` keeps a GiB of its memory closed to this device, for the n-th access, at a clock of the issuing core
(R411, log 60). -/
opaque Config.peerCloses (dev gib n clock : Nat) : Bool

/-- The byte at an offset of a line that another device gives for the n-th read of its window (R412, log 60). -/
opaque Config.peerLine (n ln i : Nat) : Byte

/-- The old value that another device answers to the n-th atomic in its window (R412, log 60). -/
opaque Config.peerOld (n : Nat) : Nat

/-- How another device rejects the n-th atomic in its window on a line that accumulates there: the code of R297, none where it does not (R260, R412,
log 60). -/
opaque Config.peerRejects (n : Nat) : Option Nat

/-- The old value that a folded atomic returns where its width is not that of the session's element, for the n-th (R260, log 72). -/
opaque Config.foldOld (n : Nat) : Nat

/-- Whether the host grants E on a shared read of a host line, for the n-th (R409, log 61). -/
opaque Config.hostGrantsE (n : Nat) : Bool

/-- Where the steward places a crew, for the n-th choice among those that R185 leaves (log 25). -/
opaque Config.placing (n : Nat) : Nat

end Sys2Proof
end

