-- ==== Sys2Proof/Machine/State.lean ====
section
/-! DEFINITION. The state of the device, as plain data, and its value at reset. An association list holds only the entries
that differ from an idle or empty one. Addresses of caches and frames are line numbers (address / 128). -/

namespace Sys2Proof.Machine

/-- A launch queue (R179): context, ring base, N, the addresses of HEAD and TAIL, the steward's HEAD, and whether it is stopped. -/
structure LQueue where
  /-- Context of its records. -/
  ctx : Nat := 0
  /-- Physical address of the ring. -/
  ring : Nat := 0
  /-- N. -/
  size : Nat := 0
  /-- Physical address of HEAD. -/
  headAt : Nat := 0
  /-- Physical address of TAIL. -/
  tailAt : Nat := 0
  /-- Records copied. -/
  head : Nat := 0
  /-- TAIL as last read. -/
  tail : Nat := 0
  /-- Stopped by an invalid TAIL. -/
  stopped : Bool := false
  deriving DecidableEq, Repr

/-- A wave (R6, 07, 21): its architectural state, and what the core holds for it. R6 and R131 give the values at creation. -/
structure Wave where
  /-- Byte address of the next instruction (R6). -/
  pc : BitVec 49 := 0
  /-- Window base, a multiple of 8 (R6, R137). -/
  wbase : Nat := 0
  /-- Rows of the allocation (R9). -/
  alloc : Nat := 0
  /-- The allocation's rows (R6, R9). -/
  v : List Row := []
  /-- W0-w63 (R6, R7). -/
  w : List Word := []
  /-- `fsr` of each thread (R11). -/
  fsr : Row := []
  /-- Latches q0-q7 (R51-R53). -/
  q : List Row := []
  /-- Latches saved at trap entry (R53, R134). -/
  qSaved : List Row := []
  /-- Retired-instruction count (R20). -/
  count : BitVec 64 := 0
  /-- Supervisor mode (R132). -/
  sup : Bool := false
  /-- R131, R133. -/
  cause : Word := 0
  /-- R131. -/
  epcl : Word := 0
  /-- R131. -/
  epch : Word := 0
  /-- R131. -/
  tvecl : Word := 0
  /-- R131. -/
  tvech : Word := 0
  /-- R131. -/
  tvall : Word := 0
  /-- R131. -/
  tvalh : Word := 0
  /-- R131, R374. -/
  tmask0 : Word := 0
  /-- R131, R374. -/
  tmask1 : Word := 0
  /-- R131, R374. -/
  tmask2 : Word := 0
  /-- R131, R374. -/
  tlane : Word := 0
  /-- R131. -/
  ssc0 : Word := 0
  /-- R131. -/
  ssc1 : Word := 0
  /-- `lvst`.CLS (R138). -/
  lvCls : Nat := 0
  /-- `lvst`.GNT (R138). -/
  lvGnt : Bool := false
  /-- Class for which the matrix engine asks, or holds, leave for the wave's accepted commands after a pre-emption; 0 for none (R326, R383). -/
  engCls : Nat := 0
  /-- The engine holds it. -/
  engGnt : Bool := false
  /-- The newest tokens, newest first, at most 32 (R142, R146). -/
  tokens : List Token := []
  /-- Tokens spilled to the token area (R146). -/
  spilled : Nat := 0
  /-- Token depth at handler entry (R149). -/
  entryDepth : Nat := 0
  /-- FCALL frame (R209). -/
  frame : Option FFrame := none
  /-- Searches of an `fcall` that has not retired (R215). -/
  search : Option Searching := none
  /-- Vector loads and atomics outstanding (R170). -/
  vl : Nat := 0
  /-- Uniform loads outstanding (R170). -/
  wl : Nat := 0
  /-- Stores outstanding (R170). -/
  st : Nat := 0
  /-- Of those, the ones that wait only for owners of windows to acknowledge what they wrote: their places among what is issued (R246, R412). -/
  stOwed : List Nat := []
  /-- Engine commands outstanding (R170). -/
  ec : Nat := 0
  /-- Function-store operations outstanding (R170). -/
  fl : Nat := 0
  /-- Lane accesses issued and not performed, oldest first (R170, R377). -/
  inflight : List Flight := []
  /-- Pending deferred faults, oldest first (R375). -/
  faults : List Fault1 := []
  /-- NEXT (R333). -/
  next : Nat := 0
  /-- Transfers posted since the last `cseal` (R333). -/
  openBatch : List Nat := []
  /-- Sealed batches that are not complete (R333). -/
  sealed : List Batch := []
  /-- ARM bits (R333). -/
  arm : BitVec 16 := 0
  /-- DONE bits (R333). -/
  done : BitVec 16 := 0
  /-- Amx0-amx3 (R324). -/
  amx : List Word := [0, 0, 0, 0]
  /-- Commit buffer, oldest first (R197). -/
  buf : List BufOp := []
  /-- Its commit stopped at a `gstn` in this commit phase (R366). -/
  commitHeld : Bool := false
  /-- Why it stopped for the round (R195). -/
  stopped : Option Stop := none
  /-- The waiting instruction it is held at (R155). -/
  hold : Option Hold := none
  /-- In a deterministic grid: its turn has passed in a serial phase that waits for acknowledgements of other devices (R198, R279). -/
  tried : Bool := false
  /-- `gbar` phases passed (R194). -/
  gphase : Nat := 0
  /-- Arrived in the present `gbar` phase (R194). -/
  gArrived : Bool := false
  /-- In the active set (R153). -/
  active : Bool := false
  /-- Order of binding on its core (R190). -/
  age : Nat := 0
  /-- Issue clock of its core when it last issued or became active (R189). -/
  waitFrom : Nat := 0
  /-- Allocation rows holding an uncorrectable error (R379). -/
  badRows : List Nat := []
  /-- Latches holding an uncorrectable error (R379). -/
  badQ : List Nat := []
  /-- Saved latches holding one (R53, R379). -/
  badQSaved : List Nat := []
  /-- `cause` as its last trap wrote it (R432). -/
  trapCause : Word := 0
  /-- Trap PC of its last trap (R432). -/
  trapPc : Nat := 0
  /-- It has exited, or its grid was terminated (R127, R182). -/
  exited : Bool := false
  /-- `cid` of its core (R178). -/
  core : Nat := 0
  /-- Wave slot (R131, `place`). -/
  slot : Nat := 0
  /-- Its wave id, which `wid` reads (R178). -/
  wid : Nat := 0
  /-- Q of a deterministic grid, else 0; `stat`.DET (R132, R195). -/
  quant : Nat := 0
  /-- Its count has reached a multiple of Q in this round (R195). -/
  qDue : Bool := false
  deriving DecidableEq, Repr

/-- A crew and the state a core holds for it (R235, R332, R352), with its binding (R184). -/
structure Crew where
  /-- Local store (R235). -/
  ls : Mem := []
  /-- 128-byte lines of the local store not yet in the image (R239). -/
  lsDirty : List Nat := []
  /-- Local bytes holding an uncorrectable error (R379). -/
  lsBad : List Nat := []
  /-- R332. -/
  tags : BitVec 64 := 0
  /-- B0-b15 (R346). -/
  bars : List Bar := []
  /-- Sq0-sq3 (R348). -/
  streams : List Stream := []
  /-- Gv0-gv15 (R352). -/
  views : List View := []
  /-- Ws0-ws7 (R352). -/
  wsets : List WSet := []
  /-- Copies and grid transfers, in the order they opened (R338, R364). -/
  xfers : List Xfer := []
  /-- Its waves' matrix commands, saved by pre-emption, or waiting for room in the queue of its core (R327, R383). -/
  cmds : List MatCmd := []
  /-- `cid` of the core it is bound to. -/
  core : Nat := 0
  /-- W. -/
  waves : Nat := 0
  /-- L, the `.local` size. -/
  lsLen : Nat := 0
  /-- T, the token area of a wave (R146). -/
  tokLen : Nat := 0
  /-- Local-store base in the core's local store (R184). -/
  lsBase : Nat := 0
  /-- First wave slot (R184). -/
  firstSlot : Nat := 0
  /-- First register row (R184). -/
  firstRow : Nat := 0
  /-- Address of its local-store image (R239). -/
  image : Nat := 0
  /-- Resident on its core. -/
  bound : Bool := false
  /-- Its last wave has exited. -/
  ended : Bool := false
  /-- Order of binding on the device (R187). -/
  order : Nat := 0
  deriving DecidableEq, Repr

/-- A core: its issue logic, L1, matrix queue, mapping table and translations (R153, R189, R228, R238, R327, R391). -/
structure Core where
  /-- Issue clocks. -/
  clock : Nat := 0
  /-- The wave that issued last (R189). -/
  last : Option WaveId := none
  /-- L1 by line number (R231). -/
  l1 : List (Nat × CLine) := []
  /-- Matrix queue, oldest first (R327). -/
  mq : List MatCmd := []
  /-- Entries of the mapping table that are not FREE (R238). -/
  map : List MapEntry := []
  /-- Translations (R391). -/
  tlb : List TlbEntry := []
  /-- Halted by a pre-emption request (R380). -/
  halted : Bool := false
  /-- Age of the next wave bound (R190). -/
  nextAge : Nat := 0
  deriving DecidableEq, Repr

/-- A grid (R177, R181-R187, R194, R195): its launch record and what the steward knows of it. -/
structure Grid where
  /-- Its context. -/
  ctx : Nat := 0
  /-- Die whose steward copied its record. -/
  die : Nat := 0
  /-- Launch queue it came through; none for the device queue. -/
  queue : Option Nat := none
  /-- The copied launch record (R181). -/
  lrec : List Byte := []
  /-- Order in which its record was copied. -/
  order : Nat := 0
  /-- STATUS (R182). -/
  status : Nat := 0
  /-- CAUSE (R182). -/
  cause : Word := 0
  /-- TPC (R182). -/
  tpc : Nat := 0
  /-- WID (R182). -/
  wid : Nat := 0
  /-- Terminated, its record not yet written. -/
  ending : Bool := false
  /-- Its completion record is written, or could not be. -/
  ended : Bool := false
  /-- Kernel entry of the bound variant. -/
  entry : Nat := 0
  /-- Number of the bound variant in the image's variant table (R188). -/
  variant : Nat := 0
  /-- Address of the bound variant's code in the image (R35, R184). -/
  codeAt : Nat := 0
  /-- Address of its data in the image. -/
  dataAt : Nat := 0
  /-- Dependences already met, by number (R183). -/
  metDeps : List Nat := []
  /-- Cores that its crews have been bound to (R269, R277). -/
  cores : List Nat := []
  /-- Allocation rows of a wave. -/
  rows : Nat := 0
  /-- W. -/
  nWaves : Nat := 1
  /-- L. -/
  lsLen : Nat := 0
  /-- Lowest crew number never bound. -/
  nextCrew : Nat := 0
  /-- Crews saved by pre-emption, to be bound again. -/
  saved : List Nat := []
  /-- Deterministic rounds completed. -/
  round : Nat := 0
  /-- Counters of its context's functions as the last commit phase left them (R217). -/
  fsSeen : List (Nat × List Nat) := []
  deriving DecidableEq, Repr

/-- A context: page tables, quota and save area, function entries and session table (R200, R282, R290, R386). -/
structure Ctx where
  /-- Physical address of T3. -/
  root : Nat := 0
  /-- Table key id. -/
  tkey : Nat := 0
  /-- Frame quota Qf. -/
  quota : Nat := 0
  /-- Physical address of the accumulation save area. -/
  saveArea : Nat := 0
  /-- Save-area slots in use. -/
  slots : List Nat := []
  /-- Key ids of its pages, the table key id apart (R396, R397). -/
  keyIds : List Nat := []
  /-- Defined function entries. -/
  fids : List (Nat × FEntry) := []
  /-- Session entries ever used. -/
  sessions : List (Nat × Session) := []
  /-- When its last crew was unbound (R291). -/
  unboundAt : Nat := 0
  deriving DecidableEq, Repr

/-- A die: its boot and its steward's queues (R179, R192, R428). -/
structure Die where
  /-- The boot ROM has finished. -/
  booted : Bool := false
  /-- Step reached, or the failed step. -/
  bootStep : Nat := 0
  /-- A check of the boot failed. -/
  halted : Bool := false
  /-- Defect map (R429). -/
  defects : List Byte := []
  /-- Registered launch queues (R179). -/
  queues : List (Nat × LQueue) := []
  /-- Device queue: context and launch record, oldest first (R192). -/
  devq : List (Nat × List Byte) := []
  deriving DecidableEq, Repr

/-- A sector's steward of power leave (R426, R427). -/
structure Sector where
  /-- Hottest junction temperature, degrees C. -/
  temp : Nat := 25
  /-- Charged requests waiting, oldest first: wave and class; 8 more than the class for one of the matrix engine (R326). -/
  reqs : List (WaveId × Nat) := []
  deriving DecidableEq, Repr

/-- A device link (R413, R414). -/
structure Link where
  /-- SEQ of the next flit sent. -/
  seq : Nat := 0
  /-- Fabric device at its other end. -/
  dev : Nat := 0
  /-- Unacknowledged flits kept, oldest first. -/
  sent : List Flit := []
  /-- SEQ expected next. -/
  expect : Nat := 0
  /-- Flits passed to the transaction layer. -/
  taken : Nat := 0
  /-- The SEQ last asked for again. -/
  again : Option Nat := none
  /-- Failed resends of it. -/
  resends : Nat := 0
  /-- The retry request sent, until a flit comes in order. -/
  request : Option Flit := none
  /-- The link retrains. -/
  training : Bool := false
  /-- It carries flits once die 0 has brought the links up (R428). -/
  up : Bool := true
  deriving DecidableEq, Repr

/-- A fabric device as this device knows it (R411, R412, R417). -/
structure Peer where
  /-- It is in the fabric domain. -/
  inDomain : Bool := false
  /-- Heartbeats missed in a row. -/
  missed : Nat := 0
  /-- Its heartbeat has come in this period. -/
  beatSeen : Bool := false
  /-- Declared dead, its links fenced. -/
  dead : Bool := false
  /-- Its write and arrival transactions performed. -/
  doneTxn : List Nat := []
  /-- Old values of its latest 1024 atomics, newest first. -/
  atomics : List (Nat × Nat) := []
  deriving DecidableEq, Repr

/-- The device, and the model's own fields. -/
structure State where
  /-- Waves. -/
  waves : List (WaveId × Wave) := []
  /-- Crews. -/
  crews : List (CrewId × Crew) := []
  /-- Cores by `cid`; an absent core is idle. -/
  cores : List (Nat × Core) := []
  /-- Grids by handle. -/
  grids : List (Nat × Grid) := []
  /-- Contexts. -/
  ctxs : List (Nat × Ctx) := []
  /-- Device memory as last written back (R228). -/
  hbm : Mem := []
  /-- Memory of the system range (R229). -/
  sysMem : Mem := []
  /-- Key instance an HBM line is stored under (R396). -/
  lineKey : List (Nat × Nat) := []
  /-- Bytes dirty at their home slice (R228). -/
  llc : List (Nat × Byte) := []
  /-- Key id of a line's dirty bytes (R396). -/
  llcKey : List (Nat × Nat) := []
  /-- L2 by gang and line number (R231). -/
  l2 : List ((Nat × Nat) × CLine) := []
  /-- Local copies by sector and line number (R401). -/
  sc : List ((Nat × Nat) × CLine) := []
  /-- Bytes holding an uncorrectable error (R230). -/
  bad : List Nat := []
  /-- Directory entries that are not zero (R402). -/
  dirs : List (Nat × BitVec 48) := []
  /-- The host's hold on a 64-byte half of device memory: 0 I, 1 S, 2 E, 3 M, and its bytes (R408, R421); for a line of the system range
  the device's own hold, without bytes (R409, R412). -/
  hostHalf : List (Nat × (Nat × List Byte)) := []
  /-- Slice-table entries that differ from reset (R234). -/
  sliceTab : List (Nat × (Bool × Nat)) := []
  /-- Host window table: GiB and key id (R407). -/
  hostWin : List (Nat × Nat) := []
  /-- Fabric window table: GiB and key id (R411). -/
  fabWin : List (Nat × Nat) := []
  /-- Lines a fabric device holds exclusively, and the name of its hold (R402, R412). -/
  remoteX : List (Nat × Nat) := []
  /-- Lines whose last seal was BROKEN (R294). -/
  brokenLines : List Nat := []
  /-- Translations of the gangs (R391). -/
  gangTlb : List (Nat × List TlbEntry) := []
  /-- Walker caches of the sectors (R391). -/
  walkTlb : List (Nat × List WalkEntry) := []
  /-- Answers to the host's CXL.mem requests, newest first: data, error status, poison (R407, R410). -/
  hostReply : List (List Byte × Bool × Bool) := []
  /-- Number of the next remote transaction (R412). -/
  nextTxn : Nat := 0
  /-- Writes and arrivals sent to other devices that are not acknowledged (R295, R412). -/
  openTxn : List OpenTxn := []
  /-- Lines in windows that hold bytes not sent to their owner yet: line, and wave, origin and address of an access that wrote them (R411). -/
  peerWriters : List (Nat × WaveId × Nat × Nat) := []
  /-- LIVE key slots (stack * 256 + key id) and their key's instance (R396). -/
  keys : List (Nat × Nat) := []
  /-- Frames by line number (R285). -/
  frames : List (Nat × Frame) := []
  /-- Posted arrivals, oldest first (R295). -/
  arrivals : List Arrival := []
  /-- Numbers used on each source-to-slice channel (R295). -/
  chanNum : List ((Nat × Nat) × Nat) := []
  /-- High-water marks of the slices (R295). -/
  hwm : List ((Nat × Nat) × Nat) := []
  /-- Function-store buckets by context, FID and number (R205). -/
  buckets : List ((Nat × Nat × Nat) × Bucket) := []
  /-- GEN of a context's FID at a store (R214). -/
  storeGen : List ((Nat × Nat × Nat) × Nat) := []
  /-- Insert count of a store (R203). -/
  fsCount : List (Nat × Nat) := []
  /-- Posted function-store operations, oldest first (R212). -/
  fsOps : List FsOp := []
  /-- Sectors by 3 * die + sector. -/
  sectors : List (Nat × Sector) := []
  /-- Dies. -/
  dies : List (Nat × Die) := []
  /-- Context and SIGOUT addresses marked failed (R182). -/
  failed : List (Nat × Nat) := []
  /-- Error interrupts raised toward the host: die and queue (R179). -/
  errIrqs : List (Nat × Nat) := []
  /-- Device links. -/
  links : List (Nat × Link) := []
  /-- Fabric devices. -/
  peers : List (Nat × Peer) := []
  /-- This device's number in the domain (R411). -/
  self : Nat := 0
  /-- Heartbeats sent (R417). -/
  beats : Nat := 0
  /-- Read-duplicated blocks that have collapsed: the block's address in this device's replica, the owner, its address there, and the context
  (R415, R416). -/
  replicas : List (Nat × Nat × Nat × Nat) := []
  /-- Read-duplicated pages of this device by physical address, the device that created the set, and the context (R416, R419). -/
  creators : List (Nat × Nat × Nat) := []
  /-- Read-duplicated leaves written into a table that no table leads to yet: the entry's address, the page's, the device that created the set, and
  the context (R395, R415). -/
  newSets : List (Nat × Nat × Nat × Nat) := []
  /-- Crews a pre-emption request names and that are not saved yet (R380). -/
  preempting : List CrewId := []
  /-- Public identity key (R430). -/
  identity : List Byte := []
  /-- Private identity key, in the steward of die 0 (R430). -/
  identityKey : List Byte := []
  /-- Measurements of the last boot (R431). -/
  measured : List (List Byte) := []
  /-- SPDM session whose key exchange is in progress (R431). -/
  keyExchange : Option Nat := none
  /-- SPDM requests that wait for it to end, oldest first: kind and session. -/
  spdm : List (Nat × Nat) := []
  /-- SPDM answers, newest first: session, measurements and signature. -/
  attested : List (Nat × List (List Byte) × List Byte) := []
  /-- SPDM sessions whose IDE keys are set, with the key (R406, R431). -/
  secure : List (Nat × List Byte) := []
  /-- The module is running (R426). -/
  moduleUp : Bool := true
  /-- Faults reported by the management port (R426, R428). -/
  portFault : List Nat := []
  /-- Handle of the next grid. -/
  nextGrid : Nat := 1
  /-- Name of the next transfer, arrival group, record or key instance. -/
  nextUid : Nat := 1
  /-- Model's own: the wave whose instruction executes. -/
  cur : WaveId := ⟨0, 0⟩
  /-- Model's own: moves still to come (log 2). -/
  agenda : List Move := []
  /-- Model's own: free choices made (log 2). -/
  tick : Nat := 0
  deriving DecidableEq, Repr

/-- The one way a step stops the machine. -/
inductive Fault where
  /-- Raised by `step` when the module has shut down (R426) and the move is not a power-on: no agent acts. Safe: nothing runs
  in a module that is off. -/
  | moduleDown
  deriving DecidableEq, Repr

/-- Instructions without a meaning. -/
inductive Refusal where
  /-- Raised by `exec` for an instruction not modelled yet, by its mnemonic. Safe: the machine does not go on. -/
  | notModelled (mnemonic : String)
  deriving DecidableEq, Repr

/-- The device right after reset: no context, grid or wave; caches, frames and function stores empty (R428); the slice table at
its reset values (R234); no die booted, so neither the host port nor a link is up (R428). -/
def State.reset : State := {}

end Sys2Proof.Machine
end

