-- ==== Sys2Proof/Machine/Ops.lean ====
section
/-! DEFINITION. The named operations every instruction shares: reading and replacing a part of the state, retiring, shifting
the latches, the token stack, ending a wave or a grid, taking an exception and returning from one. -/

namespace Sys2Proof.Machine

/-- The outcome of an instruction or an event. -/
abbrev Out := Host.Outcome State Fault Refusal

/-! ### Parts of the state -/

/-- A wave by its name. -/
def State.wv (s : State) (id : WaveId) : Wave := (aget s.waves id).getD {}
/-- The state with a wave replaced. -/
def State.setWv (s : State) (id : WaveId) (w : Wave) : State := { s with waves := aput s.waves id w }
/-- The wave whose instruction executes. -/
def State.w (s : State) : Wave := s.wv s.cur
/-- The state with that wave replaced. -/
def State.setW (s : State) (w : Wave) : State := s.setWv s.cur w
/-- The state with that wave changed. -/
def State.modW (s : State) (f : Wave → Wave) : State := s.setW (f s.w)
/-- The state with a wave changed. -/
def State.modWv (s : State) (id : WaveId) (f : Wave → Wave) : State := s.setWv id (f (s.wv id))
/-- A grid by its handle. -/
def State.gridOf (s : State) (g : Nat) : Grid := (aget s.grids g).getD {}
/-- The state with a grid replaced. -/
def State.setGrid (s : State) (g : Nat) (x : Grid) : State := { s with grids := aput s.grids g x }
/-- The grid of the wave that executes. -/
def State.g (s : State) : Grid := s.gridOf s.cur.g
/-- The crew a wave belongs to (R178). -/
def State.crewId (s : State) (id : WaveId) : CrewId := ⟨id.g, id.w / max 1 (s.gridOf id.g).nWaves⟩
/-- A crew by its name. -/
def State.crewOf (s : State) (c : CrewId) : Crew := (aget s.crews c).getD {}
/-- The state with a crew replaced. -/
def State.setCrew (s : State) (c : CrewId) (x : Crew) : State := { s with crews := aput s.crews c x }
/-- The state with a crew changed. -/
def State.modCrew (s : State) (c : CrewId) (f : Crew → Crew) : State := s.setCrew c (f (s.crewOf c))
/-- The name of the executing wave's crew. -/
def State.ci (s : State) : CrewId := s.crewId s.cur
/-- The executing wave's crew. -/
def State.cr (s : State) : Crew := s.crewOf s.ci
/-- The state with that crew changed. -/
def State.modCr (s : State) (f : Crew → Crew) : State := s.modCrew s.ci f
/-- A core by its `cid`. -/
def State.coreOf (s : State) (c : Nat) : Core := (aget s.cores c).getD {}
/-- The state with a core replaced. -/
def State.setCore (s : State) (c : Nat) (x : Core) : State := { s with cores := aput s.cores c x }
/-- The state with a core changed. -/
def State.modCore (s : State) (c : Nat) (f : Core → Core) : State := s.setCore c (f (s.coreOf c))
/-- A context by its number. -/
def State.ctxOf (s : State) (c : Nat) : Ctx := (aget s.ctxs c).getD {}
/-- The state with a context replaced. -/
def State.setCtx (s : State) (c : Nat) (x : Ctx) : State := { s with ctxs := aput s.ctxs c x }
/-- The context number of a grid. -/
def State.ctxN (s : State) (g : Nat) : Nat := (s.gridOf g).ctx
/-- A die by its number. -/
def State.dieOf (s : State) (d : Nat) : Die := (aget s.dies d).getD {}
/-- The state with a die changed. -/
def State.modDie (s : State) (d : Nat) (f : Die → Die) : State := { s with dies := aput s.dies d (f (s.dieOf d)) }

/-! ### A wave -/

/-- The grid runs in deterministic mode (R132, R195). -/
def Wave.det (w : Wave) : Bool := w.quant != 0
/-- A wave register. -/
def Wave.wr (w : Wave) (n : Nat) : Word := w.w.getD n 0
/-- The wave with a wave register written. -/
def Wave.setWr (w : Wave) (n : Nat) (x : Word) : Wave := { w with w := setAt 0 w.w n x }
/-- A wave pair, low word in the even register (R10). -/
def Wave.wr2 (w : Wave) (n : Nat) : BitVec 64 := w.wr (n + 1) ++ w.wr n
/-- The wave with a wave pair written. -/
def Wave.setWr2 (w : Wave) (n : Nat) (x : BitVec 64) : Wave :=
  (w.setWr n (x.extractLsb' 0 32)).setWr (n + 1) (x.extractLsb' 32 32)
/-- Bit t of a mask of three beats in wave registers n, n+1 and n+2 (R139, R157). -/
def Wave.bit3 (w : Wave) (n t : Nat) : Bool := (w.wr (n + t / 32)).getLsbD (t % 32)
/-- The activity bit of thread t (R139, R141). -/
def Wave.act (w : Wave) (t : Nat) : Bool := t < threads && w.bit3 61 t
/-- The active threads in ascending order. -/
def Wave.actives (w : Wave) : List Nat := (List.range threads).filter w.act
/-- The word of beat `b` with a bit for every thread that satisfies `p`. -/
def maskWord (b : Nat) (p : Nat → Bool) : Word :=
  BitVec.ofNat 32 ((List.range 32).foldl (fun m l => if p (32 * b + l) then m + 2 ^ l else m) 0)
/-- The wave with the activity mask written (R141). -/
def Wave.setMask (w : Wave) (m0 m1 m2 : Word) : Wave := ((w.setWr 61 m0).setWr 62 m1).setWr 63 m2
/-- The mask is all zero. -/
def Wave.idle (w : Wave) : Bool := w.wr 61 == 0 && w.wr 62 == 0 && w.wr 63 == 0

/-- The latches shifted, `row` entering q0 (R51, R52). -/
def Wave.shiftQ (w : Wave) (row : Row) : Wave :=
  { w with q := row :: w.q.take 7, badQ := (w.badQ.map (· + 1)).filter (· < 8) }

/-- The wave with its latches all zero (R53, R156). -/
def Wave.clearQ (w : Wave) : Wave := { w with q := List.replicate 8 zeroRow, badQ := [] }

/-- The instruction retires and the wave goes on at an address: a user-mode retirement is counted, and in a deterministic grid
the round may be over (R16, R20, R195). -/
def Wave.retireTo (w : Wave) (pc : BitVec 49) : Wave :=
  if w.sup then { w with pc := pc, hold := none }
  else { w with pc := pc, hold := none, count := w.count + 1,
                qDue := w.qDue || (w.det && (w.count + 1).toNat % w.quant == 0) }

/-- The instruction retires and PC advances by its length (R16). -/
def Wave.retire (w : Wave) (len : Nat := 4) : Wave := w.retireTo (w.pc + BitVec.ofNat 49 len)

/-- A yielding instruction retires: in a deterministic grid it clears the latches (R156). -/
def Wave.retireYield (w : Wave) : Wave := if w.det then w.clearQ.retire else w.retire

/-- Power leave lapses, that of the engine for the wave's commands with it (R138, R326). -/
def Wave.dropLeave (w : Wave) : Wave := { w with lvCls := 0, lvGnt := false, engCls := 0, engGnt := false }

/-- The depth of the token stack (R146). -/
def Wave.depth (w : Wave) : Nat := w.tokens.length + w.spilled

/-! ### Traps -/

/-- What a precise trap records (R369): class, subclass, code, the address for `tvall`/`tvalh`, for a floating-point trap the
masks and the reported thread, and the trap PC where it is not PC. -/
structure Trap where
  cls : Nat
  sub : Nat := 0
  code : Nat := 0
  tval : Option Nat := none
  fp : Option (Word × Word × Word × Word) := none
  epc : Option (BitVec 49) := none
  deriving DecidableEq, Repr

/-- Illegal state (R370). -/
def Trap.state (sub : Nat) : Trap := { cls := 0x02, sub := sub }
/-- A precise translation fault of a kind at an address (R371, R394). -/
def Trap.xlat (kind addr : Nat) : Trap := { cls := 0x06, sub := kind, tval := some addr }
/-- An accumulation fault at an address (R297). -/
def Trap.acc (sub addr : Nat) : Trap := { cls := 0x05, sub := sub, tval := some addr }

/-- The `cause` of a trap (R133). -/
def Trap.cause (t : Trap) : Word := BitVec.ofNat 32 (t.cls % 256 * 2 ^ 24 + t.sub % 256 * 2 ^ 16 + t.code % 128)

/-- The handler entry (R131). -/
def Wave.tvec (w : Wave) : BitVec 49 := BitVec.ofNat 49 (w.tvecl.toNat + w.tvech.toNat * 2 ^ 32)

/-- The address a return goes to (R131, R134). -/
def Wave.epc (w : Wave) : BitVec 49 := BitVec.ofNat 49 (w.epcl.toNat + w.epch.toNat * 2 ^ 32)

/-- The registers a trap writes: cause, trap PC, address and masks (R131, R369, R374); cause and PC also stand apart, out of the
handler's reach (R432). -/
def Wave.record (w : Wave) (t : Trap) : Wave :=
  let e := t.epc.getD w.pc
  { w with
    cause := t.cause
    epcl := BitVec.ofNat 32 e.toNat
    epch := BitVec.ofNat 32 (e.toNat / 2 ^ 32)
    trapCause := t.cause
    trapPc := e.toNat
    tvall := match t.tval with | some a => BitVec.ofNat 32 a | none => w.tvall
    tvalh := match t.tval with | some a => BitVec.ofNat 32 (a / 2 ^ 32) | none => w.tvalh
    tmask0 := match t.fp with | some p => p.1 | none => w.tmask0
    tmask1 := match t.fp with | some p => p.2.1 | none => w.tmask1
    tmask2 := match t.fp with | some p => p.2.2.1 | none => w.tmask2
    tlane := match t.fp with | some p => p.2.2.2 | none => w.tlane }

/-- The wave in its handler: the trap recorded, the latches saved, the mode supervisor, and PC at the handler entry (R22, R134). -/
def Wave.enter (w : Wave) (t : Trap) : Wave :=
  { w.record t with sup := true, qSaved := w.q, badQSaved := w.badQ, entryDepth := w.depth, hold := none, search := none, pc := w.tvec }

/-! ### Ending a wave or a grid -/

/-- A wave that runs no more (R127, R182, R215). Its outstanding work and its commit buffer stay until they are performed. -/
def Wave.stop (w : Wave) : Wave :=
  { w.dropLeave with exited := true, active := false, hold := none, search := none, frame := none, tokens := [], spilled := 0 }

/-- A crew of a grid's context leaves its core; the stamp orders contexts by when that last happened (R291). -/
def State.stampCtx (s : State) (g : Nat) : State :=
  let n := s.ctxN g
  { s with nextUid := s.nextUid + 1 }.setCtx n { s.ctxOf n with unboundAt := s.nextUid }

/-- The resources of a crew are released: its mapping-table entry is FREE and its image is released (R127, R238, R240), and a
copy still gathering slices is discarded (R338); a transfer whose push waits has nobody left to wait for and
goes (log 22); commands that pre-emption had saved stay, for its core's engine to take (R182, R327). -/
def State.releaseCrew (s : State) (c : CrewId) : State :=
  let x := s.crewOf c
  let s := s.modCore x.core (fun k => { k with map := k.map.filter (fun e => e.crew ≠ c) })
  let s := if x.bound then s.stampCtx c.g else s
  s.setCrew c { x with bound := false, ended := true, xfers := x.xfers.filter (fun y => y.started && y.stage = 0) }

/-- The waves of a grid that have not exited. -/
def State.live (s : State) (g : Nat) : List WaveId := (s.waves.filter (fun p => p.1.g = g && !p.2.exited)).map (·.1)

/-- The waves of a crew that have not exited. -/
def State.liveCrew (s : State) (c : CrewId) : List WaveId := (s.live c.g).filter (fun i => s.crewId i = c)

/-- A wave ends; its crew ends with its last wave (R127). -/
def State.endWave (s : State) (id : WaveId) : State :=
  let s := s.modWv id Wave.stop
  if (s.liveCrew (s.crewId id)).isEmpty then s.releaseCrew (s.crewId id) else s

/-- The crews of a grid that have been bound. -/
def State.crewsOf (s : State) (g : Nat) : List CrewId := (s.crews.filter (fun p => p.1.g = g)).map (·.1)

/-- A grid is terminated: its waves halt, and its completion record will carry these values (R22, R182, R432). -/
def State.terminate (s : State) (g status : Nat) (cause : Word) (tpc wid : Nat) : State :=
  let x := s.gridOf g
  if x.ending || x.ended then s
  else
    let s := s.setGrid g { x with status := status, cause := cause, tpc := tpc, wid := wid, ending := true }
    let s := { s with waves := s.waves.map (fun (p : WaveId × Wave) => if p.1.g = g then (p.1, p.2.stop) else p) }
    (s.crewsOf g).foldl State.releaseCrew s

/-- A trap is taken (R22, R134, R135): in user mode the wave enters its handler, or its grid is terminated when there is none;
in supervisor mode the grid is terminated with CLASS 0x0A. -/
def State.trap (s : State) (t : Trap) : State :=
  let w := s.w
  let e := (t.epc.getD w.pc).toNat
  if w.sup then
    s.terminate s.cur.g 0x0001 (Trap.cause { cls := 0x0A, sub := t.cls }) e s.cur.w
  else if w.tvec = 0 then (s.setW (w.record t)).terminate s.cur.g 0x0001 t.cause e s.cur.w
  else s.setW (w.enter t)

/-- Return from a handler (R134, R149): in user mode illegal state 0x02; with another token depth than at entry illegal state
0x16; otherwise the latches are restored, the mode is user and PC is the trap PC. -/
def State.eret (s : State) : State :=
  let w := s.w
  if !w.sup then s.trap (.state 0x02)
  else if w.depth ≠ w.entryDepth then s.trap (.state 0x16)
  else s.setW { w with q := w.qSaved, badQ := w.badQSaved, sup := false, pc := w.epc }

/-- The executing wave's deferred fault at its own instruction, raised by a release: the kind and the line's address (R256, R271, R394). -/
def Trap.release (f : Nat × Nat) : Trap := { cls := 0x07, sub := 5 * 32 + f.1, tval := some f.2 }

/-- The deferred not-present fault of an access that the owner of a window refused, raised at the instruction that makes it (R371, R411, log 60). -/
def Trap.refused (va : Nat) : Trap := { cls := 0x07, sub := 1 * 32 + 0x01, tval := some va }

/-- A deferred fault joins the queue of its wave (R375): the issuing wave; if it has exited, the lowest live wave of its crew;
if the crew has none, the grid is terminated. -/
def State.postFault (s : State) (id : WaveId) (f : Fault1) : State :=
  if !(s.wv id).exited then s.modWv id (fun w => { w with faults := w.faults ++ [f] })
  else
    match (s.liveCrew (s.crewId id)).foldl
        (fun m i => match m with | none => some i | some j => if i.w < j.w then some i else some j) none with
    | some j => s.modWv j (fun w => { w with faults := w.faults ++ [f] })
    | none => s.terminate id.g 0x0001 (Trap.cause { cls := f.cls, sub := f.sub }) 0 id.w

/-! ### The token stack (R142-R149) -/

/-- Local-store offset of the spilled token at depth j of wave k of a crew (R146). -/
def Crew.tokAt (c : Crew) (k j : Nat) : Nat := c.lsLen + k * c.tokLen + 32 * j

/-- The 32 bytes of a spilled token (R147). -/
def Token.image (t : Token) : List Byte :=
  leBytes 4 t.m0.toNat ++ leBytes 4 t.m1.toNat ++ leBytes 4 t.m2.toNat ++ leBytes 4 t.kind ++ leBytes 8 t.addr ++ leBytes 8 0

/-- A spilled token as its bytes stand. -/
def Crew.tokRead (c : Crew) (a : Nat) : Token :=
  let n := fun o k => leNat (c.ls.read (a + o) k)
  ⟨n 12 4, n 16 8, BitVec.ofNat 32 (n 0 4), BitVec.ofNat 32 (n 4 4), BitVec.ofNat 32 (n 8 4)⟩

/-- A spilled token is well formed (R147). -/
def Crew.tokOk (c : Crew) (a : Nat) : Bool :=
  let t := c.tokRead a
  t.kind < 3 && t.addr < 2 ^ 49 && t.addr % 4 == 0 && leNat (c.ls.read (a + 24) 8) == 0

/-- The executing wave's index in its crew. -/
def State.crewIdx (s : State) : Nat := s.cur.w % max 1 s.g.nWaves

/-- A token is pushed; the oldest of more than 32 is spilled (R146, R147). None when the stack is full. -/
def State.push (s : State) (t : Token) : Option State :=
  let w := s.w
  let c := s.cr
  if w.depth ≥ 32 + c.tokLen / 32 then none
  else if w.tokens.length < 32 then some (s.setW { w with tokens := t :: w.tokens })
  else
    let all := t :: w.tokens
    let old := all.getD 32 t
    let s := s.setW { w with tokens := all.take 32, spilled := w.spilled + 1 }
    some (s.modCr (fun c =>
      let a := c.tokAt s.crewIdx w.spilled
      { c with ls := c.ls.write a old.image, lsBad := c.lsBad.filter (fun x => x < a || a + 32 ≤ x) }))

/-- A byte of a spilled token holds an uncorrectable error (R230). -/
def Crew.tokBad (c : Crew) (a : Nat) : Bool := c.lsBad.any (fun x => a ≤ x && x < a + 32)

/-- The data-error fault of the instruction that reads a spilled token (R230, R379), with the token's local-store offset (log 73). -/
def Trap.tokBad (a : Nat) : Trap := .xlat 0x06 a

/-- The top token and the state without it (R144, R152, R147); the trap when there is none, when its image holds an uncorrectable error, or when it is
malformed. A token leaves the stack in no other way, but for the end of its wave. -/
def State.pop (s : State) : Except Trap (Token × State) :=
  let w := s.w
  match w.tokens with
  | t :: ts => .ok (t, s.setW { w with tokens := ts })
  | [] =>
    if w.spilled = 0 then .error (.state 0x11)
    else
      let a := s.cr.tokAt s.crewIdx (w.spilled - 1)
      if s.cr.tokBad a then .error (.tokBad a)
      else if s.cr.tokOk a then .ok (s.cr.tokRead a, s.setW { w with spilled := w.spilled - 1 }) else .error (.state 0x15)

end Sys2Proof.Machine
end

