-- ==== Sys2Proof/Machine/Home.lean ====
section
/-! DEFINITION. The home of a physical line: its slice, the bytes the slice holds over HBM or over the system range, per-owner
encryption, the host's halves and the sectors' local copies (R229, R233, R396, R401-R403, R408, R409). A line is named by
address / 128. -/

namespace Sys2Proof.Machine

/-- The first address past device memory (R229). -/
abbrev deviceEnd : Nat := 0xC000000000

/-- A line of the system range (R229). -/
def isSysLine (ln : Nat) : Bool := 2 ^ 44 ≤ ln

/-- The fabric device whose window holds a system address (R411). -/
def windowOf (pa : Nat) : Option Nat :=
  if bits pa 51 48 == 0xC && pa % 2 ^ 44 < deviceEnd then some (bits pa 47 44) else none

/-- The HBM stack of a device-memory line (R229). -/
def stackOf (ln : Nat) : Nat := ln / 32 % 12

/-- The bucket of a line (R233). -/
def bucketOf (ln : Nat) : Nat :=
  let pa := ln * 128
  bits pa 18 7 ^^^ bits pa 30 19 ^^^ bits pa 42 31 ^^^ bits pa 51 43

/-- The home slice of a bucket: its slice-table entry, or the reset value (R234). -/
def State.sliceOfBucket (s : State) (b : Nat) : Nat := match aget s.sliceTab b with | some e => e.2 | none => 3 * b / 64

/-- The home slice of a line (R233). -/
def State.sliceOf (s : State) (ln : Nat) : Nat := s.sliceOfBucket (bucketOf ln)

/-- The sector, counted over the device, that holds a line's home slice. -/
def State.homeSector (s : State) (ln : Nat) : Nat := s.sliceOf ln / 16

/-- The sector of a core (R178). -/
def sectorOf (core : Nat) : Nat := core / 32

/-- The gang of a core (R178). -/
def gangOf (core : Nat) : Nat := core / 4

/-- The instance of a key in the slot of a line's stack (R396); none when the slot is EMPTY. -/
def State.keyInst (s : State) (ln key : Nat) : Option Nat := aget s.keys (stackOf ln * 256 + key)

/-- Bytes stored under one key instance and read under another (R396, log 6). -/
def viewLine (st rd : Option Nat) (ln : Nat) (bs : List Byte) : List Byte :=
  match st, rd with
  | some a, some b => if a = b then bs else tab 128 (fun i => Config.xts a b ln bs i)
  | _, _ => bs

/-- The slice holds a byte of the line dirty. -/
def State.homeDirty (s : State) (ln : Nat) : Bool := (aget s.llcKey ln).isSome

/-- The line as its slice holds it: the key instance it is under, and its bytes, the dirty ones over those of HBM. -/
def State.stored (s : State) (ln : Nat) : Option Nat × List Byte :=
  let st := aget s.lineKey ln
  let hb := s.hbm.read (ln * 128) 128
  match aget s.llcKey ln with
  | none => (st, hb)
  | some k =>
    let v := viewLine st (s.keyInst ln k) ln hb
    (s.keyInst ln k, tab 128 (fun i => (aget s.llc (ln * 128 + i)).getD (v.getD i 0)))

/-- One byte of HBM read under a key instance. -/
def State.hbmByte (s : State) (ln : Nat) (rd : Option Nat) (i : Nat) : Byte :=
  match aget s.lineKey ln, rd with
  | some a, some b =>
    if a = b then s.hbm.get (ln * 128 + i) else Config.xts a b ln (s.hbm.read (ln * 128) 128) i
  | _, _ => s.hbm.get (ln * 128 + i)

/-- A resident crew whose local-store image covers a line, and the line's offset in it (R239). -/
def State.imageAt (s : State) (ln : Nat) : Option (CrewId × Nat) :=
  s.crews.findSome? (fun p =>
    if p.2.bound && 0 < p.2.lsLen && p.2.image ≤ 128 * ln && 128 * ln < p.2.image + p.2.lsLen then some (p.1, 128 * ln - p.2.image) else none)

/-- An image line as the local store holds it, read under a key id: the image is under the context's table key (R239, log 30). -/
def State.imageBytes (s : State) (c : CrewId) (o ln key : Nat) : List Byte :=
  let k := (s.ctxOf (s.ctxN c.g)).tkey
  viewLine (s.keyInst ln k) (s.keyInst ln key) ln ((s.crewOf c).ls.read o 128)

/-- Bytes of an image line written under a key id, performed in the local store (R239). -/
def State.imagePut (s : State) (c : CrewId) (o ln key : Nat) (ws : List (Nat × Byte)) : State :=
  let k := (s.ctxOf (s.ctxN c.g)).tkey
  let bs := ws.foldl (fun m p => m.set p.1 p.2) (s.imageBytes c o ln key)
  s.modCrew c (fun x => { x with
    ls := x.ls.write o (viewLine (s.keyInst ln key) (s.keyInst ln k) ln bs)
    lsDirty := if x.lsDirty.contains (o / 128) then x.lsDirty else x.lsDirty ++ [o / 128]
    lsBad := x.lsBad.filter (fun a => !ws.any (fun p => o + p.1 = a)) })

/-- A byte of a line at its home, or in the local store whose image it is, holds an uncorrectable error (R230, R239, R379). -/
def State.homeBad (s : State) (ln i : Nat) : Bool :=
  match s.imageAt ln with
  | some (c, o) => (s.crewOf c).lsBad.contains (o + i)
  | none => s.bad.contains (128 * ln + i)

/-- Some byte of a physical range does. -/
def State.rangeBad (s : State) (pa n : Nat) : Bool := (List.range n).any (fun i => s.homeBad ((pa + i) / 128) ((pa + i) % 128))

/-- A session entry; one never used is FREE with sequence number 0 (R282). -/
def Ctx.session (c : Ctx) (i : Nat) : Session := (aget c.sessions i).getD ⟨0, 0, 0, 0, 0, false, 0, []⟩

/-- The handle of an entry (R282). -/
def Session.handle (e : Session) (i : Nat) : Nat := (e.seq * 4096 + i) % 2 ^ 32

/-- Where the image of a spilled frame stands (R290, R291). -/
def State.slotAt (s : State) (f : Frame) : Option Nat := f.spilled.map (fun slot => (s.ctxOf f.ctx).saveArea + 768 * slot)

/-- The image of the frame of a line (R292). -/
def State.frameImage (s : State) (ln : Nat) (f : Frame) : List Byte := f.image (ln * 128) (((s.ctxOf f.ctx).session f.idx).handle f.idx)

/-- A byte of the image of a spilled frame, where its line stands under the instance `st` of the frame's context's table key (R292). -/
def State.spillByte (s : State) (st : Option Nat) (pa : Nat) : Option Byte :=
  s.frames.findSome? (fun p => (s.slotAt p.2).bind (fun a =>
    if a ≤ pa && pa < a + 768 && st = s.keyInst (pa / 128) (s.ctxOf p.2.ctx).tkey then (s.frameImage p.1 p.2)[pa - a]? else none))

/-- The key instance under which the home has a line: that of its dirty bytes, or of what HBM stores. -/
def State.keyAt (s : State) (ln : Nat) : Option Nat :=
  match aget s.llcKey ln with
  | some k => s.keyInst ln k
  | none => aget s.lineKey ln

/-- The byte of a spilled frame's image that a read under another key id than its own gives: the image as it stands (R292, log 30). -/
def State.spillSeen (s : State) (ln key i : Nat) : Option Byte :=
  if s.keyAt ln = s.keyInst ln key then none else s.spillByte (s.keyAt ln) (ln * 128 + i)

/-- One byte of a line at its home slice, read under a key id (R396); an image line is served by the local store (R239), and the image of a
spilled frame is read as it stands (R292). -/
def State.homeByte (s : State) (ln key i : Nat) : Byte :=
  if isSysLine ln then (aget s.llc (ln * 128 + i)).getD (s.sysMem.get (ln * 128 + i))
  else match s.imageAt ln with
  | some (c, o) => (s.imageBytes c o ln key).getD i 0
  | none => match s.spillSeen ln key i with
    | some b => b
    | none =>
      match aget s.llcKey ln with
      | none => s.hbmByte ln (s.keyInst ln key) i
      | some k =>
        if k = key then (aget s.llc (ln * 128 + i)).getD (s.hbmByte ln (s.keyInst ln key) i)
        else (viewLine (s.stored ln).1 (s.keyInst ln key) ln (s.stored ln).2).getD i 0

/-- The key id of the GiB of a line in the host's or the fabric's window table, 0 for closed (R407, R411). -/
def winKey (wins : List (Nat × Nat)) (ln : Nat) : Nat := (aget wins (ln * 128 / 2 ^ 30)).getD 0

/-- The fabric device is in the domain and not fenced (R411, R417). -/
def State.reachable (s : State) (dev : Nat) : Bool :=
  match aget s.peers dev with | some p => p.inDomain && !p.dead | none => false

/-- Every die has finished its boot, after which die 0 has brought up the host port and the links: a die that failed a check, or has not run its
own, keeps them down (R428, log 71). -/
def State.portUp (s : State) : Bool := (List.range 4).all (fun d => (s.dieOf d).booted)

/-- The device has been declared dead, and its links are fenced (R417). -/
def State.buried (s : State) (dev : Nat) : Bool := match aget s.peers dev with | some p => p.dead | none => false

/-- The link that a flit for a device takes: none for one that is dead; the lowest-numbered one that is up and leads there, else the lowest that is
up and leads to a device that is not dead (R414, R417, log 26). -/
def State.route (s : State) (dev : Nat) : Option Nat :=
  let at_ := fun (k : Nat) => (aget s.links k).getD {}
  let up := (List.range 8).filter (fun k => s.portUp && (at_ k).up && (at_ k).dev < 16)
  if s.buried dev then none
  else (up.find? (fun k => (at_ k).dev = dev)).or (up.find? (fun k => s.reachable (at_ k).dev))

/-- A flit of a link: its CRC is over the header and the payload (R413). -/
def mkFlit (seq ack ty vc : Nat) (payload : List Byte) : Flit :=
  let body := tab 244 (fun i => payload.getD i 0)
  ⟨seq, ack, ty, vc, body, Config.crc64 (leBytes 4 (seq + ack * 2 ^ 12 + ty * 2 ^ 24 + vc * 2 ^ 28) ++ body)⟩

/-- The last SEQ received in order (R413). -/
def Link.lastSeq (x : Link) : Nat := (x.expect + 4095) % 4096

/-- A link with one more data flit sent, and kept, the last 1024, until it is acknowledged (R413, R414). -/
def Link.send (x : Link) (payload : List Byte) : Link :=
  { x with seq := (x.seq + 1) % 4096, sent := (x.sent ++ [mkFlit x.seq x.lastSeq 1 0 payload]).drop (x.sent.length + 1 - 1024) }

/-- The payload of a transaction (log 26): its number, the sending and the receiving device, the kind, the address, the length and the
bytes. Kinds up to 22 are those of `PEER_REMOTE_TRANSACTION`, and 7 is an arrival of an exact real; 0x80 answers one, with the code of the
rejection for a rejected arrival, 0x81 refuses one, 0x82 and 0x83 recall a remote copy for data
and to invalidate it. -/
def txnBytes (num src dev kind pa : Nat) (bs : List Byte) : List Byte :=
  leBytes 8 num ++ leBytes 1 src ++ leBytes 1 dev ++ leBytes 1 kind ++ leBytes 8 pa ++ leBytes 2 bs.length ++ bs

/-- A payload sent to a device on the link that leads there (R413). -/
def State.sendPayload (s : State) (dev : Nat) (pay : List Byte) : State :=
  match s.route dev with
  | none => s
  | some k => { s with links := aput s.links k (((aget s.links k).getD {}).send pay) }

/-- A transaction of this device sent to another (R412). -/
def State.sendTxn (s : State) (dev kind pa : Nat) (bs : List Byte) : State :=
  State.sendPayload { s with nextTxn := (s.nextTxn + 1) % 2 ^ 64 } dev (txnBytes s.nextTxn s.self dev kind pa bs)

/-- A write of this device sent to the owner of a window, open until the owner acknowledges it (R279, R412), for some writers (R411). -/
def State.sendWrite (s : State) (dev pa : Nat) (writers : List (WaveId × Nat × Nat)) (bs : List Byte) : State :=
  let x : OpenTxn := ⟨dev, s.nextTxn, pa, (s.route dev).getD 8, txnBytes s.nextTxn s.self dev 2 (pa % 2 ^ 44) bs, writers, [], none⟩
  State.sendTxn { s with openTxn := s.openTxn ++ [x] } dev 2 (pa % 2 ^ 44) bs

/-- The kind and the bytes of an arrival as a transaction: the kind 3 to 6 of its type and its code, or for an exact real the kind 7, its sign, its
exponent plus 2^15 and its magnitude (R412, log 26). -/
def AVal.payload : AVal → Nat × List Byte
  | .code ty v => (3 + ty, leBytes (tySize ty) v)
  | .real t => (7, leBytes 4 ((if t.neg then 1 else 0) + 2 * ((t.e + 2 ^ 15) % (2 ^ 31 : Nat)).toNat) ++ leBytes 16 t.m)

/-- An arrival to a line of a window sent to its owner (R295, R412), on whose answer its command waits. -/
def State.sendArrival (s : State) (dev : Nat) (a : Arrival) : State :=
  let (kind, bs) := a.val.payload
  let x : OpenTxn := ⟨dev, s.nextTxn, a.pa, (s.route dev).getD 8, txnBytes s.nextTxn s.self dev kind (a.pa % 2 ^ 44) bs, [], [], some a⟩
  State.sendTxn { s with openTxn := s.openTxn ++ [x] } dev kind (a.pa % 2 ^ 44) bs

/-- The arrivals that are posted, and not applied or rejected yet: those in this device, and those that their owners have not answered (R295,
R412). -/
def State.posted (s : State) : List Arrival := s.arrivals ++ s.openTxn.filterMap (·.arr)

/-- A write to another device is not acknowledged yet (R279, R412). -/
def State.unacked (s : State) : Bool := s.openTxn.any (fun t => t.arr.isNone)

/-- The writes opened after the first `n` are those of a store or a write-back of a wave: ST counts it until they are acknowledged (R170, R246). -/
def State.owing (s : State) (n : Nat) (id : WaveId) (seq : Nat) : State :=
  { s with openTxn := s.openTxn.take n ++ (s.openTxn.drop n).map (fun t => { t with sts := t.sts ++ [(id, seq)] }) }

/-- A store or a write-back of a wave has writes that are not acknowledged. -/
def State.owed (s : State) (id : WaveId) (seq : Nat) : Bool := s.openTxn.any (fun t => t.sts.contains (id, seq))

/-- The entry of `hostHalf` for a byte of a line: one for each half, but for a line in a peer's window the first alone (R409, R412). -/
def halfOf (ln i : Nat) : Nat := if (windowOf (ln * 128)).isSome then 2 * ln else 2 * ln + i / 64

/-- The device's own hold on a half is set. -/
def State.setHold (s : State) (half st : Nat) : State := { s with hostHalf := aput s.hostHalf half (st, []) }

/-- A line of a peer's window is asked of its owner, by a shared or an ownership read (R412): the bytes of the answer, which the owner's memory
gives, are free (log 60). -/
def State.askPeer (s : State) (d ln kind : Nat) : State :=
  { s.sendTxn d kind (128 * ln % 2 ^ 44) [] with
    sysMem := (List.range 128).foldl (fun m i => m.set (128 * ln + i) (Config.peerLine s.nextUid ln i)) s.sysMem, nextUid := s.nextUid + 1 }

/-- A half of a line of the system range is obtained for a read (state 1) or a write (3), from a hold of `old`, 0 for I: of the owner, where it
lies in a window (R412), of the host otherwise, which may grant E on a read (R409, log 61). -/
def State.obtain (s : State) (ln h old st : Nat) : State :=
  if st ≤ old then s
  else match windowOf (ln * 128) with
    | some d => (if old = 0 then s.askPeer d ln (if st = 1 then 0 else 1) else if old = 1 then s.sendTxn d 1 (128 * ln % 2 ^ 44) [] else s).setHold h st
    | none =>
      if st = 1 then State.setHold { s with nextUid := s.nextUid + 1 } h (if Config.hostGrantsE s.nextUid then 2 else 1)
      else s.setHold h st

/-- The device's own state of the halves that bytes of a line of the system range touch (R409): 0 I, 1 S, 3 M. -/
def State.markHalf (s : State) (ln : Nat) (is : List Nat) (st : Nat) : State :=
  is.foldl (fun s i =>
    let h := halfOf ln i
    if st = 0 then { s with hostHalf := adel s.hostHalf h }
    else s.obtain ln h (match aget s.hostHalf h with | some (old, _) => old | none => 0) st) s

/-- Of the halves of a line of the system range those in M become I (R409). -/
def State.releaseHalves (s : State) (ln : Nat) : State :=
  [0, 64].foldl (fun s i => match aget s.hostHalf (halfOf ln i) with
    | some (3, _) => { s with hostHalf := adel s.hostHalf (halfOf ln i) }
    | _ => s) s

/-- An access by a wave, with its origin and address, has written bytes of a line in a peer's window, which its owner may refuse when they reach it
(R411). -/
def State.wrote (s : State) (ln : Nat) (ids : List WaveId) (origin va : Nat) : State :=
  if (windowOf (ln * 128)).isNone then s
  else { s with peerWriters := s.peerWriters ++ ((ids.map (fun i => (ln, i, origin, va))).filter (fun p => !s.peerWriters.contains p)) }

/-- Bytes of the system range reach host memory, or the owner of the window over a link, a transaction for each half; a fenced owner takes nothing
(R409, R412, R418). -/
def State.toOwner (s : State) (ln : Nat) (ws : List (Nat × Byte)) : State :=
  match windowOf (ln * 128) with
  | none => { s with sysMem := ws.foldl (fun m p => m.set p.1 p.2) s.sysMem }
  | some d =>
    if ws.isEmpty || !s.reachable d then s
    else
      let by_ := (s.peerWriters.filter (fun p => p.1 = ln)).map (·.2)
      let s := { s with sysMem := ws.foldl (fun m (p : Nat × Byte) => m.set p.1 p.2) s.sysMem, peerWriters := s.peerWriters.filter (fun p => p.1 ≠ ln) }
      [0, 1].foldl (fun s h =>
        let part := ws.filter (fun p => p.1 % 128 / 64 = h)
        if part.isEmpty then s else s.sendWrite d (128 * ln) by_ (part.flatMap (fun p => leBytes 1 (p.1 % 128) ++ [p.2]))) s

/-- The slice writes its dirty bytes back and drops them (R228, R396); of a line of the system range the halves in M become I (R409). -/
def State.writeBack (s : State) (ln : Nat) : State :=
  match aget s.llcKey ln with
  | none => s
  | some _ =>
    let s' := { s with llc := s.llc.filter (fun p => p.1 / 128 ≠ ln), llcKey := adel s.llcKey ln }
    if isSysLine ln then (s'.toOwner ln (s.llc.filter (fun p => p.1 / 128 = ln))).releaseHalves ln
    else
      let (st, bs) := s.stored ln
      { s' with hbm := s.hbm.write (ln * 128) bs,
                lineKey := match st with | some k => aput s.lineKey ln k | none => s.lineKey }

/-- The slice discards its dirty bytes; the line is read from HBM, or from the host or the owner, again (R258). -/
def State.homeDiscard (s : State) (ln : Nat) : State :=
  let s := { s with llc := s.llc.filter (fun p => p.1 / 128 ≠ ln), llcKey := adel s.llcKey ln }
  if isSysLine ln then s.markHalf ln [0, 64] 0 else s

/-- The device's bytes of a half of a line of the system range go to host memory or the owner (R409). -/
def State.halfBack (s : State) (pa : Nat) : State :=
  let mine := fun (p : Nat × Byte) => p.1 / 64 = pa / 64
  let rest := s.llc.filter (fun p => !mine p)
  let s' := { s with llc := rest, llcKey := if rest.any (fun p => p.1 / 128 = pa / 128) then s.llcKey else adel s.llcKey (pa / 128) }
  s'.toOwner (pa / 128) (s.llc.filter mine)

/-- Bytes of a line made dirty at its slice; a copy under another key id is written back first (R396), the halves of a line of the system
range become M (R409), and the bytes lose any uncorrectable error (R379). -/
def State.slicePut (s : State) (ln key : Nat) (ws : List (Nat × Byte)) : State :=
  if ws.isEmpty then s
  else
    let s := match aget s.llcKey ln with | some k => if k = key then s else s.writeBack ln | none => s
    let s := if isSysLine ln then s.markHalf ln (ws.map (·.1)) 3 else s
    { s with llc := ws.foldl (fun m p => aput m (ln * 128 + p.1) p.2) s.llc, llcKey := aput s.llcKey ln key,
             bad := s.bad.filter (fun a => !(ws.any (fun p => ln * 128 + p.1 = a))) }

/-- The dirty bytes of a cached line. -/
def CLine.dirt (c : CLine) : List (Nat × Byte) :=
  (List.range 128).filterMap (fun i => match c.bytes.getD i .absent with | .dirty b => some (i, b) | _ => none)

/-- Lines of an LLC slice: 4 MiB (R228). -/
abbrev sliceLines : Nat := 32768

/-- The slice of a sector in which its local copy of a line stands (R401). -/
def State.copySlice (s : State) (sec ln : Nat) : Nat := 16 * sec + s.sliceOf ln % 16

/-- Room for one more line in an LLC slice: a full one writes a line back, or gives up a local copy, whose dirty bytes go home and on to
HBM, or for an image line to the local store (R228, R239, log 59). -/
def State.roomSlice (s : State) (sl : Nat) : State :=
  let own := (s.llcKey.filter (fun p => s.sliceOf p.1 = sl)).map (·.1)
  let copies := s.sc.filter (fun p => s.copySlice p.1.1 p.1.2 = sl)
  let n := own.length + copies.length
  if n < sliceLines then s
  else
    let v := Config.victim s.nextUid % n
    let s := { s with nextUid := s.nextUid + 1 }
    match own[v]? with
    | some ln => s.writeBack ln
    | none =>
      match copies[v - own.length]? with
      | some p =>
        let s := { s with sc := adel s.sc p.1 }
        if p.2.dirt.isEmpty then s
        else match s.imageAt p.1.2 with
          | some (c, o) => s.imagePut c o p.1.2 p.2.key p.2.dirt
          | none => (s.slicePut p.1.2 p.2.key p.2.dirt).writeBack p.1.2
      | none => s

/-- Bytes of a line made dirty at its slice, in whose capacity a new line must fit (R228); an image line takes them in the local store
(R239). -/
def State.homePut (s : State) (ln key : Nat) (ws : List (Nat × Byte)) : State :=
  if ws.isEmpty then s
  else match s.imageAt ln with
    | some (c, o) => s.imagePut c o ln key ws
    | none => (if (aget s.llcKey ln).isSome then s else s.roomSlice (s.sliceOf ln)).slicePut ln key ws

/-- Sectors' local copies of a line, those that `p` picks, are recalled and merged at home (R403). -/
def State.recallSC' (s : State) (ln : Nat) (p : Nat → CLine → Bool) : State :=
  let mine := fun (q : (Nat × Nat) × CLine) => q.1.2 = ln && p q.1.1 q.2
  let cs := s.sc.filter mine
  if cs.isEmpty then s
  else cs.foldl (fun s q => s.homePut ln q.2.key q.2.dirt) { s with sc := s.sc.filter (fun q => !mine q) }

/-- Every sector's local copy of a line is recalled and merged at home (R403). -/
def State.recallSC (s : State) (ln : Nat) : State := s.recallSC' ln (fun _ _ => true)

/-- The exclusive, dirty local copy of a line is recalled before a device-scope access or another sector's fill (R402, R403). -/
def State.recallSex (s : State) (ln : Nat) : State := s.recallSC' ln (fun _ c => !c.dirt.isEmpty)

/-- No fabric device holds a copy of a line any more (R402). -/
def State.noPeers (s : State) (ln : Nat) : State :=
  match aget s.dirs ln with
  | some d => { s with dirs := aput s.dirs ln (d &&& 0x00007FFFFFFF#48) }
  | none => s

/-- A fabric device's exclusive copy of a line is recalled and merged at home under the window's key id (R403, R411); the bytes it wrote
are a free value (log 60). It keeps no copy. -/
def State.recallPeer (s : State) (ln : Nat) : State :=
  match aget s.remoteX ln with
  | none => s
  | some h =>
    (State.noPeers { s with remoteX := adel s.remoteX ln } ln).homePut ln (winKey s.fabWin ln) ((Config.peerDirty h ln).filter (fun p => p.1 < 128))

/-- What the home slice merges before any access performed there: the exclusive copies of a sector and of a fabric device. -/
def State.recallExcl (s : State) (ln : Nat) : State := (s.recallSex ln).recallPeer ln

/-- The host's hold on the halves that bytes of a line touch ends, its dirty bytes merged under its window's key id (R407, R408). -/
def State.recallHost (s : State) (ln : Nat) (is : List Nat) : State :=
  if isSysLine ln then s
  else [0, 1].foldl (fun s h =>
    if is.any (fun i => i / 64 = h) then
      match aget s.hostHalf (ln * 2 + h) with
      | none => s
      | some (st, d) =>
        let s := { s with hostHalf := adel s.hostHalf (ln * 2 + h) }
        if st = 3 then s.homePut ln (winKey s.hostWin ln) (tab 64 (fun j => (64 * h + j, d.getD j 0))) else s
    else s) s

/-- A device read of bytes of a line sends a snoop for data to halves the host holds in E or M, which become S (R408); of a line of the
system range it takes the halves it needs (R409). -/
def State.snoopHost (s : State) (ln : Nat) (is : List Nat) : State :=
  if isSysLine ln then s.markHalf ln is 1
  else [0, 1].foldl (fun s h =>
    if is.any (fun i => i / 64 = h) then
      match aget s.hostHalf (ln * 2 + h) with
      | some (st, d) =>
        let s := if st < 2 then s else { s with hostHalf := aput s.hostHalf (ln * 2 + h) (1, []) }
        if st = 3 then s.homePut ln (winKey s.hostWin ln) (tab 64 (fun j => (64 * h + j, d.getD j 0))) else s
      | none => s
    else s) s

/-- A copy that the home slice holds under another key id is written back and dropped (R396). -/
def State.rekeyHome (s : State) (ln key : Nat) : State :=
  match aget s.llcKey ln with
  | some k => if k = key then s else s.writeBack ln
  | none => s

/-- A read under a key id of bytes of a line performed at the home slice: exclusive copies come back, the host is snooped, and a copy under another
key id goes (R396, R403, R408, R409). -/
def State.homeTouch (s : State) (ln key : Nat) (is : List Nat) : State := ((s.recallExcl ln).snoopHost ln is).rekeyHome ln key

/-- Before a write of bytes of a line at the home slice, local, remote and host copies go, their own bytes merged (R403, R408). -/
def State.recallAll (s : State) (ln : Nat) (is : List Nat) : State := (((s.recallSC ln).recallPeer ln).recallHost ln is).noPeers ln

/-- A write performed at the home slice: local, remote and host copies go first (R403, R408). -/
def State.homeMerge (s : State) (ln key : Nat) (ws : List (Nat × Byte)) : State :=
  if ws.isEmpty then s else (s.recallAll ln (ws.map (·.1))).homePut ln key ws

/-- What caches own of a line by atomics at `cr` and `gg` is merged at home, before another agent's bytes follow it (R253, R268). -/
def State.disown (s : State) (ln : Nat) : State :=
  let own := fun (q : Nat × CLine) => q.1 = ln && q.2.amo
  let l1s := s.cores.flatMap (fun (p : Nat × Core) => p.2.l1.filter own)
  let l2s := (s.l2.filter (fun p => own (p.1.2, p.2))).map (fun p => (p.1.2, p.2))
  if l1s.isEmpty && l2s.isEmpty then s
  else
    let s := { s with cores := s.cores.map (fun (p : Nat × Core) => (p.1, { p.2 with l1 := p.2.l1.filter (fun q => !own q) }))
                      l2 := s.l2.filter (fun p => !own (p.1.2, p.2)) }
    (l2s ++ l1s).foldl (fun s p => s.homeMerge ln p.2.key p.2.dirt) s

/-- A write by any agent performed at the home slice, after what caches own by atomics (R253, R268). -/
def State.homeWrite (s : State) (ln key : Nat) (ws : List (Nat × Byte)) : State :=
  if ws.isEmpty then s else (s.disown ln).homeMerge ln key ws

/-- Some copy of a line may hold bytes its home does not. -/
def State.unsettled (s : State) (ln : Nat) : Bool :=
  s.sc.any (fun p => p.1.2 = ln && !p.2.dirt.isEmpty) || (aget s.remoteX ln).isSome
    || (!isSysLine ln && [0, 1].any (fun h => match aget s.hostHalf (2 * ln + h) with | some (3, _) => true | _ => false))

/-- The state in which every exclusive copy of a line has been merged at home, for a read under a key id. -/
def State.settled (s : State) (ln key : Nat) : State := if s.unsettled ln then s.homeTouch ln key [0, 64] else s

/-- Bytes read at the home, in a physical address range under one key id; exclusive copies count as recalled. -/
def State.homeRead (s : State) (pa n key : Nat) : List Byte :=
  tab n (fun i => (s.settled ((pa + i) / 128) key).homeByte ((pa + i) / 128) key ((pa + i) % 128))

/-- The lines of a byte range. -/
def linesOf (pa n : Nat) : List Nat := if n = 0 then [] else tab ((pa + n - 1) / 128 + 1 - pa / 128) (fun i => pa / 128 + i)

/-- Bytes written at the home from a physical address on, under one key id. -/
def State.homeWriteAt (s : State) (pa key : Nat) (bs : List Byte) : State :=
  (linesOf pa bs.length).foldl (fun s ln =>
    s.homeWrite ln key ((List.range bs.length).filterMap (fun i =>
      if (pa + i) / 128 = ln then some ((pa + i) % 128, bs.getD i 0) else none))) s

/-- The directory entry of a line as R402 lays it out; the host's E and M both read E there (R421). -/
def State.dirEntry (s : State) (ln : Nat) : BitVec 48 :=
  let cs := s.sc.filter (fun p => p.1.2 = ln)
  let sect := cs.foldl (fun m p => m ||| (1#48 <<< (19 + p.1.1))) 0#48
  let sex := if cs.any (fun p => !p.2.dirt.isEmpty) then 1#48 <<< 18 else 0#48
  let half := fun (h : Nat) => match aget s.hostHalf (2 * ln + h) with
    | some (st, _) => if isSysLine ln then st else min st 2
    | none => 0
  (aget s.dirs ln).getD 0 ||| sect ||| sex ||| BitVec.ofNat 48 (half 0 + 4 * half 1)

end Sys2Proof.Machine
end

