-- ==== Sys2Proof/Machine/Translate.lean ====
section
/-! DEFINITION. Address translation and protection: the walk, the entries and their checks, permissions and fault kinds (R241,
R386-R396). -/

namespace Sys2Proof.Machine

/-- What an access needs of its page (R390): `store` for a lane's store, `write` for any other. -/
inductive Access where
  | load | store | write | fetch | accum | table
  deriving DecidableEq, Repr

/-- The address is in the local aperture (R236). -/
def inAperture (va : Nat) : Bool := 0x1FFFFFFF00000 ≤ va && va < 2 ^ 49

/-- Field of the virtual address and size of the table or page below a level: shift, index bits (R386). -/
def levelShift : Nat → Nat
  | 3 => 39
  | 2 => 30
  | 1 => 21
  | _ => 16

/-- Entries of the table at a level (R386). -/
def levelEntries : Nat → Nat
  | 3 => 1024
  | 2 => 512
  | 1 => 512
  | _ => 32

/-- A valid pointer entry at a level breaks R389. -/
def badPointer (lvl e : Nat) : Bool :=
  let next := bits e 51 8 * 256
  let size := 8 * levelEntries (lvl - 1)
  lvl == 0 || bits e 63 52 != 0 || bits e 7 2 != 0 || next % size != 0 || deviceEnd < next + size

/-- A valid leaf entry at a level breaks R389. -/
def badLeaf (lvl e : Nat) : Bool :=
  let pa := bits e 51 16 * 2 ^ 16
  let size := 2 ^ levelShift lvl
  let key := bits e 63 56
  lvl == 3 || bits e 55 52 != 0 || bits e 15 10 != 0 || bits e 3 2 != 0 || pa % size != 0
    || (bit e 5 && !bit e 4) || (bit e 7 && bit e 5)
    || (if bit e 51 then key != 0 else key == 0 || deviceEnd < pa + size)

/-- The translation a leaf entry gives an address (R388). -/
def leafOf (lvl e va : Nat) : Leaf :=
  ⟨bits e 51 16 * 2 ^ 16 + va % 2 ^ levelShift lvl, bits e 63 56, bit e 9, bit e 8, bit e 7, bit e 6, bit e 5, bit e 4⟩

/-- A table entry read whole at its place: its word, or the fault kind (R386, R392, R396). -/
def State.entryAt (s : State) (tkey at_ : Nat) : Except Nat Nat :=
  if (s.keyInst (at_ / 128) tkey).isNone then .error 0x09
  else if s.rangeBad at_ 8 then .error 0x06
  else .ok (leNat (s.homeRead at_ 8 tkey))

/-- The walk from the table of a level at a physical address: the leaf and the page size, or the fault kind (R386-R389, R392). `held`
gives an entry that a walker cache holds (R391). -/
def State.walkFrom (s : State) (held : Nat → Option Nat) (tkey : Nat) (va : Nat) : List Nat → Nat → Except Nat (Leaf × Nat)
  | [], _ => .error 0x01
  | lvl :: ls, base =>
    match (match held lvl with
      | some e => Except.ok e
      | none => s.entryAt tkey (base + 8 * (va / 2 ^ levelShift lvl % levelEntries lvl))) with
    | .error k => .error k
    | .ok e =>
      if !bit e 0 then .error 0x01
      else if bit e 1 then
        if badLeaf lvl e then .error 0x08 else .ok (leafOf lvl e va, 2 ^ levelShift lvl)
      else if badPointer lvl e then .error 0x08
      else s.walkFrom held tkey va ls (bits e 51 8 * 256)

/-- The walk of a context's tables in memory (R386). -/
def State.walk (s : State) (ctx va : Nat) : Except Nat (Leaf × Nat) :=
  match aget s.ctxs ctx with
  | none => .error 0x01
  | some c => s.walkFrom (fun _ => none) c.tkey va [3, 2, 1, 0] c.root

/-- The addresses of the entries that a walk reads from memory, in its order (R386, R391, R396). -/
def State.entriesFrom (s : State) (held : Nat → Option Nat) (tkey : Nat) (va : Nat) : List Nat → Nat → List Nat
  | [], _ => []
  | lvl :: ls, base =>
    let at_ := base + 8 * (va / 2 ^ levelShift lvl % levelEntries lvl)
    let next := fun (e : Nat) => if !bit e 0 || bit e 1 || badPointer lvl e then [] else s.entriesFrom held tkey va ls (bits e 51 8 * 256)
    match held lvl with
    | some e => next e
    | none => match s.entryAt tkey at_ with
      | .error k => if k = 0x09 then [] else [at_]
      | .ok e => at_ :: next e

/-- The state that a walk's reads leave: each is performed at the entry's home slice (R403, R408). -/
def State.walkRead (s : State) (held : Nat → Option Nat) (ctx va : Nat) : State :=
  match aget s.ctxs ctx with
  | none => s
  | some c => (s.entriesFrom held c.tkey va [3, 2, 1, 0] c.root).foldl (fun s a => s.homeTouch (a / 128) c.tkey (tab 8 (a % 128 + ·))) s

/-- What a sector's walker caches hold for an address (R391). -/
def State.walkHeld (s : State) (sec ctx va lvl : Nat) : Option Nat :=
  (((aget s.walkTlb sec).getD []).find? (fun x => x.ctx == ctx && x.lvl == lvl && x.tag == va / 2 ^ levelShift lvl)).map (·.word)

/-- The walk that a core's sector makes, through its walker caches (R391). -/
def State.coreWalk (s : State) (core ctx va : Nat) : Except Nat (Leaf × Nat) :=
  match aget s.ctxs ctx with
  | none => .error 0x01
  | some c => s.walkFrom (s.walkHeld (sectorOf core) ctx va) c.tkey va [3, 2, 1, 0] c.root

/-- The entry of a list of translations for an address. -/
def tlbFind (l : List TlbEntry) (ctx va : Nat) : Option TlbEntry :=
  l.find? (fun t => t.ctx == ctx && t.base ≤ va && va < t.base + t.size)

/-- The translation that a core, or its gang, holds for a page, or the walk (R391). -/
def State.lookup (s : State) (core ctx va : Nat) : Except Nat Leaf :=
  match (tlbFind (s.coreOf core).tlb ctx va).or (tlbFind ((aget s.gangTlb (gangOf core)).getD []) ctx va) with
  | some t => .ok { t.leaf with pa := t.leaf.pa + (va - t.base) }
  | none => (s.coreWalk core ctx va).map (·.1)

/-- The state that a core's translation of an address leaves: where no translation is held, that of its walk (R391). -/
def State.walked (s : State) (core ctx va : Nat) : State :=
  if 2 ^ 49 ≤ va || inAperture va then s
  else match (tlbFind (s.coreOf core).tlb ctx va).or (tlbFind ((aget s.gangTlb (gangOf core)).getD []) ctx va) with
    | some _ => s
    | none => s.walkRead (s.walkHeld (sectorOf core) ctx va) ctx va

/-- The same for several addresses, one after another. The reads of a walk count once the access that asks for it is performed (log 67). -/
def State.walkedAll (s : State) (core ctx : Nat) (vas : List Nat) : State := vas.foldl (fun s va => s.walked core ctx va) s

/-- The translations of a context are dropped from every core, gang and walker cache (R391, R393). -/
def State.shoot (s : State) (ctx : Nat) : State :=
  { s with cores := s.cores.map (fun (p : Nat × Core) => (p.1, { p.2 with tlb := p.2.tlb.filter (fun t => t.ctx ≠ ctx) }))
           gangTlb := s.gangTlb.map (fun p => (p.1, p.2.filter (fun t => t.ctx ≠ ctx)))
           walkTlb := s.walkTlb.map (fun p => (p.1, p.2.filter (fun x => x.ctx ≠ ctx))) }

/-- Step 4 of R241 after the walk: a device page's key slot EMPTY is key-invalid, a window of a device not in the domain
not-present (R394, R396, R411). This device's own window leads to its own memory under the window's key id, a closed GiB of it nowhere
(log 26). -/
def State.leafLive (s : State) (l : Leaf) : Except Nat Leaf :=
  if isSysLine (l.pa / 128) then
    match windowOf l.pa with
    | some d =>
      if s.reachable d then .ok l
      else if d = s.self && !s.peers.isEmpty then
        let k := winKey s.fabWin (l.pa % 2 ^ 44 / 128)
        if k = 0 then .error 0x01
        else if (s.keyInst (l.pa % 2 ^ 44 / 128) k).isNone then .error 0x09
        else .ok { l with pa := l.pa % 2 ^ 44, key := k }
      else .error 0x01
    | none => .ok l
  else if (s.keyInst (l.pa / 128) l.key).isNone then .error 0x09 else .ok l

/-- The permission an access needs (R390); a store to a page that may not be read finds it not present (R259, log 62). -/
def Leaf.permits (l : Leaf) : Access → Except Nat Leaf
  | .load => if l.r then .ok l else .error 0x01
  | .store => if !l.r then .error 0x01 else if l.w then .ok l else .error 0x02
  | .write => if l.w then .ok l else .error 0x02
  | .fetch => if l.x then .ok l else .error 0x07
  | .accum => if l.w && l.ap then .ok l else .error 0x02
  | .table => if l.w && l.fst then .ok l else .error 0x02

/-- Steps 4 and 5 of R241 for an address below 2^49 outside the aperture. -/
def State.translate (s : State) (core ctx va : Nat) (acc : Access) : Except Nat Leaf :=
  match s.lookup core ctx va with
  | .error k => .error (if acc == .fetch && k == 0x01 then 0x07 else k)
  | .ok l => (s.leafLive l).bind (fun l => l.permits acc)

/-- Checks 1 to 5 of R241 for an access of `size` bytes that accepts no aperture address: the fault kind, or the
translation (R237). -/
def State.check (s : State) (core ctx va size : Nat) (acc : Access) : Except Nat Leaf :=
  if 2 ^ 49 ≤ va then .error 0x01
  else if va % size ≠ 0 then .error 0x03
  else if inAperture va then .error 0x05
  else s.translate core ctx va acc

end Sys2Proof.Machine
end

