-- ==== Sys2Proof/Machine/Cache.lean ====
section
/-! DEFINITION. L1, the gang L2 and the sector's local copies: reading and writing at the level of a scope, write-downs, and the
dropping of stale lines (R228, R231, R246, R253, R255, R258, R263, R401-R403). A level is 0 for L1 (`wv`, `cr`), 1 for the L2
(`gg`), 2 for the sector (`sp`), 3 for the home slice (`dv`), 4 for the home slice and the host or owner (`sy`). -/

namespace Sys2Proof.Machine

/-- The level where a scope code is performed (R63, R228). -/
def levelOf (sc : Nat) : Nat := sc - 1

/-- A line of which no byte is held. -/
def CLine.none_ (key : Nat) : CLine := ⟨List.replicate 128 .absent, [], 0, 0, key, false⟩

/-- A byte of a line, dirty or, where `clean` allows it, clean. -/
def CLine.see (c : CLine) (clean : Bool) (i : Nat) : Option Byte :=
  match c.bytes.getD i .absent with
  | .dirty b => some b
  | .clean b => if clean then some b else none
  | .absent => none

/-- The line has a dirty byte. -/
def CLine.isDirty (c : CLine) : Bool := c.bytes.any (fun b => match b with | .dirty _ => true | _ => false)

/-- The line holds every one of some bytes. -/
def CLine.has (c : CLine) (is : List Nat) : Bool := is.all (fun i => c.bytes.getD i .absent ≠ .absent)

/-- The bytes of a half of a line. -/
def halfBytes (h : Nat) : List Nat := tab 64 (fun j => 64 * h + j)

/-- The line with its dirty bytes clean. Clean bytes stay only in a half that is held whole: a line gets a half at one instant, so that no
read mixes older bytes with newer ones (R267, log 63). -/
def CLine.cleaned (c : CLine) : CLine :=
  let w0 := c.has (halfBytes 0)
  let w1 := c.has (halfBytes 1)
  { c with
    bytes := tab 128 (fun i => match c.bytes.getD i .absent with
      | .absent => .absent
      | .clean x | .dirty x => if (if i < 64 then w0 else w1) then .clean x else .absent)
    owners := [], amo := false }

/-- The line without its clean bytes. -/
def CLine.dirtyOnly (c : CLine) : CLine :=
  { c with bytes := c.bytes.map (fun b => match b with | .clean _ => .absent | b => b) }

/-- The line with bytes written dirty by a wave. -/
def CLine.write (c : CLine) (ws : List (Nat × Byte)) (owner : List WaveId) (ctx va : Nat) : CLine :=
  { c with bytes := ws.foldl (fun m p => m.set p.1 (.dirty p.2)) c.bytes,
           owners := c.owners ++ owner.filter (fun o => !c.owners.contains o), ctx := ctx, va := va }

/-- The line with the bytes it holds of a write replaced, clean (R246). -/
def CLine.update (c : CLine) (ws : List (Nat × Byte)) : CLine :=
  { c with bytes := ws.foldl (fun m p => if m.getD p.1 .absent = .absent then m else m.set p.1 (.clean p.2)) c.bytes }

/-- The line with the absent bytes of some halves filled clean. -/
def CLine.fill (c : CLine) (hs : List Nat) (vs : Nat → Byte) : CLine :=
  { c with bytes := tab 128 (fun i => match c.bytes.getD i .absent with
      | .absent => if hs.contains (i / 64) then .clean (vs i) else .absent
      | b => b) }

/-- A line of L1. -/
def State.l1Line (s : State) (core ln : Nat) : Option CLine := aget (s.coreOf core).l1 ln
/-- The state with a line of L1 replaced, or dropped. -/
def State.setL1 (s : State) (core ln : Nat) : Option CLine → State
  | some c => s.modCore core (fun k => { k with l1 := aput k.l1 ln c })
  | none => s.modCore core (fun k => { k with l1 := adel k.l1 ln })
/-- A line of the L2 of a core's gang. -/
def State.l2Line (s : State) (core ln : Nat) : Option CLine := aget s.l2 (gangOf core, ln)
/-- The state with a line of the L2 replaced, or dropped. -/
def State.setL2 (s : State) (core ln : Nat) : Option CLine → State
  | some c => { s with l2 := aput s.l2 (gangOf core, ln) c }
  | none => { s with l2 := adel s.l2 (gangOf core, ln) }
/-- A local copy of a core's sector. -/
def State.scLine (s : State) (core ln : Nat) : Option CLine := aget s.sc (sectorOf core, ln)
/-- The state with a local copy replaced, or dropped. -/
def State.setSC (s : State) (core ln : Nat) : Option CLine → State
  | some c => { s with sc := aput s.sc (sectorOf core, ln) c }
  | none => { s with sc := adel s.sc (sectorOf core, ln) }

/-- The sector may hold a local copy of the line (R401). -/
def State.scAllowed (s : State) (core ln : Nat) : Bool :=
  !isSysLine ln && s.homeSector ln ≠ sectorOf core && (aget s.frames ln).isNone

/-- A local copy written, in whose slice it must fit (R228, R401). -/
def State.putSC (s : State) (core ln : Nat) (c : CLine) : State :=
  (if (s.scLine core ln).isSome then s else s.roomSlice (s.copySlice (sectorOf core) ln)).setSC core ln (some c)

/-- A write-down of bytes into the sector's slice or local copy, which then holds the line exclusively; every other copy is recalled
(R403). -/
def State.putSector (s : State) (core ln key : Nat) (ws : List (Nat × Byte)) : State :=
  if ws.isEmpty then s
  else if s.scAllowed core ln then
    let s := s.disown ln
    let s := match s.scLine core ln with | some c => if c.key = key then s else s.recallSC ln | none => s
    let s := ((s.recallSC' ln (fun sec _ => sec ≠ sectorOf core)).recallPeer ln).recallHost ln (ws.map (·.1))
    (s.noPeers ln).putSC core ln (((s.scLine core ln).getD (CLine.none_ key)).write ws [] 0 0)
  else s.homeWrite ln key ws

/-- The L2's dirty bytes of a line written down to the sector (level 2) or to the home slice. -/
def State.downL2 (s : State) (core ln lvl : Nat) : State :=
  match s.l2Line core ln with
  | none => s
  | some c =>
    if c.isDirty then
      let s := s.setL2 core ln (some c.cleaned)
      if lvl ≤ 2 && s.scAllowed core ln then s.putSector core ln c.key c.dirt else (s.wrote ln c.owners 1 c.va).homeWrite ln c.key c.dirt
    else s

/-- Lines of an L1, 512 KiB, and of an L2, 8 MiB (R228). -/
abbrev l1Lines : Nat := 4096
/-- Lines of an L2. -/
abbrev l2Lines : Nat := 65536

/-- A line written in the L2; a full L2 evicts one first, its dirty bytes to the sector (R228, R231, log 59). -/
def State.putL2 (s : State) (core ln : Nat) (c : CLine) : State :=
  let mine := s.l2.filter (fun p => p.1.1 = gangOf core)
  if (s.l2Line core ln).isSome || mine.length < l2Lines then s.setL2 core ln (some c)
  else
    let v := (mine.getD (Config.victim s.nextUid % mine.length) ((0, ln), c)).1.2
    ((State.downL2 { s with nextUid := s.nextUid + 1 } core v 2).setL2 core v none).setL2 core ln (some c)

/-- L1's dirty bytes of a line merged into the L2. -/
def State.downL1 (s : State) (core ln : Nat) : State :=
  match s.l1Line core ln with
  | none => s
  | some c =>
    if c.isDirty then
      let s := if c.amo then s else s.disown ln
      let s := s.setL1 core ln (some c.cleaned)
      let old := (s.l2Line core ln).getD (CLine.none_ c.key)
      let s := if old.key = c.key then s else (s.wrote ln old.owners 1 old.va).homeWrite ln old.key old.dirt
      let old := if old.key = c.key then old else CLine.none_ c.key
      s.putL2 core ln { old.write c.dirt c.owners c.ctx c.va with amo := old.amo || c.amo }
    else s

/-- A line written in an L1; a full L1 evicts one first, its dirty bytes to the L2 (R228, R231, log 59). -/
def State.putL1 (s : State) (core ln : Nat) (c : CLine) : State :=
  let mine := (s.coreOf core).l1
  if (s.l1Line core ln).isSome || mine.length < l1Lines then s.setL1 core ln (some c)
  else
    let v := (mine.getD (Config.victim s.nextUid % mine.length) (ln, c)).1
    ((State.downL1 { s with nextUid := s.nextUid + 1 } core v).setL1 core v none).setL1 core ln (some c)

/-- A line's dirty bytes written down to a level. -/
def State.down (s : State) (core ln lvl : Nat) : State :=
  if lvl = 0 then s
  else
    let s := s.downL1 core ln
    if lvl = 1 then s else s.downL2 core ln lvl

/-- A line's dirty bytes written at its home slice, for the waves whose stores they are (R411). -/
def State.lineHome (s : State) (ln : Nat) (c : CLine) : State := (s.wrote ln c.owners 1 c.va).homeWrite ln c.key c.dirt

/-- A copy of the line under another key id is written back and dropped from the core's L1 and L2 and the sector (R396); the L2's bytes are the
older ones, so they go before those of L1. -/
def State.rekey (s : State) (core ln key : Nat) : State :=
  let stale : Option CLine → Bool := fun c => match c with | some c => c.key ≠ key | none => false
  let both := stale (s.l1Line core ln)
  let s := match s.l2Line core ln with
    | some c => if both || c.key ≠ key then (s.lineHome ln c).setL2 core ln none else s
    | none => s
  let s := match s.l1Line core ln with
    | some c => if both then (s.lineHome ln c).setL1 core ln none else s
    | none => s
  match s.scLine core ln with
  | some c => if c.key = key then s else s.recallSC ln
  | none => s

/-- The byte of a cached line under a key id. -/
def CLine.seen (c : Option CLine) (key : Nat) (clean : Bool) (i : Nat) : Option Byte :=
  c.bind (fun c => if c.key = key then c.see clean i else none)

/-- A byte as the sector gives it: its local copy, or the home slice. -/
def State.seeSC (s : State) (core ln key i : Nat) : Byte := (CLine.seen (s.scLine core ln) key true i).getD (s.homeByte ln key i)

/-- A byte as the gang's L2 gives it. -/
def State.seeL2 (s : State) (core ln key i : Nat) : Byte := (CLine.seen (s.l2Line core ln) key true i).getD (s.seeSC core ln key i)

/-- A byte of a line as an access at a level by a core sees it: dirty bytes of its caches always, clean ones where the level is not
below them. -/
def State.seeByte (s : State) (core lvl ln key i : Nat) : Byte :=
  match CLine.seen (s.l1Line core ln) key (lvl = 0) i with
  | some b => b
  | none => match CLine.seen (s.l2Line core ln) key (lvl ≤ 1) i with
    | some b => b
    | none => match CLine.seen (s.scLine core ln) key (lvl ≤ 2) i with
      | some b => b
      | none => match aget s.frames ln with
        | some f => f.bytes.getD i 0
        | none => s.homeByte ln key i

/-- A read of `n` bytes of one line by a core at a level (R245); an open line gives its snapshot (R259, R294). -/
def State.see (s : State) (core lvl pa n key : Nat) : List Byte :=
  match aget s.frames (pa / 128) with
  | some f => let bs := f.bytes; tab n (fun j => bs.getD (pa % 128 + j) 0)
  | none => tab n (fun j => s.seeByte core lvl (pa / 128) key (pa % 128 + j))

/-- A byte that a core sees of a line holds an uncorrectable error: the home's byte does, and no dirty byte of the core's caches stands over it
(R230, R379, R410). -/
def State.byteBad (s : State) (core ln key i : Nat) : Bool :=
  s.homeBad ln i && (CLine.seen (s.l1Line core ln) key false i).isNone && (CLine.seen (s.l2Line core ln) key false i).isNone
    && (CLine.seen (s.scLine core ln) key false i).isNone

/-- The halves that some bytes of a line touch. -/
def halvesOf (is : List Nat) : List Nat := [0, 1].filter (fun h => is.any (fun i => i / 64 = h))

/-- The halves of a line that a fill brings: those touched, and the other one where that takes neither a snoop nor a request
(R408, R409). -/
def State.fillHalves (s : State) (ln : Nat) (is : List Nat) : List Nat :=
  [0, 1].filter (fun h => (halvesOf is).contains h ||
    (match aget s.hostHalf (halfOf ln (64 * h)) with
      | some (st, _) => if isSysLine ln then 1 ≤ st else st < 2
      | none => !isSysLine ln))

/-- A read passes the L2: the sector's copy serves it, or is filled from the home slice where the sector may hold one; a wider read is
performed at the home slice (R401, R403, R408). -/
def State.touchLow (s : State) (core lvl ln key : Nat) (is : List Nat) : State :=
  let whole := (halvesOf is).flatMap halfBytes
  let sc := lvl ≤ 2 && s.scAllowed core ln
  let s :=
    if sc && (match s.scLine core ln with | some c => c.has whole | none => false) then s
    else
      let s := s.homeTouch ln key is
      if sc then s.putSC core ln (((s.scLine core ln).getD (CLine.none_ key)).fill (s.fillHalves ln is) (s.homeByte ln key)) else s
  if lvl ≤ 1 then
    let c := (s.l2Line core ln).getD (CLine.none_ key)
    s.putL2 core ln (c.fill (s.fillHalves ln is) (s.seeSC core ln key))
  else s

/-- What a read of bytes of a line by a core at a level does to the caches before it is served (R231, R401, R408): a miss fills each level from
the one below it. -/
def State.touch (s : State) (core lvl ln key : Nat) (is : List Nat) : State :=
  if (aget s.frames ln).isSome then s
  else
    let s := s.rekey core ln key
    let holds := fun (c : Option CLine) (is : List Nat) => match c with | some c => c.has is | none => false
    if lvl = 0 && holds (s.l1Line core ln) is then s
    else
      let whole := (halvesOf is).flatMap halfBytes
      let s := if lvl ≤ 1 && holds (s.l2Line core ln) whole then s else s.touchLow core lvl ln key is
      if lvl = 0 then s.putL1 core ln (((s.l1Line core ln).getD (CLine.none_ key)).fill (halvesOf is) (s.seeL2 core ln key)) else s

/-- A copy of the line takes the bytes of a write below it and stays clean (R246). -/
def State.upd1 (s : State) (core ln : Nat) (ws : List (Nat × Byte)) : State :=
  match s.l1Line core ln with | some c => s.setL1 core ln (some (c.update ws)) | none => s
/-- The same for the L2. -/
def State.upd2 (s : State) (core ln : Nat) (ws : List (Nat × Byte)) : State :=
  match s.l2Line core ln with | some c => s.setL2 core ln (some (c.update ws)) | none => s

/-- The device's bytes of a line of the system range written to the host or the owner (R279, R409, R412). -/
def State.evictSys (s : State) (ln : Nat) : State := if isSysLine ln then s.writeBack ln else s

/-- Bytes of one line written by a core at a level (R246): in L1 they are dirty and belong to the storing waves. -/
def State.putLine (s : State) (core lvl ln key ctx va : Nat) (owner : List WaveId) (ws : List (Nat × Byte)) : State :=
  if ws.isEmpty then s
  else
    let s := s.rekey core ln key
    if lvl = 0 then s.putL1 core ln (((s.l1Line core ln).getD (CLine.none_ key)).write ws owner ctx va)
    else
      let s := (if lvl = 1 then s.disown ln else s).upd1 core ln ws
      if lvl = 1 then s.putL2 core ln (((s.l2Line core ln).getD (CLine.none_ key)).write ws owner ctx va)
      else
        let s := s.upd2 core ln ws
        let s := s.wrote ln owner 1 va
        if lvl = 2 then s.putSector core ln key ws
        else
          let s := s.homeWrite ln key ws
          if lvl = 4 then s.evictSys ln else s

/-- A dirty line of a core: whether of its L1 or of its L2, its number, and the line. -/
structure DirtyLine where
  one : Bool
  ln : Nat
  line : CLine
  deriving DecidableEq, Repr

/-- The dirty lines that a release at a level by a wave of a core writes down, by rising address: those of the core's L1 and, for level 2
and wider, of its L2 (R231, R256). -/
def State.dirtyLines (s : State) (core lvl : Nat) : List DirtyLine :=
  let a := ((s.coreOf core).l1.filter (fun q => q.2.isDirty)).map (fun q => (⟨true, q.1, q.2⟩ : DirtyLine))
  let b := (s.l2.filter (fun p => p.2.isDirty && p.1.1 = gangOf core && 2 ≤ lvl)).map (fun p => (⟨false, p.1.2, p.2⟩ : DirtyLine))
  (a ++ b).foldl (fun m p => (m.takeWhile (fun q => q.line.va ≤ p.line.va)) ++ p :: m.dropWhile (fun q => q.line.va ≤ p.line.va)) []

/-- Why the page of a dirty line may not be written now (R256, R394). -/
def State.lineFault (s : State) (core : Nat) (c : CLine) : Option Nat :=
  match s.translate core c.ctx c.va .write with | .ok _ => none | .error k => some k

/-- A dirty line written down for a release at a level by a wave of a core; at level 0 it stands there already. -/
def State.downLine (s : State) (core lvl : Nat) (d : DirtyLine) : State :=
  if lvl = 0 then s else if d.one then s.down core d.ln lvl else s.downL2 core d.ln lvl

/-- The kind of fault that one of the dirty lines is for a wave: the line holds bytes of the wave's, and its page may not be written now. -/
def State.ownFault (s : State) (id : WaveId) (core : Nat) (d : DirtyLine) : Option Nat :=
  if d.line.owners.contains id then s.lineFault core d.line else none

/-- The write-down of a release at a level by a wave (R231, R256, R271): the dirty lines of the core go down in rising order, up to the
wave's first line whose page may not be written; the answer is that fault's kind and the line's address. Another wave's line goes as an
eviction sends it, whatever its page has become (R231, log 9). -/
def State.writeDown (s : State) (id : WaveId) (core lvl : Nat) : State × Option (Nat × Nat) :=
  let r := (s.dirtyLines core lvl).foldl (fun (r : State × Option (Nat × Nat)) d =>
    match r.2 with
    | some _ => r
    | none =>
      let s := if d.line.owners.contains id then r.1.walked core d.line.ctx d.line.va else r.1
      match s.ownFault id core d with
      | none => (s.downLine core lvl d, none)
      | some k => (s, some (k, d.line.va))) (s, none)
  if lvl = 4 && r.2.isNone then
    ((r.1.llcKey.map (·.1)).foldl State.evictSys r.1, none)
  else r

/-- Every dirty line of a core goes down to a level, whatever its page has become: the save of a crew (R231, R278). -/
def State.writeAll (s : State) (core lvl : Nat) : State :=
  let s := (s.dirtyLines core lvl).foldl (fun s d => s.downLine core lvl d) s
  if lvl = 4 then (s.llcKey.map (·.1)).foldl State.evictSys s else s

/-- An acquire at a level by a core: the clean lines that may be stale go from L1, and from the L2 for level 2 and wider
(R255, R263). -/
def State.acquire (s : State) (core lvl : Nat) : State :=
  if lvl = 0 then s
  else
    let keep := fun (c : CLine) => c.isDirty
    let s := s.modCore core (fun k => { k with l1 := (k.l1.filter (fun p => keep p.2)).map (fun p => (p.1, p.2.dirtyOnly)) })
    if lvl < 2 then s
    else
      let l2 := s.l2.filter (fun p => p.1.1 ≠ gangOf core || keep p.2)
      { s with l2 := l2.map (fun p => if p.1.1 = gangOf core then (p.1, p.2.dirtyOnly) else p) }

/-- `cinv` and `cinvd` below the home: copies dropped from the levels up to the scope's (R258). -/
def State.dropLine (s : State) (core ln lvl : Nat) : State :=
  let s := s.setL1 core ln none
  let s := if lvl < 1 then s else s.setL2 core ln none
  if lvl < 2 then s else s.setSC core ln none

/-- A line leaves every cache of the device, its dirty bytes merged at home (R253, R293, R397). -/
def State.flushLine (s : State) (ln : Nat) : State :=
  let s := (s.cores.map (·.1)).foldl (fun s c => (s.downL1 c ln).setL1 c ln none) s
  let l2s := s.l2.filter (fun p => p.1.2 = ln)
  let s := l2s.foldl (fun s p => s.lineHome ln p.2) { s with l2 := s.l2.filter (fun p => p.1.2 ≠ ln) }
  s.recallSC ln

/-- The line of L1 (level 0) or of the L2 (level 1) owned for an atomic's result (R253). -/
def State.own (s : State) (core lvl ln : Nat) : State :=
  if lvl = 0 then s.setL1 core ln ((s.l1Line core ln).map (fun c => { c with amo := true }))
  else if lvl = 1 then s.setL2 core ln ((s.l2Line core ln).map (fun c => { c with amo := true }))
  else s

end Sys2Proof.Machine
end

