-- ==== Sys2Proof/Machine/Operands.lean ====
section
/-! DEFINITION. Operand forms: reading the vector and the wave code space (R10, R47, R94), the checks at issue that depend on the
wave (R9, R379), and writing a destination with its latch (R51, R52). -/

namespace Sys2Proof.Machine

/-- Thread t's word in a window row (R9). -/
def Wave.vrow (w : Wave) (r t : Nat) : Word := (w.v.getD (w.wbase + r) []).at t

/-- The latches an instruction reads: those at its issue, for one that waits (R51). -/
def Wave.latches (w : Wave) : List Row := match w.hold with | some h => h.q | none => w.q

/-- Operand code `c` of the vector space for thread t (R47). -/
def Wave.vr (w : Wave) (c : Code) (t : Nat) : Word :=
  let c := c.toNat
  if c < 96 then w.vrow c t
  else if c < 112 then w.wr (c - 96)
  else if c = 113 then BitVec.ofNat 32 t
  else if c = 114 then BitVec.ofNat 32 w.wid
  else if c = 115 then BitVec.ofNat 32 w.core
  else if 120 ≤ c then (w.latches.getD (c - 120) []).at t
  else 0

/-- Operand code `c` of a vector pair position for thread t (R50, R94). -/
def Wave.vr2 (w : Wave) (c : Code) (t : Nat) : BitVec 64 :=
  let c := c.toNat
  if c < 96 then w.vrow (c + 1) t ++ w.vrow c t
  else if c < 112 then w.wr2 (c - 96)
  else 0

/-- Operand code `c` of the wave space (R47). -/
def Wave.ws (w : Wave) (c : Code) : Word :=
  let c := c.toNat
  if c < 64 then w.wr c
  else if c = 114 then BitVec.ofNat 32 w.wid
  else if c = 115 then BitVec.ofNat 32 w.core
  else if 120 ≤ c then (w.latches.getD (c - 120) []).at 0
  else 0

/-- Operand code `c` of a wave pair position (R50). -/
def Wave.ws2 (w : Wave) (c : Code) : BitVec 64 := if c.toNat < 64 then w.wr2 c.toNat else 0

/-- The latch a field reads as a source. -/
def latchOf (o : Opnd) : Option Nat :=
  match o.kind with
  | .vSrc | .wSrc => if 120 ≤ o.code then some (o.code - 120) else none
  | _ => none

/-- The checks at issue that depend on the wave, in the order of R67: a row outside the allocation is illegal state 0x01 (R9);
a source row or latch with an uncorrectable error is the data-error kind with address zero (R379). -/
def Wave.precheck (w : Wave) (ops : List Opnd) : Option Trap :=
  if ops.any (fun o => o.rows.any (fun r => w.alloc ≤ w.wbase + r)) then some (.state 0x01)
  else if ops.any (fun o => o.srcRows.any (fun r => w.badRows.contains (w.wbase + r))
      || (match latchOf o with | some q => w.badQ.contains q | none => false)) then some (.xlat 0x06 0)
  else none

/-- An instruction with these fields: its trap at issue, or its effect. -/
def State.guarded (s : State) (ops : List Opnd) (f : State → State) : Out :=
  .next (match s.w.precheck ops with
    | some t => s.trap t
    | none => f s)

/-- Row `r` of the window written for the threads that satisfy `p`; the write clears an uncorrectable error of the row (R379). -/
def Wave.putRow (w : Wave) (r : Nat) (p : Nat → Bool) (f : Nat → Word) : Wave :=
  let k := w.wbase + r
  let old := w.v.getD k []
  { w with v := setAt [] w.v k (tab threads (fun t => if p t then f t else old.at t)),
           badRows := w.badRows.filter (· ≠ k) }

/-- The row that enters q0: the value of active threads, zero elsewhere (R52). -/
def Wave.lrow (w : Wave) (f : Nat → Word) : Row := tab threads (fun t => if w.act t then f t else 0)

/-- A 32-bit vector destination and its latch (R51, R52). -/
def Wave.out32 (w : Wave) (d : Code) (nw : Bool) (f : Nat → Word) : Wave :=
  (if nw then w else w.putRow d.toNat w.act f).shiftQ (w.lrow f)

/-- A vector pair destination and its latch (R52, R94). -/
def Wave.out64 (w : Wave) (d : Code) (f : Nat → BitVec 64) : Wave :=
  ((w.putRow d.toNat w.act (fun t => (f t).extractLsb' 0 32)).putRow (d.toNat + 1) w.act
    (fun t => (f t).extractLsb' 32 32)).shiftQ (w.lrow (fun t => (f t).extractLsb' 0 32))

/-- A wave destination and its latch (R52). -/
def Wave.outW (w : Wave) (d : Code) (nw : Bool) (x : Word) : Wave :=
  (if nw then w else w.setWr d.toNat x).shiftQ (List.replicate threads x)

/-- A wave pair destination and its latch (R52). -/
def Wave.outW2 (w : Wave) (d : Code) (x : BitVec 64) : Wave :=
  (w.setWr2 d.toNat x).shiftQ (List.replicate threads (x.extractLsb' 0 32))

/-- The fields d, a of a vector instruction. -/
def fVV (d a : Code) : List Opnd := [⟨.vDst, d.toNat⟩, ⟨.vSrc, a.toNat⟩]
/-- The fields d, a, b of a vector instruction. -/
def fVVV (d a b : Code) : List Opnd := [⟨.vDst, d.toNat⟩, ⟨.vSrc, a.toNat⟩, ⟨.vSrc, b.toNat⟩]
/-- The fields d, a of pairs. -/
def fPP (d a : Code) : List Opnd := [⟨.vDstP, d.toNat⟩, ⟨.vSrcP, a.toNat⟩]
/-- The fields d, a, b of pairs. -/
def fPPP (d a b : Code) : List Opnd := [⟨.vDstP, d.toNat⟩, ⟨.vSrcP, a.toNat⟩, ⟨.vSrcP, b.toNat⟩]
/-- The fields d, a, b of a compare of pairs. -/
def fVPP (d a b : Code) : List Opnd := [⟨.vDst, d.toNat⟩, ⟨.vSrcP, a.toNat⟩, ⟨.vSrcP, b.toNat⟩]

end Sys2Proof.Machine
end

