-- ==== Sys2Proof/Machine/Flags.lean ====
section
/-! DEFINITION. The floating-point status of the threads: what an operation reads of `fsr` (R11, R81), raising flags, and the
floating-point trap (R42, R80, R83, R374). -/

namespace Sys2Proof.Machine

/-- `fsr` of thread t. -/
def Wave.fsrOf (w : Wave) (t : Nat) : Word := w.fsr.at t

/-- The mode RM of thread t (R11, R74). -/
def Wave.rm (w : Wave) (t : Nat) : RM := RM.ofFsr ((w.fsrOf t).toNat / 2 ^ 12 % 4)

/-- What an operation of thread t reads of `fsr`, with a static mode or RM (R42, R81). -/
def Wave.env (w : Wave) (rm : Option RM) (t : Nat) : FEnv :=
  ⟨rm.getD (w.rm t), (w.fsrOf t).getLsbD 11, (w.fsrOf t).getLsbD 10⟩

/-- The enables of thread t, in the bit positions of the flags (R11). -/
def Wave.enables (w : Wave) (t : Nat) : FFlags := (w.fsrOf t).extractLsb' 5 5

/-- Flags of thread t whose enables are set. -/
def Wave.enabled (w : Wave) (fl : Nat → FFlags) (t : Nat) : FFlags := fl t &&& w.enables t

/-- Every thread of `p` ORs in the flags whose enables are clear (R83). -/
def Wave.raise (w : Wave) (p : Nat → Bool) (fl : Nat → FFlags) : Wave :=
  { w with fsr := tab threads (fun t =>
      if p t then w.fsrOf t ||| (fl t &&& ~~~ w.enables t).setWidth 32 else w.fsrOf t) }

/-- The floating-point trap of the threads of `p`: the lowest one that raised an enabled exception is reported (R369, R374). -/
def Wave.fpTrap (w : Wave) (p : Nat → Bool) (fl : Nat → FFlags) : Option Trap :=
  let bad := fun t => p t && w.enabled fl t != 0
  match (List.range threads).find? bad with
  | none => none
  | some t => some { cls := 0x03, sub := (w.enabled fl t).toNat,
                     fp := some (maskWord 0 bad, maskWord 1 bad, maskWord 2 bad, BitVec.ofNat 32 t) }

/-- The end of a floating-point instruction (R83, R104): the flags of the threads of `p` are raised; with an enabled exception the
instruction traps and writes nothing else; otherwise it writes and retires. -/
def State.fpEnd (s : State) (p : Nat → Bool) (fl : Nat → FFlags) (write : Wave → Wave) : State :=
  let w := s.w
  let s := s.setW (w.raise p fl)
  match w.fpTrap p fl with
  | some t => s.trap t
  | none => s.modW (fun w => (write w).retire)

/-- A per-lane floating-point instruction with a 32-bit destination: `f` gives each active thread's result and flags. -/
def State.fp32 (s : State) (d : Code) (nw : Bool) (f : Wave → Nat → Nat × FFlags) : State :=
  let w := s.w
  let r := tab threads (fun t => if w.act t then f w t else (0, 0))
  s.fpEnd w.act (fun t => (r.getD t (0, 0)).2) (fun w => w.out32 d nw (fun t => BitVec.ofNat 32 (r.getD t (0, 0)).1))

/-- The same with a pair destination. -/
def State.fp64 (s : State) (d : Code) (f : Wave → Nat → Nat × FFlags) : State :=
  let w := s.w
  let r := tab threads (fun t => if w.act t then f w t else (0, 0))
  s.fpEnd w.act (fun t => (r.getD t (0, 0)).2) (fun w => w.out64 d (fun t => BitVec.ofNat 64 (r.getD t (0, 0)).1))

end Sys2Proof.Machine
end

