-- ==== Sys2Proof/Machine/Access.lean ====
section
/-! DEFINITION. Lane and uniform accesses: addresses and checks (R235, R236, R241, R242, R259, R260), reading and writing a
place, atomics (R251, R252), and the accesses of a wave that are issued and not yet performed (R170, R245-R247, R376). -/

namespace Sys2Proof.Machine

/-- A little-endian field of a launch record (R181). -/
def Grid.fld (g : Grid) (off n : Nat) : Nat := leNat ((g.lrec.drop off).take n)
/-- A grid runs in deterministic mode (R181). -/
def Grid.det (g : Grid) : Bool := bit (g.fld 0x02 2) 2

/-- CREWS, GANGS and SPANS of a launch record (R177, R181). -/
def Grid.crews (g : Grid) : Nat := g.fld 0x15 1
/-- GANGS. -/
def Grid.gangs (g : Grid) : Nat := g.fld 0x16 1
/-- SPANS. -/
def Grid.spans (g : Grid) : Nat := g.fld 0x18 4
/-- The COOP flag. -/
def Grid.coop (g : Grid) : Bool := bit (g.fld 0x02 2) 3

/-- The crew that aperture slot `c` names for a crew: crew c of its own gang (R236). -/
def State.gangCrew (s : State) (id : CrewId) (c : Nat) : CrewId :=
  ⟨id.g, id.n / max 1 (s.gridOf id.g).crews * max 1 (s.gridOf id.g).crews + c⟩

/-- The place a local-store offset names, checked in the order of R235. -/
def State.localPlace (s : State) (id : CrewId) (write : Bool) (o size : Nat) : Except Trap Place :=
  let c := s.crewOf id
  let top := c.lsLen + c.waves * c.tokLen
  if o % size ≠ 0 then .error (.xlat 0x03 o)
  else if top < o + size then .error (.xlat 0x04 o)
  else if write && c.lsLen < o + size then .error (.xlat 0x04 o)
  else .ok (.ls id o)

/-- The place an aperture address names (R236). -/
def State.aperturePlace (s : State) (id : CrewId) (va size : Nat) : Except Trap Place :=
  let r := va - 0x1FFFFFFF00000
  let k := s.gangCrew id (r / 0x40000)
  let c := s.crewOf k
  if (s.gridOf id.g).crews ≤ r / 0x40000 || (aget s.crews k).isNone || c.ended || c.lsLen < r % 0x40000 + size then
    .error (.xlat 0x05 va)
  else .ok (.ls k (r % 0x40000))

/-- What a memory instruction does to the accumulating line of a place (R259, R260): the accumulation fault, if any. A folded
atomic needs the accumulate-permit of its page, as `ared` does. -/
def State.openFault (s : State) (w : Wave) (k : MemKind) (l : Leaf) : Option Nat :=
  match aget s.frames (l.pa / 128) with
  | none => none
  | some f =>
    match k with
    | .load _ => if w.det then some 0x02 else none
    | .store | .stc => some 0x01
    | .atomic op =>
      if op = 2 || op = 3 || ((op = 0 || op = 1) && 2 ≤ f.tgt) then (if l.ap then none else some 0x09) else some 0x01

/-- The place of an access of a wave: the checks of R235, or those of R241 in their order. -/
def State.place (s : State) (id : WaveId) (k : MemKind) (sc va size : Nat) : Except Trap Place :=
  let w := s.wv id
  let write := match k with | .load _ => false | _ => true
  if sc = 6 then s.localPlace (s.crewId id) write va size
  else if 2 ^ 49 ≤ va then .error (.xlat 0x01 va)
  else if va % size ≠ 0 then .error (.xlat 0x03 va)
  else if inAperture va then s.aperturePlace (s.crewId id) va size
  else match s.translate w.core (s.ctxN id.g) va (if write then .store else .load) with
    | .error e => .error (.xlat e va)
    | .ok l => match s.openFault w k l with
      | some f => .error (.acc f va)
      | none => .ok (.mem l.pa l.key (s.ctxN id.g) va)

/-- The place `i` bytes on. -/
def Place.at (p : Place) (i : Nat) : Place :=
  match p with
  | .mem pa key ctx va => .mem (pa + i) key ctx (va + i)
  | .ls c o => .ls c (o + i)

/-- The image of a crew that is saved stands for its local store (R240). -/
def Crew.away (x : Crew) : Bool := !x.bound && !x.ended && 0 < x.lsLen

/-- A byte of the place holds an uncorrectable error for a core (R230, R379): of a saved crew's local store, in its image (R240). -/
def State.placeBad (s : State) (core : Nat) (p : Place) (n : Nat) : Bool :=
  let some_ := fun (b : List Nat) (a : Nat) => !b.isEmpty && (List.range n).any (fun i => b.contains (a + i))
  match p with
  | .mem pa key _ _ => (List.range n).any (fun i => s.byteBad core ((pa + i) / 128) key ((pa + i) % 128))
  | .ls c o => let x := s.crewOf c; if x.away then some_ s.bad (x.image + o) else some_ x.lsBad o

/-- The `n` bytes at a place, read by a core at a level. -/
def State.readPlace (s : State) (core lvl : Nat) (p : Place) (n : Nat) : Nat :=
  match p with
  | .mem pa key _ _ => leNat (s.see core lvl pa n key)
  | .ls c o =>
    let x := s.crewOf c
    if x.away then leNat (s.homeRead (x.image + o) n (s.ctxOf (s.ctxN c.g)).tkey) else leNat (x.ls.read o n)

/-- A range of bytes is read under a key id at the home slices, which send for exclusive copies first (R396, R403, R408, R409). -/
def State.homeLook (s : State) (pa n key : Nat) : State :=
  (linesOf pa n).foldl (fun s ln =>
    if (aget s.frames ln).isSome then s
    else s.homeTouch ln key ((List.range 128).filter (fun i => pa ≤ 128 * ln + i && 128 * ln + i < pa + n))) s

/-- What a read of a place does to the caches before it is served; the image of a saved crew is read at its home slices (R240). -/
def State.touchPlace (s : State) (core lvl : Nat) (p : Place) (n : Nat) : State :=
  match p with
  | .mem pa key _ _ => s.touch core lvl (pa / 128) key (tab n (fun i => pa % 128 + i))
  | .ls c o => let x := s.crewOf c; if x.away then s.homeLook (x.image + o) n (s.ctxOf (s.ctxN c.g)).tkey else s

/-- The image of a spilled frame is brought up to date in the save area, under the context's table key (R291, R292, log 30). -/
def State.mirrorFrame (s : State) (ln : Nat) : State :=
  match aget s.frames ln with
  | some f => match s.slotAt f with
    | some a => s.homeWriteAt a (s.ctxOf f.ctx).tkey (s.frameImage ln f)
    | none => s
  | none => s

/-- Bytes written at a place by a core at a level; in L1 they belong to the storing waves (R246). -/
def State.writePlace (s : State) (core lvl : Nat) (owner : List WaveId) (p : Place) (bs : List Byte) : State :=
  match p with
  | .mem pa key ctx va =>
    s.putLine core lvl (pa / 128) key ctx (va / 128 * 128) owner (tab bs.length (fun i => (pa % 128 + i, bs.getD i 0)))
  | .ls c o =>
    let x := s.crewOf c
    if x.away then s.homeWriteAt (x.image + o) (s.ctxOf (s.ctxN c.g)).tkey bs
    else s.modCrew c (fun x => { x with
      ls := x.ls.write o bs
      lsDirty := x.lsDirty ++ (linesOf o bs.length).filter (fun l => !x.lsDirty.contains l)
      lsBad := x.lsBad.filter (fun a => a < o || o + bs.length ≤ a) })

/-- The new value of an atomic: operation number, old value, operand, compare value (R65, R251, R252). -/
def amoNew (op old b c : Nat) : Nat :=
  let n := if op = 1 || op = 3 || op = 12 || op = 14 then 64 else 32
  let fadd := fun (F : Fmt) =>
    match firstNaN F [old, b] with
    | some q => q
    | none =>
      match F.val old, F.val b with
      | .inf x, .inf y => if x == y then F.inf x else F.defNaN
      | .inf x, _ => F.inf x
      | _, .inf y => F.inf y
      | x, y => (F.roundSum .rne [x.term, y.term]).1
  match op with
  | 0 | 1 => (old + b) % 2 ^ n
  | 2 => fadd f32
  | 3 => fadd f64
  | 4 => if signed 32 old ≤ signed 32 b then old else b
  | 5 => if signed 32 old ≤ signed 32 b then b else old
  | 6 => min old b
  | 7 => max old b
  | 8 => old &&& b
  | 9 => old ||| b
  | 10 => old ^^^ b
  | 11 | 12 => b
  | _ => if old = c then b else old

/-- The arrival type of a folded atomic (R260). -/
def amoTy (op : Nat) : Nat := match op with | 0 => 2 | 1 => 3 | 2 => 0 | _ => 1

/-- Bytes of an atomic's operand (R65). -/
def amoSize (op : Nat) : Nat := if op = 1 || op = 3 || op = 12 || op = 14 then 8 else 4

/-- One store performed; a line opened since the check takes nothing, and ACC_STORE is reported later (R294, log 18). -/
def State.doStore (s : State) (id : WaveId) (lvl : Nat) (p : Place) (bs : List Byte) : State :=
  let core := (s.wv id).core
  match p with
  | .mem pa _ _ va =>
    if (aget s.frames (pa / 128)).isSome then s.postFault id ⟨0x05, 0x81, va⟩
    else s.writePlace core lvl [id] p bs
  | .ls _ _ => s.writePlace core lvl [id] p bs

/-- The old value of an atomic on an open line (R260): the element's snapshot; where the widths of the two differ, a free value (log 72). -/
def State.foldOld (s : State) (core lvl op pa key tgt : Nat) : Nat × State :=
  let n := amoSize op
  if n = tySize tgt then (leNat (s.see core lvl pa n key), s)
  else (Config.foldOld s.nextUid % 256 ^ n, { s with nextUid := s.nextUid + 1 })

/-- One atomic performed at its level, indivisibly, once its core owns the line: the old value and the state (R251, R253, R260, R268). One of
scope `sp` or wider in a peer's window is performed at its owner, whose answer is free, and which may reject it (R296, R412, log 60). -/
def State.doAtomic (s : State) (id : WaveId) (op sc : Nat) (p : Place) (b c : Nat) : Nat × State :=
  let core := (s.wv id).core
  let lvl := levelOf sc
  let n := amoSize op
  match p with
  | .ls _ _ =>
    let old := s.readPlace core lvl p n
    (old, s.writePlace core lvl [id] p (leBytes n (amoNew op old b c)))
  | .mem pa key _ va =>
    let ln := pa / 128
    match aget s.frames ln with
    | some f =>
      let (old, s) := s.foldOld core lvl op pa key f.tgt
      if op < 4 then
        match f.rejects (pa % 128) (.code (amoTy op) b) with
        | some r => (old, s.postFault id ⟨0x05, 0x80 + r, va⟩)
        | none => (old, State.mirrorFrame { s with frames := aput s.frames ln (f.arrive (pa % 128) (.code (amoTy op) b)) } ln)
      else (old, s.postFault id ⟨0x05, 0x81, va⟩)
    | none =>
      let s := s.flushLine ln
      match windowOf pa with
      | some d =>
        if lvl < 2 then
          let s := s.touchPlace core lvl p n
          let old := s.readPlace core lvl p n
          (old, (s.writePlace core lvl [id] p (leBytes n (amoNew op old b c))).own core lvl ln)
        else
          let s := (s.writeBack ln).markHalf ln [0] 0
          let t := State.sendTxn { s with nextUid := s.nextUid + 1 } d (8 + op) (pa % 2 ^ 44) (leBytes n b ++ leBytes n c)
          (Config.peerOld s.nextUid % 256 ^ n, match Config.peerRejects s.nextUid with
            | some r => if 1 ≤ r && r ≤ 0x0B then t.postFault id ⟨0x05, 0x80 + r, va⟩ else t
            | none => t)
      | none =>
        let s := s.touchPlace core lvl p n
        let old := s.readPlace core lvl p n
        (old, (s.writePlace core lvl [id] p (leBytes n (amoNew op old b c))).own core lvl ln)

/-! ### The accesses of an instruction -/

/-- The kind of a memory instruction is an atomic. -/
def MemKind.isAtomic : MemKind → Bool
  | .atomic _ => true
  | _ => false

/-- SignExt(x, 32) as 64 bits. -/
def sx64 (x : Word) : BitVec 64 := x.signExtend 64

/-- The address of thread t (R241); of a uniform instruction for any t. -/
def Wave.addrOf (w : Wave) (m : MemOp) (t : Nat) : Nat :=
  let a := BitVec.ofNat 7 m.a
  let b := BitVec.ofNat 7 m.b
  if m.uni then (w.ws2 a + sx64 (w.ws b)).toNat
  else if m.kind.isAtomic then (w.vr2 a t).toNat
  else (w.vr2 a t + sx64 (w.vr b t)).toNat

/-- An operand of the data width for thread t. -/
def Wave.dataOf (w : Wave) (m : MemOp) (c t : Nat) : Nat :=
  let c := BitVec.ofNat 7 c
  if m.uni then (if m.size = 8 then (w.ws2 c).toNat else (w.ws c).toNat)
  else if m.size = 8 then (w.vr2 c t).toNat else (w.vr c t).toNat

/-- The accesses of an instruction, in ascending thread order (R241, R244-R251); the elements of a compress-store (R249). -/
def Wave.accs (w : Wave) (m : MemOp) : List Acc1 :=
  let ts := if m.uni then [0] else w.actives
  match m.kind with
  | .load _ => ts.map (fun t => ⟨t, w.addrOf m t, 0, 0, none, none, false⟩)
  | .store => ts.map (fun t => ⟨t, w.addrOf m t, w.dataOf m m.d t, 0, none, none, false⟩)
  | .atomic _ => ts.map (fun t => ⟨t, w.addrOf m t, w.dataOf m m.b t, w.dataOf m m.d t, none, none, false⟩)
  | .stc =>
    let base := w.ws2 (BitVec.ofNat 7 (m.a - 96))
    (List.range ts.length).map (fun j => ⟨ts.getD j 0, (base + BitVec.ofNat 64 (m.size * j)).toNat, w.dataOf m m.d (ts.getD j 0),
      0, none, none, false⟩)

/-- Where the instruction delivers. -/
def Wave.dstOf (w : Wave) (m : MemOp) : Dst :=
  match m.kind with
  | .load _ => if m.uni then .wreg m.d else .row (w.wbase + m.d)
  | .atomic _ => if m.d < 96 then .row (w.wbase + m.d) else .none
  | _ => .none

/-- The instruction is a release: a store or atomic of scope `cr` to `sy` (R263). -/
def MemOp.releases (m : MemOp) : Bool := (match m.kind with | .load _ => false | _ => true) && 1 ≤ m.sc && m.sc ≤ 5
/-- The instruction is an acquire: a load or atomic of scope `cr` to `sy` (R263). -/
def MemOp.acquires (m : MemOp) : Bool :=
  (match m.kind with | .load _ | .atomic _ => true | _ => false) && 1 ≤ m.sc && m.sc ≤ 5

/-- A loaded value extended to its destination (R70, R245). -/
def extendLoad (k : MemKind) (size v : Nat) : Nat :=
  match k with
  | .load true => if size < 4 then wrap 32 (signed (8 * size) v) else v
  | _ => v

/-- A value written to a destination for one thread; the write clears an uncorrectable error of the row (R379). -/
def Wave.deliver (w : Wave) (d : Dst) (size t v : Nat) : Wave :=
  let put := fun (w : Wave) (r x : Nat) =>
    { w with v := setAt [] w.v r (setAt 0 (w.v.getD r []) t (BitVec.ofNat 32 x)), badRows := w.badRows.filter (· ≠ r) }
  match d with
  | .row r => if size = 8 then put (put w r v) (r + 1) (v / 2 ^ 32) else put w r v
  | .wreg n => if size = 8 then w.setWr2 n (BitVec.ofNat 64 v) else w.setWr n (BitVec.ofNat 32 v)
  | .none => w

/-- The first failing access, in ascending thread order, or every place (R242). -/
def State.placesOf (s : State) (id : WaveId) (k : MemKind) (sc size : Nat) : List Acc1 → Except Trap (List Place)
  | [] => .ok []
  | a :: as => match s.place id k sc a.addr size with
    | .error t => .error t
    | .ok p => (s.placesOf id k sc size as).map (p :: ·)

/-- A byte of a place is one of the `n` bytes at another. -/
def Place.covers (q : Place) (n : Nat) (p : Place) (i : Nat) : Bool :=
  match q, p with
  | .mem qa _ _ _, .mem pa _ _ _ => qa ≤ pa + i && pa + i < qa + n
  | .ls c r, .ls d o => c = d && r ≤ o + i && o + i < r + n
  | _, _ => false

/-- The stores a wave holds, in program order. -/
def Wave.held (w : Wave) : List (Place × List Byte) :=
  w.buf.flatMap (fun b => match b with | .stores ws => ws | _ => [])

/-- An earlier store of the wave, in flight or held for the commit phase, replaces a byte of a place (R197, R379). -/
def Wave.replaces (w : Wave) (p : Place) (i : Nat) : Bool :=
  w.held.any (fun q => q.1.covers q.2.length p i)
    || w.inflight.any (fun f => (match f.kind with | .store | .stc => true | _ => false)
      && f.accs.any (fun a => match a.place with | some q => q.covers f.size p i | none => false))

/-- A byte that the wave would read at a place holds an uncorrectable error (R242, R379). -/
def State.readBad (s : State) (w : Wave) (p : Place) (n : Nat) : Bool :=
  s.placeBad w.core p n && (List.range n).any (fun i => s.placeBad w.core (p.at i) 1 && !w.replaces p i)

/-- The places of an instruction's accesses; once every check has passed, the lowest thread whose data to read holds an
uncorrectable error fails (R242, R379). -/
def State.places (s : State) (id : WaveId) (k : MemKind) (sc size : Nat) (as : List Acc1) : Except Trap (List Place) :=
  (s.placesOf id k sc size as).bind (fun ps =>
    match k with
    | .store | .stc => .ok ps
    | _ => match (as.zip ps).find? (fun p => s.readBad (s.wv id) p.2 size) with
      | some p => .error (.xlat 0x06 p.1.addr)
      | none => .ok ps)

/-! ### A deterministic grid's buffer (R197) -/

/-- The line of a place, for the buffer's 64. -/
def Place.line : Place → Nat × Nat × Nat
  | .mem pa _ _ _ => (0, 0, pa / 128)
  | .ls c o => (1, c.n, o / 128)

/-- A byte of a place among held stores, the latest first. -/
def heldByte (ws : List (Place × List Byte)) (p : Place) (i : Nat) : Option Byte :=
  ws.foldl (fun m q => match p, q.1 with
    | .mem pa _ _ _, .mem qa _ _ _ => if qa ≤ pa + i && pa + i < qa + q.2.length then q.2[pa + i - qa]? else m
    | .ls c o, .ls d r => if c = d && r ≤ o + i && o + i < r + q.2.length then q.2[o + i - r]? else m
    | _, _ => m) none

/-- A read by a wave of a deterministic grid: its own buffer first, then memory (R197). -/
def State.readDet (s : State) (w : Wave) (lvl : Nat) (p : Place) (n : Nat) : Nat :=
  let ws := w.held
  let v := s.readPlace w.core lvl p n
  if ws.isEmpty then v
  else leNat (tab n (fun i => (heldByte ws p i).getD (BitVec.ofNat 8 (v / 256 ^ i))))

/-! ### In flight -/

/-- A counter of R170 by its number: 0 VL, 1 WL, 2 ST, 3 EC, 4 FL. -/
def Wave.ctr (w : Wave) : Nat → Nat
  | 0 => w.vl
  | 1 => w.wl
  | 2 => w.st
  | 3 => w.ec
  | _ => w.fl

/-- A counter changed. -/
def Wave.setCtr (w : Wave) (c n : Nat) : Wave :=
  match c with
  | 0 => { w with vl := n }
  | 1 => { w with wl := n }
  | 2 => { w with st := n }
  | 3 => { w with ec := n }
  | _ => { w with fl := n }

/-- A counter raised. -/
def Wave.up (w : Wave) (c : Nat) : Wave := w.setCtr c (w.ctr c + 1)
/-- A counter lowered. -/
def Wave.dn (w : Wave) (c : Nat) : Wave := w.setCtr c (w.ctr c - 1)

/-- The counter of a memory instruction (R170). -/
def memCtr (k : MemKind) (uni : Bool) : Nat :=
  match k with
  | .load _ => if uni then 1 else 0
  | .atomic _ => 0
  | _ => 2

/-- The instruction waits: it is held, unretired (R155, R170, R255). -/
def State.wait (s : State) (op : LongOp) : State :=
  let w := s.w
  match w.hold with
  | some h => if h.op = op then s else s.setW { w with hold := some { h with op := op, since := (s.coreOf w.core).clock } }
  | none => s.setW { w with hold := some ⟨op, (s.coreOf w.core).clock, w.q⟩ }

/-- Two byte ranges meet. -/
def rangesMeet (a n b m : Nat) : Bool := a < b + m && b < a + n

/-- Two accesses of `n` and `m` bytes share a byte: by their addresses, where both are local offsets or neither is, or by the places that
the addresses name (R236, R247). -/
def Acc1.meets (a : Acc1) (n : Nat) (la : Bool) (b : Acc1) (m : Nat) (lb : Bool) : Bool :=
  (la == lb && rangesMeet a.addr n b.addr m) || (match a.place, b.place with
    | some (.mem p _ _ _), some (.mem q _ _ _) => rangesMeet p n q m
    | some (.ls c p), some (.ls d q) => c = d && rangesMeet p n q m
    | _, _ => false)

/-- The flight stores. -/
def Flight.stores (f : Flight) : Bool := match f.kind with | .store | .stc => true | _ => false

/-- The flight is an acquire (R263). -/
def Flight.acquires (f : Flight) : Bool := !f.stores && 1 ≤ f.sc && f.sc ≤ 5

/-- The flight is a release (R263). -/
def Flight.releases (f : Flight) : Bool := (match f.kind with | .load _ => false | _ => true) && 1 ≤ f.sc && f.sc ≤ 5

/-- An earlier flight `e` of the wave keeps an access `b` of the flight `g` from being performed: they share a byte, `g` reads after earlier
stores, `e` is an acquire, or `g` is a release (R247, R263). Of an access that a fault holds, only a shared byte, another held access, or,
for an acquire, what the handler does not issue, is kept behind it (R376, R377). A load of a deterministic grid, captured at issue, is performed. -/
def Flight.blocks (e g : Flight) (b : Acc1) : Bool :=
  e.accs.any (fun a => a.got.isNone && (
    a.meets e.size (e.sc = 6) b g.size (g.sc = 6)
      || (a.held && (b.held || (e.acquires && !g.sup)))
      || (!a.held && ((e.stores && !g.stores) || e.acquires || g.releases))))

/-- Flight `e` must be performed before some access of the later flight `g`. -/
def Flight.before (e g : Flight) : Bool := g.accs.any (e.blocks g)

/-- Some access of the wave is held by a fault (R376). -/
def Wave.holds (w : Wave) : Bool := w.inflight.any (fun f => f.accs.any (·.held))

/-- An access `b` of a flight `g` is held behind a held access of an earlier flight `e`: they share a byte, or `e` is an acquire and the handler
does not issue `g` (R263, R376). -/
def Flight.keeps (e g : Flight) (b : Acc1) : Bool :=
  e.accs.any (fun a => a.held && (a.meets e.size (e.sc = 6) b g.size (g.sc = 6) || (e.acquires && !g.sup)))

/-- Every access that stands behind a held one is held (R376); the first list holds what is earlier. -/
def holdBehind : List Flight → List Flight → List Flight
  | _, [] => []
  | es, g :: gs =>
    let g' := { g with accs := g.accs.foldl (fun (done : List Acc1) b =>
      done ++ [if b.got.isNone && (es.any (fun e => e.keeps g b) || done.any (fun a => a.held && a.meets g.size (g.sc = 6) b g.size (g.sc = 6)))
        then { b with held := true } else b]) [] }
    g' :: holdBehind (es ++ [g']) gs

/-- A wave's accesses, those behind a held one held too. -/
def Wave.settle (w : Wave) : Wave := if w.holds then { w with inflight := holdBehind [] w.inflight } else w

/-- An access or a posted arrival of a wave's lanes is held by a fault: what engine entries wait for (R377). -/
def State.laneHeld (s : State) (id : WaveId) : Bool :=
  (s.wv id).holds || s.arrivals.any (fun a => a.held && a.wave = id && a.owner = .lane)

/-- Accesses of a flight performed at their places (R245, R246, R251), in ascending thread order. -/
def State.performAll (s : State) (id : WaveId) (f : Flight) (as : List (Acc1 × Place)) : State :=
  let lvl := levelOf f.sc
  let core := (s.wv id).core
  as.foldl (fun s p =>
    match f.kind with
    | .load _ =>
      let s := s.touchPlace core lvl p.2 f.size
      let v := s.readPlace core lvl p.2 f.size
      s.modWv id (fun w => w.deliver f.dst f.size p.1.t (extendLoad f.kind f.size v))
    | .store | .stc => s.doStore id lvl p.2 (leBytes f.size p.1.data)
    | .atomic op =>
      let (old, s) := s.doAtomic id op f.sc p.2 p.1.data p.1.cmp
      s.modWv id (fun w => w.deliver f.dst f.size p.1.t old)) s

/-- The owner of the window that a read of a line takes its bytes from, when this device holds no copy (R411, R412). -/
def State.peerFor (s : State) (pa : Nat) : Option Nat :=
  if (aget s.hostHalf (halfOf (pa / 128) 0)).isNone then windowOf pa else none

/-- The owner refuses an access of a core: it keeps the GiB closed. Its answer is free (R411, log 60). -/
def State.refuses (s : State) (core pa : Nat) : Bool :=
  match windowOf pa with
  | some d => Config.peerCloses d (pa % 2 ^ 44 / 2 ^ 30) s.nextUid (s.coreOf core).clock
  | none => false

/-- The access is answered by the owner of a window at once (R411). A store is answered when its bytes reach the owner. -/
def State.asksPeer (s : State) (f : Flight) (p : Place) : Option Nat :=
  match p with
  | .mem pa _ _ _ => if f.stores then none else if f.kind.isAtomic && 3 ≤ f.sc then windowOf pa else s.peerFor pa
  | .ls _ _ => none

/-- The wave that a deferred fault of a wave belongs to: itself, or the lowest live wave of its crew (R375). -/
def State.faultWave (s : State) (id : WaveId) : Option WaveId :=
  if !(s.wv id).exited then some id
  else (s.liveCrew (s.crewId id)).foldl (fun m i => match m with | none => some i | some j => if i.w < j.w then some i else some j) none

/-- The handler of a wave's deferred faults has returned (R377). -/
def State.handled (s : State) (id : WaveId) : Bool :=
  match s.faultWave id with
  | some j => (s.wv j).faults.isEmpty && !(s.wv j).sup
  | none => true

/-- The work of a wave may go on: its crew is bound or has ended, and its core is not halted (R380, R381). -/
def State.goes (s : State) (id : WaveId) : Bool :=
  let c := s.crewOf (s.crewId id)
  (c.bound || c.ended) && !(s.coreOf (s.wv id).core).halted

/-- One access of a flight: what a deterministic load captured is delivered; another is translated afresh and performed; a failed
re-translation, an uncorrectable error in what it is to read, or an owner's refusal, holds it and raises a deferred fault of ORIGIN 1 (R376, R379,
R411, log 73); a line opened since takes nothing, and its outcome is reported (R294, log 18). In a grid that is ending, an access that fails is dropped (R182). The answer is the access where it
stays. -/
def State.performOne (s : State) (id : WaveId) (f : Flight) (a : Acc1) : State × Option Acc1 :=
  let ending := (s.gridOf id.g).ending
  let hold := fun (s : State) (kind addr : Nat) =>
    if ending then (s, none) else (s.postFault id ⟨0x07, 1 * 32 + kind, addr⟩, some { a with held := true })
  match a.got with
  | some v => (s.modWv id (fun w => w.deliver f.dst f.size a.t (extendLoad f.kind f.size v)), none)
  | none =>
    let s := if f.sc = 6 then s else s.walked (s.wv id).core (s.ctxN id.g) a.addr
    match s.place id f.kind f.sc a.addr f.size with
    | .error t =>
      if t.cls = 0x06 then hold s t.sub (t.tval.getD 0)
      else if ending then (s, none)
      else (s.postFault id ⟨t.cls, 0x80 + t.sub, t.tval.getD 0⟩, none)
    | .ok p =>
      if !f.stores && s.placeBad (s.wv id).core p f.size then hold s 0x06 a.addr
      else match s.asksPeer f p with
      | none => (s.performAll id f [(a, p)], none)
      | some _ =>
        let closed := match p with | .mem pa _ _ _ => s.refuses (s.wv id).core pa | .ls _ _ => false
        let s := { s with nextUid := s.nextUid + 1 }
        if closed then hold s 0x01 a.addr else (s.performAll id f [(a, p)], none)

/-- ST counts no longer what owners of windows have acknowledged, of the waves whose stores those transactions carried (R170, R246). -/
def State.acked (s : State) (gone : List OpenTxn) : State :=
  ((gone.flatMap (·.sts)).map (·.1)).eraseDups.foldl (fun s id =>
    let done := (s.wv id).stOwed.filter (fun q => !s.owed id q)
    if done.isEmpty then s
    else s.modWv id (fun w => { w with stOwed := w.stOwed.filter (fun q => s.owed id q), st := w.st - done.length })) s

/-- The writes to windows that a store or write-back of a wave has opened, after the first `n`, keep it counted on ST (R170, R246, R258). -/
def State.countOwed (s : State) (n : Nat) (id : WaveId) : State :=
  if s.openTxn.length ≤ n then s
  else
    let s' := { s with nextUid := s.nextUid + 1 }.owing n id s.nextUid
    s'.modWv id (fun w => { w.up 2 with stOwed := w.stOwed ++ [s.nextUid] })

/-- The accesses of flight `k` of a wave that may be performed now are, in ascending thread order (R245, R246, R253, R376, R377): none before
an earlier one that must come first, no held one before its handler has returned, nor before an earlier arrival of the wave's lanes that is held;
what then stands behind a held one is held. With its last access the flight leaves, its counter falls, and an acquire takes place; ST counts a
store of scope `sy` until the owners of windows have acknowledged what it wrote there (R170, R246, R412). -/
def State.performFlight (s : State) (id : WaveId) (want : MemKind → Bool) (k : Nat) : State :=
  let w := s.wv id
  match w.inflight[k]? with
  | none => s
  | some f =>
    let ending := (s.gridOf id.g).ending
    let n := s.openTxn.length
    if !want f.kind then s
    else
      let (s, left) := f.accs.foldl (fun (r : State × List Acc1) a =>
        if (w.inflight.take k).any (fun e => e.blocks f a)
            || r.2.any (fun b => b.meets f.size (f.sc = 6) a f.size (f.sc = 6) || (a.held && b.held))
            || (a.held && !ending && (!r.1.handled id
              || r.1.arrivals.any (fun x => x.held && x.wave = id && x.owner = .lane && x.grp < f.seq))) then
          (r.1, r.2 ++ [a])
        else
          let (s, x) := r.1.performOne id f a
          (s, r.2 ++ x.toList)) (s, [])
      let s := if f.stores && f.sc = 5 then s.owing n id f.seq else s
      if left.isEmpty then
        let owed := f.stores && f.sc = 5 && s.owed id f.seq
        let s := s.modWv id (fun w =>
          let w := { w with inflight := w.inflight.eraseIdx k }
          if owed then { w with stOwed := w.stOwed ++ [f.seq] } else w.dn (memCtr f.kind f.uni))
        if f.acquires then s.acquire (s.wv id).core (levelOf f.sc) else s
      else s.modWv id (fun w => { w with inflight := w.inflight.set k { f with accs := left } }.settle)

end Sys2Proof.Machine
end

