-- ==== Sys2Proof/Machine/LoadStore.lean ====
section
/-! DEFINITION. What loads, stores, compress-stores, atomics, fences and cache operations do when they issue, and when a
deterministic grid performs them directly (R235-R260, R197). The constructors' meanings stand in Machine/Sync.lean. -/

namespace Sys2Proof.Machine

/-- Every earlier access of the wave is performed; in a handler, those that its fault holds do not count, since they go on after it
(R377). -/
def Wave.quiet (w : Wave) : Bool := w.inflight.all (fun f => f.accs.all (fun a => a.got.isSome || (w.sup && a.held)))

/-- A release at a level must wait until the owners of lines it wrote in their windows have acknowledged (R279, R412). -/
def State.mustAck (s : State) (lvl : Nat) : Bool :=
  lvl = 4 && (let r := s.writeDown s.cur s.w.core 4; r.2.isNone && r.1.unacked)

/-- A release at a level by the executing wave: the write-down, or its deferred fault at the instruction itself (R271). -/
def State.release (s : State) (lvl : Nat) (go : State → State) : State :=
  match s.writeDown s.cur s.w.core lvl with
  | (s, some a) => s.trap (.release a)
  | (s, none) => go s

/-- The level a memory instruction of the wave is performed at: its scope's, or the home in a deterministic grid, whose waves see
memory as the last serial phase left it (R197, log 11). -/
def Wave.memLevel (w : Wave) (sc : Nat) : Nat := if w.det then max 3 (levelOf sc) else levelOf sc

/-- Accesses with the places that their checks named. -/
def placed (as : List Acc1) (ps : List Place) : List Acc1 := (as.zip ps).map (fun p => { p.1 with place := some p.2 })

/-- An instruction's accesses join those in flight and it retires; with no access, an acquire takes place at once (R246, R263). -/
def State.postMem (s : State) (m : MemOp) (as : List Acc1) : State :=
  let w := s.w
  if as.isEmpty then
    let s := if m.acquires then s.acquire w.core (levelOf m.sc) else s
    s.modW (·.retire)
  else
    let f : Flight := ⟨m.kind, m.size, m.uni, m.sc, w.dstOf m, as, w.sup, s.nextUid⟩
    s.setW ({ w with inflight := w.inflight ++ [f] }.settle.up (memCtr m.kind m.uni)).retire

/-- The elements of a compress-store from the first on, their first failure, and the places before it (R249). -/
def State.stcPlan (s : State) (m : MemOp) (as : List Acc1) (j : Nat) : List Acc1 → List Place × Option (Nat × Trap)
  | [] => ([], none)
  | a :: rest => match s.place s.cur .store m.sc a.addr m.size with
    | .error t => ([], some (j, t))
    | .ok p => let r := s.stcPlan m as (j + 1) rest; (p :: r.1, r.2)

/-- Before its stores a compress-store checks `w60`, and every element for an open line (R249): the trap. -/
def State.stcTrap (s : State) (m : MemOp) (as : List Acc1) : Option Trap :=
  let n := (s.w.wr 60).toNat
  if as.length < n then some (.state 0x40)
  else (as.drop n).findSome? (fun a => match s.place s.cur .store m.sc a.addr m.size with
    | .error t => if t.cls = 0x05 then some t else none
    | .ok _ => none)

/-- The end of a compress-store that stored `k` elements from the first: `w60` and the trap of the failing one, or retirement
(R21, R249). -/
def State.stcEnd (s : State) (fail : Option (Nat × Trap)) : State :=
  match fail with
  | some (j, t) => (s.modW (fun w => w.setWr 60 (BitVec.ofNat 32 j))).trap t
  | none => s.modW (fun w => (w.setWr 60 0).retire)

/-- A compress-store issues: its stores join those in flight. -/
def State.issueStc (s : State) (m : MemOp) : State :=
  let as := s.w.accs m
  match s.stcTrap m as with
  | some t => s.trap t
  | none =>
    let go := fun (s : State) =>
      let n := (s.w.wr 60).toNat
      let (ps, fail) := s.stcPlan m as n (as.drop n)
      let els := placed (as.drop n) ps
      let s := if els.isEmpty then s
        else
          let f : Flight := ⟨.store, m.size, false, m.sc, .none, els, s.w.sup, s.nextUid⟩
          s.modW (fun w => { w with inflight := w.inflight ++ [f] }.settle.up 2)
      s.stcEnd fail
    if m.releases then s.release (levelOf m.sc) go else go s

/-- A memory instruction of a wave in ordinary mode issues (R170, R241-R253): none while a counter is at its limit, or while a
release must wait for earlier accesses. -/
def State.tryMem (s : State) (m : MemOp) : Option State :=
  let w := s.w
  if 63 ≤ w.ctr (memCtr m.kind m.uni) && !(w.accs m).isEmpty then none
  else if m.releases && !w.quiet then none
  else if m.kind = .stc then
    if (s.stcTrap m (w.accs m)).isNone && m.releases && s.mustAck (levelOf m.sc) then none else some (s.issueStc m)
  else
    let as := w.accs m
    match s.places s.cur m.kind m.sc m.size as with
    | .error t => some (s.trap t)
    | .ok ps =>
      let as := placed as ps
      if !m.releases then some (s.postMem m as)
      else if s.mustAck (levelOf m.sc) then none
      else some (s.release (levelOf m.sc) (fun s => s.postMem m as))

/-- An access of an instruction that performs its accesses at once is refused by the owner of a window: its address (R411). -/
def State.refusedAt (s : State) (f : Flight) (ps : List (Acc1 × Place)) : Option Nat :=
  (ps.find? (fun p => match p.2 with
    | .mem pa _ _ _ => (s.asksPeer f p.2).isSome && s.refuses s.w.core pa
    | .ls _ _ => false)).map (·.1.addr)

/-- The place of a read of `n` bytes of a line that an instruction makes as a uniform load does, with the state its walk leaves, or its trap (R192,
R193, R219, R224, R305): an open line in a deterministic grid, an uncorrectable error, or a refusal of a window's owner too (R243, R379, R411). -/
def State.uniPlace (s : State) (va n align : Nat) : Except Trap (Place × State) :=
  match s.check s.w.core (s.ctxN s.cur.g) va align .load with
  | .error e => .error (.xlat e va)
  | .ok l =>
    let p := Place.mem l.pa l.key (s.ctxN s.cur.g) va
    if s.w.det && (aget s.frames (l.pa / 128)).isSome then .error (.acc 0x02 va)
    else if s.readBad s.w p n then .error (.xlat 0x06 va)
    else if (s.peerFor l.pa).isSome && s.refuses s.w.core l.pa then .error (.refused va)
    else .ok (p, s.walked s.w.core (s.ctxN s.cur.g) va)

/-- A memory instruction performed directly in the serial phase of a deterministic grid (R197, R198). -/
def State.doMem (s : State) (m : MemOp) : State :=
  let w := s.w
  let lvl := w.memLevel m.sc
  let as := w.accs m
  let walk := fun (s : State) => if m.sc = 6 then s else s.walkedAll w.core (s.ctxN s.cur.g) (as.map (·.addr))
  let put := fun (s : State) (ps : List Place) (as : List Acc1) =>
    (as.zip ps).foldl (fun s p => s.doStore s.cur lvl p.2 (leBytes m.size p.1.data)) s
  let rel := fun (s : State) (go : State → State) => if m.releases then s.release lvl go else go s
  let owe := fun (n : Nat) (s : State) => if lvl = 4 then s.countOwed n s.cur else s
  if m.kind = .stc then
    match s.stcTrap m as with
    | some t => s.trap t
    | none => rel s (fun s =>
        let n := (s.w.wr 60).toNat
        let (ps, fail) := s.stcPlan m as n (as.drop n)
        (owe s.openTxn.length (put (walk s) ps (as.drop n))).stcEnd fail)
  else match s.places s.cur m.kind m.sc m.size as with
    | .error t => s.trap t
    | .ok ps => rel s (fun s =>
        let sc := if m.sc = 6 then 6 else lvl + 1
        let f : Flight := ⟨m.kind, m.size, m.uni, sc, w.dstOf m, as, w.sup, s.nextUid⟩
        match s.refusedAt f (as.zip ps) with
        | some va => State.trap { s with nextUid := s.nextUid + 1 } (.refused va)
        | none =>
        let opened := s.openTxn.length
        let s := (walk s).performAll s.cur f (as.zip ps)
        let s := if f.stores then owe opened s else s
        let s := if m.acquires then s.acquire w.core lvl else s
        s.modW (·.retire))

/-- A counter at its limit keeps the instruction from issuing (R170). In a deterministic grid ST, EC and FL count what the commit buffer
holds, and only the commit phase performs it: the wave stops for the round, as at a full buffer (log 57). -/
def State.atLimit (s : State) (ctr : Nat) : State :=
  if s.w.det && 2 ≤ ctr then s.modW (fun w => { w with stopped := some .full }) else s.wait (.again ctr)

/-- Stores join the commit buffer when its 64 lines allow, and count on ST until they are performed (R170, log 57); otherwise the wave stops
before the instruction: as a full buffer, or, when the buffer holds nothing at all, as before a synchronising instruction (R197). -/
def State.hold (s : State) (op : LongOp) (ws : List (Place × List Byte)) (go : State → State) : State :=
  let w := s.w
  let lines := ((w.held ++ ws).map (fun p => p.1.line)).eraseDups
  if ws.isEmpty then go s
  else if lines.length ≤ 64 then go (s.setW ({ w with buf := w.buf ++ [BufOp.stores ws] }.up 2))
  else s.setW { w with stopped := some (if w.buf.isEmpty then .sync op else .full) }

/-- A plain load, store or compress-store of a deterministic grid (R197, R243): a load captures its value, its own buffer first; a
store is held. -/
def State.detMem (s : State) (m : MemOp) : State :=
  let w := s.w
  let as := w.accs m
  if m.kind = .stc then
    match s.stcTrap m as with
    | some t => s.trap t
    | none =>
      let n := (w.wr 60).toNat
      let (ps, fail) := s.stcPlan m as n (as.drop n)
      s.hold (.mem m) (ps.zip ((as.drop n).map (fun a => leBytes m.size a.data))) (fun s => s.stcEnd fail)
  else match s.places s.cur m.kind m.sc m.size as with
    | .error t => s.trap t
    | .ok ps =>
      match m.kind with
      | .load _ =>
        match s.refusedAt ⟨m.kind, m.size, m.uni, m.sc, .none, as, w.sup, s.nextUid⟩ (as.zip ps) with
        | some va => State.trap { s with nextUid := s.nextUid + 1 } (.refused va)
        | none =>
        let s := if m.sc = 6 then s else s.walkedAll w.core (s.ctxN s.cur.g) (as.map (·.addr))
        let s := ps.foldl (fun s p => s.touchPlace w.core (w.memLevel m.sc) p m.size) s
        s.postMem m ((as.zip ps).map (fun p => { p.1 with got := some (s.readDet w (w.memLevel m.sc) p.2 m.size), place := some p.2 }))
      | _ => s.hold (.mem m) (ps.zip (as.map (fun a => leBytes m.size a.data))) (fun s => s.modW (·.retire))

/-! ### Fences (R254-R256) -/

/-- The wave's part in a transfer that has not completed. -/
def Xfer.has (x : Xfer) (id : WaveId) : Bool := x.slices.any (fun p => p.wave = id)

/-- The transfer posts arrivals. -/
def Xfer.reduces (x : Xfer) : Bool := x.minor = 2 || (match x.job with | some j => j.kind = 5 | none => false)

/-- The matrix commands of a wave that have not left: those of its core's queue, and those that wait for room in it (R327). -/
def State.mmOf (s : State) (id : WaveId) : List MatCmd :=
  ((s.coreOf (s.wv id).core).mq ++ (s.crewOf (s.crewId id)).cmds).filter (fun c => c.wave = id)

/-- Every earlier engine command of the wave has completed. -/
def State.engDone (s : State) (id : WaveId) : Bool :=
  (s.mmOf id).isEmpty && !(s.crewOf (s.crewId id)).xfers.any (fun x => x.has id)

/-- Every earlier arrival of the wave has been applied or rejected (R255, R304). -/
def State.accDone (s : State) (id : WaveId) : Bool :=
  !s.posted.any (fun a => a.wave = id)
    && !(s.mmOf id).any (fun c => 0x10 ≤ c.minor && c.minor < 0x20)
    && !(s.crewOf (s.crewId id)).xfers.any (fun x => x.has id && x.reduces)
    && !(s.wv id).inflight.any (fun f => match f.kind with | .atomic op => op < 4 | _ => false)

/-- The device's bytes of every line of the system range go to the host and the owners (R279, R409). -/
def State.sysOut (s : State) : State := (s.llcKey.map (·.1)).foldl State.evictSys s

/-- What a fence of some classes at `sy` sends to the host and to the owners of windows: the core's dirty lines for `mem`, and what engines wrote for
`eng` (R256, R279). -/
def State.fenceOut (s : State) (cls : Nat) : State :=
  let s := if bit cls 0 then (s.writeDown s.cur s.w.core 4).1 else s
  if bit cls 1 then s.sysOut else s

/-- Something of it has not been sent yet. -/
def State.sendsOut (s : State) (cls : Nat) : Bool :=
  (bit cls 0 && !(s.dirtyLines s.w.core 4).isEmpty) || s.llcKey.any (fun p => isSysLine p.1)

/-- A fence has to wait for acknowledgements only: what it has waited for besides holds (R255, R279). -/
def State.fenceAcks (s : State) (cls sc : Nat) : Bool :=
  (bit cls 0 && s.mustAck (levelOf sc)) || (bit cls 1 && sc = 5 && s.sysOut.unacked)

/-- What a fence of some classes waits for, acknowledgements apart, is done (R213, R255). -/
def State.fenceDone (s : State) (id : WaveId) (cls : Nat) : Bool :=
  let w := s.wv id
  (w.quiet || !(bit cls 0 || bit cls 3)) && (s.engDone id || !bit cls 1) && (s.accDone id || !bit cls 2) && (w.fl = 0 || !bit cls 3)

/-- A fence (R213, R255, R256): none while it waits. `fs` waits for the operations that FL counts, a hit-count increment not among them (R213,
log 70). At `sy` what its engine commands wrote has reached the host and been acknowledged by the owners (R279); where the fence began to wait
before it could send, it sends once it can, and goes on waiting. -/
def State.tryFence (s : State) (cls sc : Nat) : Option State :=
  let id := s.cur
  let w := s.w
  if !s.fenceDone id cls then none
  else if s.fenceAcks cls sc then (if w.hold.isSome && s.sendsOut cls then some (s.fenceOut cls) else none)
  else if bit cls 0 then
    some (s.release (w.memLevel sc) (fun s =>
      (s.acquire w.core (levelOf sc)).modW (·.retire)))
  else some ((if bit cls 1 && sc = 5 then s.sysOut else s).modW (·.retire))

/-! ### Cache operations (R257-R259) -/

/-- A dirty byte of a line at the levels that a cache operation writes down: the core's L1, for level 1 and wider the L2, for level 2 and
wider the sector's copy, and at `sy`, for a line of the system range, the home slice (R258). -/
def State.dirtyAbove (s : State) (core ln lvl : Nat) : Bool :=
  let d := fun (c : Option CLine) => match c with | some c => c.isDirty | none => false
  d (s.l1Line core ln) || (1 ≤ lvl && d (s.l2Line core ln)) || (2 ≤ lvl && d (s.scLine core ln))
    || (4 ≤ lvl && isSysLine ln && s.homeDirty ln)

/-- Where thread t's line is, for `cwb` and `cinv`: nowhere on a page not mapped or not readable, in the aperture or on an open line
(R237, R259, R390, log 19), nor, for `cinv`, on a page without W of whose line no byte is dirty; a dirty byte there raises
write-protection. A bad table entry and an EMPTY key slot keep their kinds (R392, R396). An address whose bits [63:49] are not zero counts as a page
that is not mapped: no effect and no fault, which is the model's choice (R13, R241, log 19). -/
def State.cleanPlace (s : State) (lvl va : Nat) : Except Trap (Option (Nat × Nat)) :=
  if 2 ^ 49 ≤ va || inAperture va then .ok none
  else match s.translate s.w.core (s.ctxN s.cur.g) va .load with
    | .error k => if k = 0x06 || k = 0x09 then .error (.xlat k va) else .ok none
    | .ok l =>
      let ln := l.pa / 128
      if (aget s.frames ln).isSome then .ok none
      else if l.w then .ok (some (ln, l.key))
      else if s.dirtyAbove s.w.core ln lvl then .error (.xlat 0x02 va)
      else .ok none

/-- Where thread t's line is, for `cinvd`: checked as a store without alignment; an open line raises ACC_DISCARD (R241, R259). -/
def State.discardPlace (s : State) (va : Nat) : Except Trap (Option (Nat × Nat)) :=
  if 2 ^ 49 ≤ va then .error (.xlat 0x01 va)
  else if inAperture va then .ok none
  else match s.translate s.w.core (s.ctxN s.cur.g) va .store with
    | .error k => .error (.xlat k va)
    | .ok l => if (aget s.frames (l.pa / 128)).isSome then .error (.acc 0x03 va) else .ok (some (l.pa / 128, l.key))

/-- The line a `pref` fetches, if any: none that has a dirty byte in the core's L1 (R258, R259). -/
def State.fetchPlace (s : State) (va : Nat) : Except Trap (Option (Nat × Nat)) :=
  if 2 ^ 49 ≤ va || inAperture va then .ok none
  else match s.translate s.w.core (s.ctxN s.cur.g) va .load with
    | .error _ => .ok none
    | .ok l =>
      if s.dirtyAbove s.w.core (l.pa / 128) 0 then .ok none else .ok (some (l.pa / 128, l.key))

/-- `cwb` of a line (R258): at `dv` and `sy` the sector's copy is written home too. -/
def State.cwbLine (s : State) (core ln lvl : Nat) : State :=
  let s := s.down core ln lvl
  let s := if 3 ≤ lvl then s.recallSC' ln (fun sec _ => sec = sectorOf core) else s
  if lvl = 4 then s.evictSys ln else s

/-- `cinv` of a line (R258): its dirty bytes go below every level that drops it, to the L2 at `wv` and `cr`, to the sector at `gg`, home at
`sp` and wider. -/
def State.cinvLine (s : State) (core ln lvl : Nat) : State :=
  let s := s.down core ln (if lvl = 0 then 1 else if lvl = 1 then 2 else 3)
  let s := if 2 ≤ lvl then s.recallSC' ln (fun sec _ => sec = sectorOf core) else s
  let s := s.dropLine core ln lvl
  if lvl = 4 then s.evictSys ln else s

/-- `cinvd` of a line (R258). -/
def State.cinvdLine (s : State) (core ln lvl : Nat) : State :=
  let s := s.dropLine core ln lvl
  if lvl < 3 then s
  else if isSysLine ln && lvl < 4 then s else s.homeDiscard ln

/-- A per-lane cache operation: every active thread is checked before any line is touched (R242). -/
def State.cacheOp (s : State) (a b : Code) (place : State → Nat → Except Trap (Option (Nat × Nat)))
    (eff : State → Nat → Nat → Nat → State) : State :=
  let w := s.w
  let vas := w.actives.map (fun t => (w.vr2 a t + sx64 (w.vr b t)).toNat)
  match vas.findSome? (fun va => match place s va with | .error t => some t | .ok _ => none) with
  | some t => s.trap t
  | none =>
    let s := vas.foldl (fun s va => match place s va with
      | .ok (some (ln, key)) => eff s w.core ln key
      | _ => s) (s.walkedAll w.core (s.ctxN s.cur.g) vas)
    s.modW (·.retire)

end Sys2Proof.Machine
end

