-- ==== Sys2Proof/Machine/Accum.lean ====
section
/-! DEFINITION. Accumulation sessions: opening, arrivals, seals and the instructions of major 0x12 (R282-R306). -/

namespace Sys2Proof.Machine

/-- Frames of a slice (00_scope.md). -/
abbrev sliceFrames : Nat := 1024

/-- The state with a session entry replaced. -/
def State.setSession (s : State) (ctx i : Nat) (e : Session) : State :=
  let c := s.ctxOf ctx
  s.setCtx ctx { c with sessions := aput c.sessions i e }

/-- The entry of a current handle that is not FREE (R283, R304). -/
def State.current (s : State) (ctx handle : Nat) : Option (Nat × Session) :=
  let i := handle % 4096
  let e := (s.ctxOf ctx).session i
  if e.state ≠ 0 && e.seq = handle / 4096 then some (i, e) else none

/-- Why an arrival is rejected at a physical address (R289, R294, R296): on a line not open, by how it was last sealed. -/
def State.rejection (s : State) (pa : Nat) (v : AVal) : Option Nat :=
  match aget s.frames (pa / 128) with
  | some f => f.rejects (pa % 128) v
  | none => if s.brokenLines.contains (pa / 128) then some 0x04 else some 0x05

/-- An arrival at its slice: applied, or the code of its rejection, which leaves the frame untouched (R286, R288, R296). -/
def State.takeArrival (s : State) (pa : Nat) (v : AVal) : Except Nat State :=
  match s.rejection pa v with
  | some e => .error e
  | none =>
    let ln := pa / 128
    match aget s.frames ln with
    | some f => .ok (State.mirrorFrame { s with frames := aput s.frames ln (f.arrive (pa % 128) v) } ln)
    | none => .ok s

/-- An arrival reaches its slice: it is applied, or rejected and reported to its wave (R286, R288, R296). One to a line of a peer's window is sent
to its owner, and waits for the answer (R412). -/
def State.arriveAt (s : State) (a : Arrival) : State :=
  match windowOf a.pa with
  | some d => s.sendArrival d a
  | none => match s.takeArrival a.pa a.val with
    | .error e => s.postFault a.wave ⟨0x05, 0x80 + e, a.va⟩
    | .ok t => t

/-- An arrival is posted on its source's channel to its slice (R295). Sources of a core: 0 lane port, 1 matrix engine, 2 transfer
engine, 3 grid transfer. -/
def State.postArrival (s : State) (src : Nat) (id : WaveId) (grp : Nat) (owner : ArrOwner) (va pa : Nat) (v : AVal) : State :=
  let src := (s.wv id).core * 4 + src
  let ch := (src, s.sliceOf (pa / 128))
  let n := (aget s.chanNum ch).getD 0 + 1
  { s with chanNum := aput s.chanNum ch n,
           arrivals := s.arrivals ++ [⟨src, ch.2, n, id, grp, owner, va, pa, v, false⟩] }

/-! ### Opening and sealing -/

/-- The quota of a context does not allow that many more open lines (R290). -/
def State.overQuota (s : State) (ctx n : Nat) : Bool := (s.ctxOf ctx).quota < (s.frames.filter (fun p => p.2.ctx = ctx)).length + n

/-- A home slice has no room for the frames of some lines (R285, R290). -/
def State.lacksFrames (s : State) (lines : List Nat) : Bool :=
  lines.any (fun l =>
    let sl := s.sliceOf l
    sliceFrames < (s.frames.filter (fun p => p.2.spilled.isNone && s.sliceOf p.1 = sl)).length
      + (lines.filter (fun m => s.sliceOf m = sl)).length)

/-- The entry an `aopen` of lines would take now: the lowest FREE or SEALED one, when each home slice has room for its frames and the
context's quota allows (R282, R290). -/
def State.canOpen (s : State) (ctx : Nat) (lines : List Nat) : Option Nat :=
  let c := s.ctxOf ctx
  if s.overQuota ctx lines.length || s.lacksFrames lines then none
  else (List.range 4096).find? (fun i => let e := c.session i; e.state = 0 || e.state = 3)

/-- One line becomes accumulating: every copy goes home and is dropped, the host's is recalled, and its frame is made
(R284, R293, R302). -/
def State.openLine (s : State) (ctx idx ctrl ln key : Nat) : State :=
  let s := ((((s.flushLine ln).recallPeer ln).recallHost ln [0, 64]).noPeers ln)
  { s with frames := aput s.frames ln (Frame.open_ ctx idx ctrl key (tab 128 (s.homeByte ln key))),
           dirs := aput s.dirs ln (((aget s.dirs ln).getD 0) ||| (1#48 <<< 17)) }

/-- An `aseal` that waits for the session of an entry keeps its flags (R304). -/
def Hold.capture (i flags : Nat) (h : Hold) : Hold :=
  match h.op with
  | .aseal d a (some (j, none)) => if j = i then { h with op := .aseal d a (some (i, some flags)) } else h
  | _ => h

/-- A session is opened on an entry (R282, R283); what waits for the one that was sealed there keeps its flags. -/
def State.openSession (s : State) (ctx grid i ctrl base : Nat) (lines : List (Nat × Nat)) : Nat × State :=
  let old := (s.ctxOf ctx).session i
  let s := { s with waves := s.waves.map (fun (p : WaveId × Wave) =>
    if s.ctxN p.1.g = ctx then (p.1, { p.2 with hold := p.2.hold.map (Hold.capture i old.flags) }) else p) }
  let e : Session := ⟨1, if old.seq + 1 = 2 ^ 20 then 1 else old.seq + 1, ctrl, base, 0, false, grid, lines.map (·.1)⟩
  (e.handle i, lines.foldl (fun s l => s.openLine ctx i ctrl l.1 l.2) (s.setSession ctx i e))

/-- One line of a session is sealed: its values are written at its home as ordinary data, its frame is freed, and the session is SEALED
with its last line (R283, R287, R304). -/
def State.sealLine (s : State) (ctx i ln : Nat) : State :=
  match aget s.frames ln with
  | none => s
  | some f =>
    if f.ctx ≠ ctx || f.idx ≠ i then s
    else
      let e := (s.ctxOf ctx).session i
      let others := s.brokenLines.filter (· ≠ ln)
      let s := { s with frames := adel s.frames ln, brokenLines := if e.broken then ln :: others else others,
                        dirs := aput s.dirs ln (((aget s.dirs ln).getD 0) &&& ~~~ (1#48 <<< 17)) }
      let s := match f.spilled with
        | some slot => let c := s.ctxOf ctx; s.setCtx ctx { c with slots := c.slots.filter (· ≠ slot) }
        | none => s
      let s := s.homeWrite ln f.key (tab 128 (fun j => (j, f.bytes.getD j 0)))
      let e := (s.ctxOf ctx).session i
      let e := { e with flags := e.flags ||| f.flags }
      let left := s.frames.any (fun p => p.2.ctx = ctx && p.2.idx = i)
      s.setSession ctx i (if left then e else { e with state := 3 })

/-- The seal of a session begins (R283). -/
def State.startSeal (s : State) (ctx i : Nat) (broken : Bool) : State :=
  let e := (s.ctxOf ctx).session i
  if e.state = 1 then
    s.setSession ctx i { e with state := 2, broken := broken, flags := e.flags ||| (if broken then 0x100 else 0) }
  else s

/-- A session is sealed whole, every line at this instant. -/
def State.sealAll (s : State) (ctx i : Nat) (broken : Bool) : State :=
  let s := s.startSeal ctx i broken
  ((s.ctxOf ctx).session i).lines.foldl (fun s l => s.sealLine ctx i l) s

/-! ### Instructions -/

/-- The lines `aopen` names, checked in order (R302): physical line and key id. -/
def State.openLines (s : State) (base : Nat) : Nat → Nat → Except Trap (List (Nat × Nat × Nat))
  | 0, _ => .ok []
  | n + 1, k =>
    let va := (base + 128 * k) % 2 ^ 64
    match s.check s.w.core (s.ctxN s.cur.g) va 128 .write with
    | .error e => .error (.xlat e va)
    | .ok l =>
      if !l.ap then .error (.acc 0x09 va)
      else (s.openLines base n (k + 1)).map ((l.pa / 128, l.key, va) :: ·)

/-- The executing wave's core holds dirty bytes of its own stores. -/
def State.ownsDirty (s : State) : Bool := (s.dirtyLines s.w.core 3).any (fun d => d.line.owners.contains s.cur)

/-- `aopen` and `aopennb` (R302; ACC_CONTROL leaves `tvall` and `tvalh` as they are, log 37): none while `aopen` waits, or while its release waits for earlier accesses; where its wait began before the
release could be performed, that is performed, and it goes on waiting. -/
def State.tryAopen (s : State) (nb : Bool) (d a b : Nat) : Option State :=
  let w := s.w
  let c := (w.ws (BitVec.ofNat 7 b)).toNat
  let base := (w.wr2 a).toNat
  if badControl c then some (s.trap { cls := 0x05, sub := 0x0A })
  else if base % 128 ≠ 0 then some (s.trap (.xlat 0x03 base))
  else match s.openLines base (bits c 31 20) 0 with
    | .error t => some (s.trap t)
    | .ok ls =>
      match ls.find? (fun l => (aget s.frames l.1).isSome) with
      | some l => some (s.trap (.acc 0x07 l.2.2))
      | none =>
        if !w.quiet then none
        else match s.canOpen (s.ctxN s.cur.g) (ls.map (·.1)) with
          | none =>
            if nb then some (s.release 3 (fun s => s.modW (fun w => (w.setWr d 0).retire)))
            else match s.writeDown s.cur w.core 3 with
              | (s, some x) => some (s.trap (.release x))
              | (t, none) => if w.hold.isSome && s.ownsDirty then some t else none
          | some i => some (s.release 3 (fun s =>
              let s := s.walkedAll w.core (s.ctxN s.cur.g) (ls.map (·.2.2))
              let (h, s) := s.openSession (s.ctxN s.cur.g) s.cur.g i c base (ls.map (fun l => (l.1, l.2.1)))
              s.modW (fun w => if nb then (w.setWr d (BitVec.ofNat 32 h)).retire
                else (w.setWr d (BitVec.ofNat 32 h)).retireYield)))

/-- The arrivals of `ared`: thread, virtual and physical address (R303). -/
def State.aredPlaces (s : State) (base stride size : Nat) : List Nat → Except Trap (List (Nat × Nat × Nat))
  | [] => .ok []
  | t :: ts =>
    let va := (base + t * stride) % 2 ^ 64
    match s.check s.w.core (s.ctxN s.cur.g) va size .write with
    | .error e => .error (.xlat e va)
    | .ok l => if !l.ap then .error (.acc 0x09 va) else (s.aredPlaces base stride size ts).map ((t, va, l.pa) :: ·)

/-- The line holds a frame in FAST mode, or may: the mode of a line in a peer's window is its owner's (R300, log 26). -/
def State.isFast (s : State) (pa : Nat) : Bool :=
  (windowOf pa).isSome || (match aget s.frames (pa / 128) with | some f => !f.exact | none => false)

/-- `ared` of a type (R303); in a deterministic grid EXACT arrivals are applied at once and FAST ones are held, counted on EC until the commit
phase has applied them (R170, R300). -/
def ared (ty : Nat) (d a b : Code) (s : State) : Out :=
  s.guarded [⟨if ty % 2 = 0 then .vSrc else .vSrcP, d.toNat⟩, ⟨.wSrc, b.toNat⟩] (fun s =>
    let w := s.w
    let id := s.cur
    let val := fun t => if ty % 2 = 0 then (w.vr d t).toNat else (w.vr2 d t).toNat
    if w.actives.isEmpty then s.modW (·.retire)
    else if 63 ≤ w.ec then s.atLimit 3
    else match s.aredPlaces (w.wr2 a.toNat).toNat (w.ws b).toNat (tySize ty) w.actives with
      | .error t => s.trap t
      | .ok ps =>
        if w.det then
          let grp := s.nextUid
          let one := fun (p : Nat × Nat × Nat) => (⟨w.core * 4, 0, 0, id, grp, .lane, p.2.1, p.2.2, .code ty (val p.1), false⟩ : Arrival)
          let s := ps.foldl (fun s p => if s.isFast p.2.2 then s else (s.walked w.core (s.ctxN id.g) p.2.1).arriveAt (one p)) { s with nextUid := grp + 1 }
          let held := (ps.filter (fun p => s.isFast p.2.2)).map (fun p => BufOp.arrival (one p))
          s.modW (fun w => (if held.isEmpty then w else { w with buf := w.buf ++ held }.up 3).retire)
        else
          let grp := s.nextUid
          let s := { s with nextUid := grp + 1 }
          (ps.foldl (fun s p => s.postArrival 0 id grp .lane p.2.1 p.2.2 (.code ty (val p.1))) s).modW (fun w => (w.up 3).retire))

/-- `ARED_F32` (R303). -/
def execAredF32 (d a b : Code) (s : State) : Out := ared 0 d a b s
/-- `ARED_F64` (R303). -/
def execAredF64 (d a b : Code) (s : State) : Out := ared 1 d a b s
/-- `ARED_S32` (R303). -/
def execAredS32 (d a b : Code) (s : State) : Out := ared 2 d a b s
/-- `ARED_S64` (R303). -/
def execAredS64 (d a b : Code) (s : State) : Out := ared 3 d a b s

/-- The session that an `aseal` names, checked once, when it issues (R304): its entry, and its flags where another session has taken the entry since;
none for a handle that is not current. -/
def State.sealing (s : State) (a : Nat) (got : Option (Nat × Option Nat)) : Option (Nat × Option Nat) :=
  match got with
  | some x => some x
  | none => (s.current (s.ctxN s.cur.g) (s.w.ws (BitVec.ofNat 7 a)).toNat).map (fun x => (x.1, none))

/-- `aseal` (R304; ACC_HANDLE leaves `tvall` and `tvalh` as they are, log 37): none while it waits; in a deterministic grid every line is sealed at once (R300, log 11). -/
def State.tryAseal (s : State) (d a : Nat) (got : Option (Nat × Option Nat)) : Option State :=
  let ctx := s.ctxN s.cur.g
  let put := fun (s : State) (flags : Nat) => s.modW (fun w => (w.setWr d (BitVec.ofNat 32 flags)).retire)
  match s.sealing a got with
  | none => some (s.trap { cls := 0x05, sub := 0x08 })
  | some (i, flags) =>
    if !s.accDone s.cur || !s.w.quiet then none
    else match flags with
      | some f => some (s.release 3 (fun s => put s f))
      | none =>
        let state := ((s.ctxOf ctx).session i).state
        let fin := fun (s : State) => put s ((s.ctxOf ctx).session i).flags
        if state = 2 then none
        else some (s.release 3 (fun s =>
          if state = 3 then fin s
          else if s.w.det then fin (s.sealAll ctx i false)
          else (s.startSeal ctx i false).wait (.aseal d a (some (i, none)))))

/-- `ASNAP` (R305): a read of 8 bytes as a uniform load makes it, completed at its retirement. -/
def execAsnap (d a : Code) (s : State) : Out :=
  let w := s.w
  let va := (w.wr2 a.toNat).toNat
  .next (match s.uniPlace va 8 8 with
    | .error t => s.trap t
    | .ok (p, s) =>
      if !w.quiet then s.wait (.again 5)
      else
        let s := s.touchPlace w.core (w.memLevel 0) p 8
        let v := if w.det then s.readDet w 3 p 8 else s.readPlace w.core 0 p 8
        s.modW (fun w => (w.setWr2 d.toNat (BitVec.ofNat 64 v)).retire))

/-- The status word of a session (R306). -/
def State.sessionStatus (s : State) (ctx i : Nat) (e : Session) : Nat :=
  let fr := s.frames.filter (fun p => p.2.ctx = ctx && p.2.idx = i)
  let fl := if e.state = 3 then e.flags else fr.foldl (fun m p => m ||| p.2.flags) e.flags
  fl % 32 * 2 ^ 11 + (if e.broken then 2 ^ 10 else 0) + (if fr.any (fun p => p.2.spilled.isSome) then 2 ^ 9 else 0)
    + (if bit e.ctrl 2 then 2 ^ 8 else 0) + e.ctrl % 4 * 2 ^ 6 + e.state

/-- `AQRY` (R306). -/
def execAqry (d a : Code) (s : State) : Out :=
  s.guarded [⟨.wSrc, a.toNat⟩] (fun s =>
    let ctx := s.ctxN s.cur.g
    let v := match s.current ctx (s.w.ws a).toNat with
      | none => 0
      | some (i, e) => s.sessionStatus ctx i e
    s.modW (fun w => (w.setWr d.toNat (BitVec.ofNat 32 v)).retire))

end Sys2Proof.Machine
end

