-- ==== Sys2Proof/Machine/Control.lean ====
section
/-! DEFINITION. Branches, jumps, tokens, `exit` and the system instructions: majors 0x0B, 0x0C and 0x0D, but for the waiting
instructions (R122-R138, R143-R149, R167-R169). -/

namespace Sys2Proof.Machine

/-- The target of a B-form word (R45). -/
def Wave.target (w : Wave) (off : BitVec 24) : BitVec 49 := w.pc + (off.signExtend 49 <<< 2)

/-- A uniform branch (R125). -/
def branch (taken : Wave → Bool) (off : BitVec 24) (s : State) : Out :=
  .next (s.modW (fun w => if taken w then w.retireTo (w.target off) else w.retire))

/-- `BR` (R125). -/
def execBr (off : BitVec 24) (s : State) : Out := branch (fun _ => true) off s
/-- `BZ` (R125). -/
def execBz (off : BitVec 24) (s : State) : Out := branch (fun w => w.wr 56 == 0) off s
/-- `BNZ` (R125). -/
def execBnz (off : BitVec 24) (s : State) : Out := branch (fun w => w.wr 56 != 0) off s

/-- PC + 4 as a 64-bit value. -/
def Wave.link (w : Wave) : BitVec 64 := (w.pc + 4).setWidth 64

/-- `CALL` (R125). -/
def execCall (off : BitVec 24) (s : State) : Out :=
  .next (s.modW (fun w => (w.setWr2 54 w.link).retireTo (w.target off)))

/-- The trap of a jump target whose form is wrong (R123). -/
def jumpTrap (t : BitVec 64) : Option Trap :=
  if 2 ^ 49 ≤ t.toNat then some (.xlat 0x01 t.toNat) else if t.toNat % 4 ≠ 0 then some (.xlat 0x03 t.toNat) else none

/-- A register jump; `pre` is what it writes besides PC (R123, R126). -/
def State.jump (s : State) (t : BitVec 64) (pre : Wave → Wave) : State :=
  match jumpTrap t with
  | some tr => s.trap tr
  | none => s.modW (fun w => (pre w).retireTo (t.setWidth 49))

/-- `RET` (R126). -/
def execRet (s : State) : Out := .next (s.jump (s.w.wr2 54) id)
/-- `JR` (R126). -/
def execJr (a : Code) (s : State) : Out := .next (s.jump (s.w.ws2 a) id)
/-- `JALR` (R126). -/
def execJalr (d a : Code) (s : State) : Out := .next (s.jump (s.w.ws2 a) (fun w => w.setWr2 d.toNat w.link))

/-! ### Tokens -/

/-- `SPLIT` (R168). -/
def execSplit (off : BitVec 24) (s : State) : Out :=
  let w := s.w
  .next (match s.push ⟨0, (w.target off).toNat, w.wr 61, w.wr 62, w.wr 63⟩ with
    | none => s.trap (.state 0x10)
    | some s => s.modW (·.retire))

/-- `BL` (R143). -/
def execBl (off : BitVec 24) (s : State) : Out :=
  let w := s.w
  let t := fun b => w.wr (61 + b) &&& w.wr (57 + b)
  let f := fun b => w.wr (61 + b) &&& ~~~ w.wr (57 + b)
  .next (if t 0 = 0 && t 1 = 0 && t 2 = 0 then s.modW (·.retire)
    else if f 0 = 0 && f 1 = 0 && f 2 = 0 then s.modW (fun w => w.retireTo (w.target off))
    else match s.push ⟨1, (w.target off).toNat, t 0, t 1, t 2⟩ with
      | none => s.trap (.state 0x10)
      | some s => s.modW (fun w => (w.setMask (f 0) (f 1) (f 2)).retire))

/-- Pops until a token installs a nonzero mask (R144): `chained` once a zero mask has been installed. The answer is the state with
PC where the wave goes on, or the trap. A path that a token holds runs only once a pop installs its mask: nothing suspends the path that runs for
it (R152). -/
def State.popTo : Nat → Bool → State → Except Trap State
  | 0, _, _ => .error (.state 0x11)
  | n + 1, chained, s =>
    match s.pop with
    | .error e => .error e
    | .ok (t, s') =>
      if t.kind = 2 then .error (.state 0x13)
      else if t.kind = 0 && !chained && t.addr ≠ s.w.pc.toNat then .error (.state 0x12)
      else
        let s' := s'.modW (fun w => { w.setMask t.m0 t.m1 t.m2 with
          pc := BitVec.ofNat 49 (if t.kind = 1 then t.addr else t.addr + 4) })
        if s'.w.idle then s'.popTo n true else .ok s'

/-- The popping of `join` and of a `brk` that leaves no thread (R144, R145): the trap leaves everything as it was. -/
def State.popOrTrap (s : State) (chained : Bool) : State :=
  match s.popTo (s.w.depth + 1) chained with
  | .error t => s.trap t
  | .ok s' => s'.modW (fun w => w.retireTo w.pc)

/-- `JOIN` (R144, R169). -/
def execJoin (s : State) : Out := .next (s.popOrTrap false)

/-- The token without the threads of a mask. -/
def Token.without (t : Token) (m : Nat → Word) : Token :=
  { t with m0 := t.m0 &&& ~~~ m 0, m1 := t.m1 &&& ~~~ m 1, m2 := t.m2 &&& ~~~ m 2 }

/-- Depth, counted from the top, of the innermost RECONV token of an address (R145), above the FCALL token that bounds a miss routine's
stack (R216). -/
def loopDepth (ts : List Token) (a : Nat) : Option Nat :=
  (ts.takeWhile (fun t => t.kind ≠ 2)).findIdx? (fun t => t.kind = 0 && t.addr = a)

/-- The whole token stack, newest first; spilled tokens as their bytes stand. -/
def State.stack (s : State) : List Token :=
  s.w.tokens ++ tab s.w.spilled (fun i => s.cr.tokRead (s.cr.tokAt s.crewIdx (s.w.spilled - 1 - i)))

/-- The first spilled token that holds an uncorrectable error among those that a search of the stack for a loop's token reads (R145, R230). -/
def State.stackBad (s : State) (a : Nat) : Option Nat :=
  let n := match loopDepth s.stack a with
    | some n => n + 1
    | none => (s.stack.takeWhile (fun t => t.kind ≠ 2)).length + 1
  (tab (min s.w.spilled (n - s.w.tokens.length)) (fun i => s.cr.tokAt s.crewIdx (s.w.spilled - 1 - i))).find? s.cr.tokBad

/-- Threads cleared from the masks of the `n` topmost tokens (R145). -/
def State.clearTop (s : State) (n : Nat) (m : Nat → Word) : State :=
  let w := s.w
  let k := w.tokens.length
  let s := s.setW { w with tokens := (w.tokens.take n).map (·.without m) ++ w.tokens.drop n }
  (List.range (n - k)).foldl (fun s i =>
    s.modCr (fun c =>
      let a := c.tokAt s.crewIdx (w.spilled - 1 - i)
      { c with ls := c.ls.write a (((c.tokRead a).without m).image.take 12) })) s

/-- `BRK` (R145). -/
def execBrk (off : BitVec 24) (s : State) : Out :=
  let w := s.w
  let b := fun k => w.wr (61 + k) &&& w.wr (57 + k)
  .next (match s.stackBad (w.target off).toNat, loopDepth s.stack (w.target off).toNat with
    | some a, _ => s.trap (.tokBad a)
    | none, none => s.trap (.state 0x14)
    | none, some n =>
      let keep := fun k => w.wr (61 + k) &&& ~~~ b k
      let s' := (s.clearTop n b).modW (fun w => w.setMask (keep 0) (keep 1) (keep 2))
      if s'.w.idle && !w.idle then
        match s'.popTo (w.depth + 1) true with
        | .error t => s.trap t
        | .ok s'' => s''.modW (fun w => w.retireTo w.pc)
      else s'.modW (·.retire))

/-! ### System instructions -/

/-- `SVC` (R134): it retires, and the wave enters its handler with PC + 4. -/
def execSvc (num : BitVec 7) (s : State) : Out :=
  .next (if s.w.sup then s.trap (.state 0x03)
    else (s.modW (·.retire)).trap { cls := 0x08, code := num.toNat })

/-- `TRAP` (R134). -/
def execTrap (num : BitVec 7) (s : State) : Out :=
  .next (if s.w.sup then s.trap (.state 0x03) else s.trap { cls := 0x09, code := num.toNat })

/-- `ERET` (R134, R149). -/
def execEret (s : State) : Out := .next s.eret

/-- `place`: wave slot, core in gang, gang, sector and die (R131). -/
def Wave.place (w : Wave) : Nat :=
  w.slot % 32 * 2 ^ 9 + w.core % 4 * 2 ^ 7 + w.core / 4 % 8 * 2 ^ 4 + w.core / 32 % 3 * 2 ^ 2 + w.core / 96 % 4

/-- A wave system register by its number (R131, R132, R138). -/
def Wave.sysReg (w : Wave) (n : Nat) : Word :=
  match n with
  | 0x10 => BitVec.ofNat 32 ((if w.det then 2 else 0) + (if w.sup then 1 else 0))
  | 0x11 => w.cause
  | 0x12 => w.epcl
  | 0x13 => w.epch
  | 0x14 => w.tvecl
  | 0x15 => w.tvech
  | 0x16 => w.tvall
  | 0x17 => w.tvalh
  | 0x18 => w.tmask0
  | 0x19 => w.tmask1
  | 0x1A => w.tmask2
  | 0x1B => w.tlane
  | 0x1C => w.ssc0
  | 0x1D => w.ssc1
  | 0x20 => BitVec.ofNat 32 w.wbase
  | 0x21 => BitVec.ofNat 32 w.alloc
  | 0x22 => BitVec.ofNat 32 w.place
  | 0x23 => BitVec.ofNat 32 (w.lvCls + (if w.lvGnt then 8 else 0))
  | _ => 0

/-- A write of a wave system register: reserved bits ignore it, and some low bits read zero (R130, R131, R133). -/
def Wave.setSys (w : Wave) (n : Nat) (x : Word) : Wave :=
  match n with
  | 0x11 => { w with cause := x &&& 0xFFFF007F }
  | 0x12 => { w with epcl := x &&& 0xFFFFFFFC }
  | 0x13 => { w with epch := x &&& 0x0001FFFF }
  | 0x14 => { w with tvecl := x &&& 0xFFFFFFFC }
  | 0x15 => { w with tvech := x &&& 0x0001FFFF }
  | 0x16 => { w with tvall := x }
  | 0x17 => { w with tvalh := x }
  | 0x1C => { w with ssc0 := x }
  | 0x1D => { w with ssc1 := x }
  | _ => w

/-- `RSR` (R130). -/
def execRsr (d sel : Code) (nw : Bool) (s : State) : Out :=
  .next (s.modW (fun w => (w.outW d nw (w.sysReg sel.toNat)).retire))

/-- `WSR` (R67, R129, R130): in user mode illegal state 0x02. -/
def execWsr (a sel : Code) (s : State) : Out :=
  if !s.w.sup then .next (s.trap (.state 0x02))
  else s.guarded [⟨.wSrc, a.toNat⟩] (fun s => s.modW (fun w => (w.setSys sel.toNat (w.ws a)).retire))

/-- `VRSR` (R130): `fsr` is the only per-thread register. -/
def execVrsr (d : Code) (nw : Bool) (s : State) : Out :=
  s.guarded [⟨.vDst, d.toNat⟩] (fun s => s.modW (fun w => (w.out32 d nw (fun t => w.fsr.at t)).retire))

/-- `VWSR` (R11, R12, R130). -/
def execVwsr (a : Code) (s : State) : Out :=
  s.guarded [⟨.vSrc, a.toNat⟩] (fun s => s.modW (fun w =>
    { w with fsr := tab threads (fun t => if w.act t then w.vr a t &&& 0x3FFF else w.fsr.at t) }.retire))

/-- `CLK` (R20, R136). -/
def execClk (d : Code) (s : State) : Out := .next (s.modW (fun w => (w.outW2 d w.count).retire))

/-- `WIN` (R137). -/
def execWin (b : Code) (s : State) : Out :=
  .next (if s.w.alloc ≤ 8 * b.toNat then s.trap (.state 0x04)
    else s.modW (fun w => { w with wbase := 8 * b.toNat }.retire))

/-- The sector of a core, counted over the device (R178). -/
def sectorOfCore (core : Nat) : Nat := core / 32

/-- The sector of a core changed (R427). -/
def State.modSector (s : State) (n : Nat) (f : Sector → Sector) : State :=
  { s with sectors := aput s.sectors n (f ((aget s.sectors n).getD {})) }

/-- Some wave of a core holds a class, by `leave` or for its engine commands after a restore (R326, R427). -/
def State.holdsClass (s : State) (core c : Nat) : Bool :=
  s.waves.any (fun p => p.2.core = core && !p.2.exited && ((p.2.lvGnt && p.2.lvCls = c) || (p.2.engGnt && p.2.engCls = c)))

/-- The executing wave requests a leave class of its sector's steward: granted at once, at no charge, where some wave of its core, itself
included, holds the class; class 0 gives the grant back (R138, R427). A request of the engine's for the wave stays (log 12). -/
def State.askLeave (s : State) (c : Nat) : State :=
  let now := c ≠ 0 && s.holdsClass s.w.core c
  (s.modSector (sectorOfCore s.w.core) (fun x =>
    { x with reqs := x.reqs.filter (fun p => p.1 ≠ s.cur || 8 ≤ p.2) ++ (if c = 0 || now then [] else [(s.cur, c)]) })).modW
    (fun w => { w with lvCls := c, lvGnt := now })

/-- The engine of a wave's core requests leave of a class for the wave's commands, which no instruction waits for (R326). It stands apart from
what `lvst` shows, which reads zero after a restore (R383, log 12); 8 more than the class stands for it among the requests. -/
def State.askEngine (s : State) (id : WaveId) (c : Nat) : State :=
  let core := (s.wv id).core
  let now := s.holdsClass core c
  (s.modSector (sectorOfCore core) (fun x =>
    { x with reqs := x.reqs.filter (fun p => p.1 ≠ id || p.2 < 8) ++ (if now then [] else [(id, 8 + c)]) })).modWv id
    (fun w => { w with engCls := c, engGnt := now })

/-- `LEAVE` (R138): a later request replaces an earlier one. -/
def execLeave (num : BitVec 7) (s : State) : Out := .next ((s.askLeave num.toNat).modW (·.retire))

end Sys2Proof.Machine
end

