-- ==== Sys2Proof/Machine/Float.lean ====
section
/-! DEFINITION. Floating-point arithmetic, compares, sign operations and special functions: majors 0x04, 0x05 and 0x06
(R103-R112). -/

namespace Sys2Proof.Machine

/-- The low half of a register (R70). -/
def lo16 (x : Word) : Nat := x.toNat % 2 ^ 16

/-- An operation of R103 in a format held in 32-bit positions, with `n` bits of each register read (R104, R106). -/
def fpOp32 (op : FOp) (F : Fmt) (rm : Option RM) (n : Nat) (d a b : Code) (nw : Bool) (s : State) : Out :=
  s.guarded (fVVV d a b ++ (if op == .fma then [⟨.vSrc, d.toNat⟩] else [])) (fun s => s.fp32 d nw (fun w t =>
    fpArith op F (w.env rm t) ((w.vr a t).toNat % 2 ^ n) ((w.vr b t).toNat % 2 ^ n) ((w.vr d t).toNat % 2 ^ n)))

/-- An operation of R103 in binary64 (R104). -/
def fpOp64 (op : FOp) (rm : Option RM) (d a b : Code) (s : State) : Out :=
  s.guarded (fPPP d a b ++ (if op == .fma then [⟨.vSrcP, d.toNat⟩] else [])) (fun s => s.fp64 d (fun w t =>
    fpArith op f64 (w.env rm t) (w.vr2 a t).toNat (w.vr2 b t).toNat (w.vr2 d t).toNat))

/-- A binary32 operation of two sources that delivers a word (R107, R108, R111). -/
def fpBin32 (f : FEnv → Nat → Nat → Nat × FFlags) (d a b : Code) (nw : Bool) (s : State) : Out :=
  s.guarded (fVVV d a b) (fun s => s.fp32 d nw (fun w t => f (w.env none t) (w.vr a t).toNat (w.vr b t).toNat))

/-- A binary64 operation of two sources that delivers a pair. -/
def fpBin64 (f : FEnv → Nat → Nat → Nat × FFlags) (d a b : Code) (s : State) : Out :=
  s.guarded (fPPP d a b) (fun s => s.fp64 d (fun w t => f (w.env none t) (w.vr2 a t).toNat (w.vr2 b t).toNat))

/-- A compare's truth value as a word (R108). -/
def cmpWord (r : Bool × FFlags) : Nat × FFlags := (if r.1 then 1 else 0, r.2)

/-- A binary64 compare (R108). -/
def fpCmp64 (c : FCmp) (d a b : Code) (nw : Bool) (s : State) : Out :=
  s.guarded (fVPP d a b) (fun s => s.fp32 d nw (fun w t =>
    cmpWord (fpCompare c f64 (w.env none t) (w.vr2 a t).toNat (w.vr2 b t).toNat)))

/-- A special function of one binary32 source (R110, R111). -/
def fpUn32 (f : SFn) (d a : Code) (nw : Bool) (s : State) : Out :=
  s.guarded (fVV d a) (fun s => s.fp32 d nw (fun w t => fpSpecial f f32 (w.env none t) (w.vr a t).toNat))

/-- A special function of one binary64 source (R110, R111). -/
def fpUn64 (f : SFn) (d a : Code) (s : State) : Out :=
  s.guarded (fPP d a) (fun s => s.fp64 d (fun w t => fpSpecial f f64 (w.env none t) (w.vr2 a t).toNat))

/-- An operation on the bits of a 32-bit position, which reads and raises no flag (R109). -/
def bits32 (f : Word → Nat) (d a : Code) (nw : Bool) (s : State) : Out :=
  s.guarded (fVV d a) (fun s => s.modW (fun w => (w.out32 d nw (fun t => BitVec.ofNat 32 (f (w.vr a t)))).retire))

/-- An operation on the bits of a pair (R109). -/
def bits64 (f : Nat → Nat) (d a : Code) (s : State) : Out :=
  s.guarded (fPP d a) (fun s => s.modW (fun w => (w.out64 d (fun t => BitVec.ofNat 64 (f (w.vr2 a t).toNat))).retire))

/-- `ADD_F32` (R104). -/
def execAddF32 (d a b : Code) (nw : Bool) (s : State) : Out :=
  fpOp32 .add f32 none 32 d a b nw s
/-- `ADD_F32_RNE` (R104). -/
def execAddF32Rne (d a b : Code) (nw : Bool) (s : State) : Out :=
  fpOp32 .add f32 (some .rne) 32 d a b nw s
/-- `ADD_F32_RTZ` (R104). -/
def execAddF32Rtz (d a b : Code) (nw : Bool) (s : State) : Out :=
  fpOp32 .add f32 (some .rtz) 32 d a b nw s
/-- `ADD_F32_RUP` (R104). -/
def execAddF32Rup (d a b : Code) (nw : Bool) (s : State) : Out :=
  fpOp32 .add f32 (some .rup) 32 d a b nw s
/-- `ADD_F32_RDN` (R104). -/
def execAddF32Rdn (d a b : Code) (nw : Bool) (s : State) : Out :=
  fpOp32 .add f32 (some .rdn) 32 d a b nw s
/-- `SUB_F32` (R104). -/
def execSubF32 (d a b : Code) (nw : Bool) (s : State) : Out :=
  fpOp32 .sub f32 none 32 d a b nw s
/-- `SUB_F32_RNE` (R104). -/
def execSubF32Rne (d a b : Code) (nw : Bool) (s : State) : Out :=
  fpOp32 .sub f32 (some .rne) 32 d a b nw s
/-- `SUB_F32_RTZ` (R104). -/
def execSubF32Rtz (d a b : Code) (nw : Bool) (s : State) : Out :=
  fpOp32 .sub f32 (some .rtz) 32 d a b nw s
/-- `SUB_F32_RUP` (R104). -/
def execSubF32Rup (d a b : Code) (nw : Bool) (s : State) : Out :=
  fpOp32 .sub f32 (some .rup) 32 d a b nw s
/-- `SUB_F32_RDN` (R104). -/
def execSubF32Rdn (d a b : Code) (nw : Bool) (s : State) : Out :=
  fpOp32 .sub f32 (some .rdn) 32 d a b nw s
/-- `MUL_F32` (R104). -/
def execMulF32 (d a b : Code) (nw : Bool) (s : State) : Out :=
  fpOp32 .mul f32 none 32 d a b nw s
/-- `MUL_F32_RNE` (R104). -/
def execMulF32Rne (d a b : Code) (nw : Bool) (s : State) : Out :=
  fpOp32 .mul f32 (some .rne) 32 d a b nw s
/-- `MUL_F32_RTZ` (R104). -/
def execMulF32Rtz (d a b : Code) (nw : Bool) (s : State) : Out :=
  fpOp32 .mul f32 (some .rtz) 32 d a b nw s
/-- `MUL_F32_RUP` (R104). -/
def execMulF32Rup (d a b : Code) (nw : Bool) (s : State) : Out :=
  fpOp32 .mul f32 (some .rup) 32 d a b nw s
/-- `MUL_F32_RDN` (R104). -/
def execMulF32Rdn (d a b : Code) (nw : Bool) (s : State) : Out :=
  fpOp32 .mul f32 (some .rdn) 32 d a b nw s
/-- `FMA_F32` (R104). -/
def execFmaF32 (d a b : Code) (nw : Bool) (s : State) : Out :=
  fpOp32 .fma f32 none 32 d a b nw s
/-- `FMA_F32_RNE` (R104). -/
def execFmaF32Rne (d a b : Code) (nw : Bool) (s : State) : Out :=
  fpOp32 .fma f32 (some .rne) 32 d a b nw s
/-- `FMA_F32_RTZ` (R104). -/
def execFmaF32Rtz (d a b : Code) (nw : Bool) (s : State) : Out :=
  fpOp32 .fma f32 (some .rtz) 32 d a b nw s
/-- `FMA_F32_RUP` (R104). -/
def execFmaF32Rup (d a b : Code) (nw : Bool) (s : State) : Out :=
  fpOp32 .fma f32 (some .rup) 32 d a b nw s
/-- `FMA_F32_RDN` (R104). -/
def execFmaF32Rdn (d a b : Code) (nw : Bool) (s : State) : Out :=
  fpOp32 .fma f32 (some .rdn) 32 d a b nw s
/-- `MIN_F32` (R107). -/
def execMinF32 (d a b : Code) (nw : Bool) (s : State) : Out :=
  fpBin32 (fpMinMax false f32) d a b nw s
/-- `MAX_F32` (R107). -/
def execMaxF32 (d a b : Code) (nw : Bool) (s : State) : Out :=
  fpBin32 (fpMinMax true f32) d a b nw s
/-- `CEQ_F32` (R108). -/
def execCeqF32 (d a b : Code) (nw : Bool) (s : State) : Out :=
  fpBin32 (fun v x y => cmpWord (fpCompare .eq f32 v x y)) d a b nw s
/-- `CLT_F32` (R108). -/
def execCltF32 (d a b : Code) (nw : Bool) (s : State) : Out :=
  fpBin32 (fun v x y => cmpWord (fpCompare .lt f32 v x y)) d a b nw s
/-- `CLE_F32` (R108). -/
def execCleF32 (d a b : Code) (nw : Bool) (s : State) : Out :=
  fpBin32 (fun v x y => cmpWord (fpCompare .le f32 v x y)) d a b nw s
/-- `CUN_F32` (R108). -/
def execCunF32 (d a b : Code) (nw : Bool) (s : State) : Out :=
  fpBin32 (fun v x y => cmpWord (fpCompare .un f32 v x y)) d a b nw s
/-- `ADD_F16` (R106). -/
def execAddF16 (d a b : Code) (nw : Bool) (s : State) : Out :=
  fpOp32 .add f16 none 16 d a b nw s
/-- `MUL_F16` (R106). -/
def execMulF16 (d a b : Code) (nw : Bool) (s : State) : Out :=
  fpOp32 .mul f16 none 16 d a b nw s
/-- `FMA_F16` (R106). -/
def execFmaF16 (d a b : Code) (nw : Bool) (s : State) : Out :=
  fpOp32 .fma f16 none 16 d a b nw s
/-- `ADD_BF16` (R106). -/
def execAddBf16 (d a b : Code) (nw : Bool) (s : State) : Out :=
  fpOp32 .add bf16 none 16 d a b nw s
/-- `MUL_BF16` (R106). -/
def execMulBf16 (d a b : Code) (nw : Bool) (s : State) : Out :=
  fpOp32 .mul bf16 none 16 d a b nw s
/-- `FMA_BF16` (R106). -/
def execFmaBf16 (d a b : Code) (nw : Bool) (s : State) : Out :=
  fpOp32 .fma bf16 none 16 d a b nw s
/-- `ADD_F64` (R104). -/
def execAddF64 (d a b : Code) (s : State) : Out :=
  fpOp64 .add none d a b s
/-- `ADD_F64_RNE` (R104). -/
def execAddF64Rne (d a b : Code) (s : State) : Out :=
  fpOp64 .add (some .rne) d a b s
/-- `ADD_F64_RTZ` (R104). -/
def execAddF64Rtz (d a b : Code) (s : State) : Out :=
  fpOp64 .add (some .rtz) d a b s
/-- `ADD_F64_RUP` (R104). -/
def execAddF64Rup (d a b : Code) (s : State) : Out :=
  fpOp64 .add (some .rup) d a b s
/-- `ADD_F64_RDN` (R104). -/
def execAddF64Rdn (d a b : Code) (s : State) : Out :=
  fpOp64 .add (some .rdn) d a b s
/-- `SUB_F64` (R104). -/
def execSubF64 (d a b : Code) (s : State) : Out :=
  fpOp64 .sub none d a b s
/-- `SUB_F64_RNE` (R104). -/
def execSubF64Rne (d a b : Code) (s : State) : Out :=
  fpOp64 .sub (some .rne) d a b s
/-- `SUB_F64_RTZ` (R104). -/
def execSubF64Rtz (d a b : Code) (s : State) : Out :=
  fpOp64 .sub (some .rtz) d a b s
/-- `SUB_F64_RUP` (R104). -/
def execSubF64Rup (d a b : Code) (s : State) : Out :=
  fpOp64 .sub (some .rup) d a b s
/-- `SUB_F64_RDN` (R104). -/
def execSubF64Rdn (d a b : Code) (s : State) : Out :=
  fpOp64 .sub (some .rdn) d a b s
/-- `MUL_F64` (R104). -/
def execMulF64 (d a b : Code) (s : State) : Out :=
  fpOp64 .mul none d a b s
/-- `MUL_F64_RNE` (R104). -/
def execMulF64Rne (d a b : Code) (s : State) : Out :=
  fpOp64 .mul (some .rne) d a b s
/-- `MUL_F64_RTZ` (R104). -/
def execMulF64Rtz (d a b : Code) (s : State) : Out :=
  fpOp64 .mul (some .rtz) d a b s
/-- `MUL_F64_RUP` (R104). -/
def execMulF64Rup (d a b : Code) (s : State) : Out :=
  fpOp64 .mul (some .rup) d a b s
/-- `MUL_F64_RDN` (R104). -/
def execMulF64Rdn (d a b : Code) (s : State) : Out :=
  fpOp64 .mul (some .rdn) d a b s
/-- `FMA_F64` (R104). -/
def execFmaF64 (d a b : Code) (s : State) : Out :=
  fpOp64 .fma none d a b s
/-- `FMA_F64_RNE` (R104). -/
def execFmaF64Rne (d a b : Code) (s : State) : Out :=
  fpOp64 .fma (some .rne) d a b s
/-- `FMA_F64_RTZ` (R104). -/
def execFmaF64Rtz (d a b : Code) (s : State) : Out :=
  fpOp64 .fma (some .rtz) d a b s
/-- `FMA_F64_RUP` (R104). -/
def execFmaF64Rup (d a b : Code) (s : State) : Out :=
  fpOp64 .fma (some .rup) d a b s
/-- `FMA_F64_RDN` (R104). -/
def execFmaF64Rdn (d a b : Code) (s : State) : Out :=
  fpOp64 .fma (some .rdn) d a b s
/-- `MIN_F64` (R107). -/
def execMinF64 (d a b : Code) (s : State) : Out :=
  fpBin64 (fpMinMax false f64) d a b s
/-- `MAX_F64` (R107). -/
def execMaxF64 (d a b : Code) (s : State) : Out :=
  fpBin64 (fpMinMax true f64) d a b s
/-- `CEQ_F64` (R108). -/
def execCeqF64 (d a b : Code) (nw : Bool) (s : State) : Out :=
  fpCmp64 .eq d a b nw s
/-- `CLT_F64` (R108). -/
def execCltF64 (d a b : Code) (nw : Bool) (s : State) : Out :=
  fpCmp64 .lt d a b nw s
/-- `CLE_F64` (R108). -/
def execCleF64 (d a b : Code) (nw : Bool) (s : State) : Out :=
  fpCmp64 .le d a b nw s
/-- `CUN_F64` (R108). -/
def execCunF64 (d a b : Code) (nw : Bool) (s : State) : Out :=
  fpCmp64 .un d a b nw s
/-- `ABS_F64` (R109). -/
def execAbsF64 (d a : Code) (s : State) : Out :=
  bits64 (fpAbs f64) d a s
/-- `NEG_F64` (R109). -/
def execNegF64 (d a : Code) (s : State) : Out :=
  bits64 (fpNeg f64) d a s
/-- `CLASS_F64` (R109). -/
def execClassF64 (d a : Code) (nw : Bool) (s : State) : Out :=
  s.guarded [⟨.vDst, d.toNat⟩, ⟨.vSrcP, a.toNat⟩] (fun s => s.modW (fun w =>
    (w.out32 d nw (fun t => BitVec.ofNat 32 (fpClass f64 (w.vr2 a t).toNat))).retire))
/-- `DIV_F32` (R111, R112). -/
def execDivF32 (d a b : Code) (nw : Bool) (s : State) : Out :=
  fpBin32 (fpDiv f32) d a b nw s
/-- `SQRT_F32` (R111, R112). -/
def execSqrtF32 (d a : Code) (nw : Bool) (s : State) : Out :=
  fpUn32 .sqrt d a nw s
/-- `RCP_F32` (R111, R112). -/
def execRcpF32 (d a : Code) (nw : Bool) (s : State) : Out :=
  fpUn32 .rcp d a nw s
/-- `RSQ_F32` (R111, R112). -/
def execRsqF32 (d a : Code) (nw : Bool) (s : State) : Out :=
  fpUn32 .rsq d a nw s
/-- `EXP2_F32` (R111, R112). -/
def execExp2F32 (d a : Code) (nw : Bool) (s : State) : Out :=
  fpUn32 .exp2 d a nw s
/-- `LOG2_F32` (R111, R112). -/
def execLog2F32 (d a : Code) (nw : Bool) (s : State) : Out :=
  fpUn32 .log2 d a nw s
/-- `SINPI_F32` (R111, R112). -/
def execSinpiF32 (d a : Code) (nw : Bool) (s : State) : Out :=
  fpUn32 .sinpi d a nw s
/-- `COSPI_F32` (R111, R112). -/
def execCospiF32 (d a : Code) (nw : Bool) (s : State) : Out :=
  fpUn32 .cospi d a nw s
/-- `ABS_F32` (R109). -/
def execAbsF32 (d a : Code) (nw : Bool) (s : State) : Out :=
  bits32 (fun x => fpAbs f32 x.toNat) d a nw s
/-- `NEG_F32` (R109). -/
def execNegF32 (d a : Code) (nw : Bool) (s : State) : Out :=
  bits32 (fun x => fpNeg f32 x.toNat) d a nw s
/-- `CLASS_F32` (R109). -/
def execClassF32 (d a : Code) (nw : Bool) (s : State) : Out :=
  bits32 (fun x => fpClass f32 x.toNat) d a nw s
/-- `ABS_F16` (R109). -/
def execAbsF16 (d a : Code) (nw : Bool) (s : State) : Out :=
  bits32 (fun x => fpAbs f16 (lo16 x)) d a nw s
/-- `NEG_F16` (R109). -/
def execNegF16 (d a : Code) (nw : Bool) (s : State) : Out :=
  bits32 (fun x => fpNeg f16 (lo16 x)) d a nw s
/-- `ABS_BF16` (R109). -/
def execAbsBf16 (d a : Code) (nw : Bool) (s : State) : Out :=
  bits32 (fun x => fpAbs bf16 (lo16 x)) d a nw s
/-- `NEG_BF16` (R109). -/
def execNegBf16 (d a : Code) (nw : Bool) (s : State) : Out :=
  bits32 (fun x => fpNeg bf16 (lo16 x)) d a nw s
/-- `DIV_F64` (R111, R112). -/
def execDivF64 (d a b : Code) (s : State) : Out :=
  fpBin64 (fpDiv f64) d a b s
/-- `SQRT_F64` (R111, R112). -/
def execSqrtF64 (d a : Code) (s : State) : Out :=
  fpUn64 .sqrt d a s
/-- `RCP_F64` (R111, R112). -/
def execRcpF64 (d a : Code) (s : State) : Out :=
  fpUn64 .rcp d a s
/-- `RSQ_F64` (R111, R112). -/
def execRsqF64 (d a : Code) (s : State) : Out :=
  fpUn64 .rsq d a s
/-- `EXP2_F64` (R111, R112). -/
def execExp2F64 (d a : Code) (s : State) : Out :=
  fpUn64 .exp2 d a s
/-- `LOG2_F64` (R111, R112). -/
def execLog2F64 (d a : Code) (s : State) : Out :=
  fpUn64 .log2 d a s

end Sys2Proof.Machine
end

