-- ==== Sys2Proof/Machine/Convert.lean ====
section
/-! DEFINITION. Conversions: major 0x07 (R113-R119). -/

namespace Sys2Proof.Machine

/-- The mode that a rounding selector names; none reads RM (R61, R74, R114). -/
def selMode (sel : Code) : Option RM :=
  match sel.toNat with
  | 1 => some .rne | 2 => some .rtz | 3 => some .rup | 4 => some .rdn | 5 => some .rna
  | _ => none

/-- A conversion from a 32-bit position to a 32-bit position. -/
def cnv32 (rm : Option RM) (f : FEnv → Word → Nat × FFlags) (d a : Code) (nw : Bool) (s : State) : Out :=
  s.guarded (fVV d a) (fun s => s.fp32 d nw (fun w t => f (w.env rm t) (w.vr a t)))

/-- A conversion from a pair to a 32-bit position. -/
def cnv64to32 (rm : Option RM) (f : FEnv → BitVec 64 → Nat × FFlags) (d a : Code) (nw : Bool) (s : State) : Out :=
  s.guarded [⟨.vDst, d.toNat⟩, ⟨.vSrcP, a.toNat⟩] (fun s => s.fp32 d nw (fun w t => f (w.env rm t) (w.vr2 a t)))

/-- A conversion from a 32-bit position to a pair. -/
def cnv32to64 (rm : Option RM) (f : FEnv → Word → Nat × FFlags) (d a : Code) (s : State) : Out :=
  s.guarded [⟨.vDstP, d.toNat⟩, ⟨.vSrc, a.toNat⟩] (fun s => s.fp64 d (fun w t => f (w.env rm t) (w.vr a t)))

/-- A conversion from a pair to a pair. -/
def cnv64 (rm : Option RM) (f : FEnv → BitVec 64 → Nat × FFlags) (d a : Code) (s : State) : Out :=
  s.guarded (fPP d a) (fun s => s.fp64 d (fun w t => f (w.env rm t) (w.vr2 a t)))

/-- A float to an integer of `n` bits, signed or not (R116). -/
def toInt (F : Fmt) (sgn : Bool) (n : Nat) (v : FEnv) (x : Nat) : Nat × FFlags :=
  let (lo, hi) : Int × Int := if sgn then (-(2 ^ (n - 1)), 2 ^ (n - 1) - 1) else (0, 2 ^ n - 1)
  let r := cnvFI F lo hi v x
  (wrap n r.1, r.2)

/-- An integer clamped to a narrow format and extended to 32 bits (R118). -/
def narrow (lo hi : Int) (x : Word) : Nat := wrap 32 (clampI lo hi x.toInt)

/-- `CNV_F64_F32` (R115). -/
def execCnvF64F32 (d a sel : Code) (nw : Bool) (s : State) : Out :=
  cnv64to32 (selMode sel) (fun v x => cnvFF f64 f32 v (x.toNat)) d a nw s
/-- `CNV_F32_F64` (R115). -/
def execCnvF32F64 (d a : Code) (s : State) : Out :=
  cnv32to64 none (fun v x => cnvFF f32 f64 v (x.toNat)) d a s
/-- `CNV_F32_F16` (R115). -/
def execCnvF32F16 (d a sel : Code) (nw : Bool) (s : State) : Out :=
  cnv32 (selMode sel) (fun v x => cnvFF f32 f16 v (x.toNat)) d a nw s
/-- `CNV_F16_F32` (R115). -/
def execCnvF16F32 (d a : Code) (nw : Bool) (s : State) : Out :=
  cnv32 none (fun v x => cnvFF f16 f32 v (lo16 x)) d a nw s
/-- `CNV_F32_BF16` (R115). -/
def execCnvF32Bf16 (d a sel : Code) (nw : Bool) (s : State) : Out :=
  cnv32 (selMode sel) (fun v x => cnvFF f32 bf16 v (x.toNat)) d a nw s
/-- `CNV_BF16_F32` (R115). -/
def execCnvBf16F32 (d a : Code) (nw : Bool) (s : State) : Out :=
  cnv32 none (fun v x => cnvFF bf16 f32 v (lo16 x)) d a nw s
/-- `CNV_F64_F16` (R115). -/
def execCnvF64F16 (d a sel : Code) (nw : Bool) (s : State) : Out :=
  cnv64to32 (selMode sel) (fun v x => cnvFF f64 f16 v (x.toNat)) d a nw s
/-- `CNV_F64_BF16` (R115). -/
def execCnvF64Bf16 (d a sel : Code) (nw : Bool) (s : State) : Out :=
  cnv64to32 (selMode sel) (fun v x => cnvFF f64 bf16 v (x.toNat)) d a nw s
/-- `CNV_F32_S32` (R116). -/
def execCnvF32S32 (d a sel : Code) (nw : Bool) (s : State) : Out :=
  cnv32 (selMode sel) (fun v x => toInt f32 true 32 v (x.toNat)) d a nw s
/-- `CNV_F32_N32` (R116). -/
def execCnvF32N32 (d a sel : Code) (nw : Bool) (s : State) : Out :=
  cnv32 (selMode sel) (fun v x => toInt f32 false 32 v (x.toNat)) d a nw s
/-- `CNV_S32_F32` (R117). -/
def execCnvS32F32 (d a sel : Code) (nw : Bool) (s : State) : Out :=
  cnv32 (selMode sel) (fun v x => cnvIF f32 v x.toInt) d a nw s
/-- `CNV_N32_F32` (R117). -/
def execCnvN32F32 (d a sel : Code) (nw : Bool) (s : State) : Out :=
  cnv32 (selMode sel) (fun v x => cnvIF f32 v x.toNat) d a nw s
/-- `CNV_F64_S32` (R116). -/
def execCnvF64S32 (d a sel : Code) (nw : Bool) (s : State) : Out :=
  cnv64to32 (selMode sel) (fun v x => toInt f64 true 32 v (x.toNat)) d a nw s
/-- `CNV_F64_N32` (R116). -/
def execCnvF64N32 (d a sel : Code) (nw : Bool) (s : State) : Out :=
  cnv64to32 (selMode sel) (fun v x => toInt f64 false 32 v (x.toNat)) d a nw s
/-- `CNV_S32_F64` (R117). -/
def execCnvS32F64 (d a : Code) (s : State) : Out :=
  cnv32to64 none (fun v x => cnvIF f64 v x.toInt) d a s
/-- `CNV_N32_F64` (R117). -/
def execCnvN32F64 (d a : Code) (s : State) : Out :=
  cnv32to64 none (fun v x => cnvIF f64 v x.toNat) d a s
/-- `CNV_F64_S64` (R116). -/
def execCnvF64S64 (d a sel : Code) (s : State) : Out :=
  cnv64 (selMode sel) (fun v x => toInt f64 true 64 v (x.toNat)) d a s
/-- `CNV_F64_N64` (R116). -/
def execCnvF64N64 (d a sel : Code) (s : State) : Out :=
  cnv64 (selMode sel) (fun v x => toInt f64 false 64 v (x.toNat)) d a s
/-- `CNV_S64_F64` (R117). -/
def execCnvS64F64 (d a sel : Code) (s : State) : Out :=
  cnv64 (selMode sel) (fun v x => cnvIF f64 v x.toInt) d a s
/-- `CNV_N64_F64` (R117). -/
def execCnvN64F64 (d a sel : Code) (s : State) : Out :=
  cnv64 (selMode sel) (fun v x => cnvIF f64 v x.toNat) d a s
/-- `CNV_S64_F32` (R117). -/
def execCnvS64F32 (d a sel : Code) (nw : Bool) (s : State) : Out :=
  cnv64to32 (selMode sel) (fun v x => cnvIF f32 v x.toInt) d a nw s
/-- `CNV_N64_F32` (R117). -/
def execCnvN64F32 (d a sel : Code) (nw : Bool) (s : State) : Out :=
  cnv64to32 (selMode sel) (fun v x => cnvIF f32 v x.toNat) d a nw s
/-- `CNV_S32_S16` (R118). -/
def execCnvS32S16 (d a : Code) (nw : Bool) (s : State) : Out :=
  bits32 (narrow (-32768) 32767) d a nw s
/-- `CNV_S32_N16` (R118). -/
def execCnvS32N16 (d a : Code) (nw : Bool) (s : State) : Out :=
  bits32 (narrow (0) 65535) d a nw s
/-- `CNV_S32_S8` (R118). -/
def execCnvS32S8 (d a : Code) (nw : Bool) (s : State) : Out :=
  bits32 (narrow (-128) 127) d a nw s
/-- `CNV_S32_N8` (R118). -/
def execCnvS32N8 (d a : Code) (nw : Bool) (s : State) : Out :=
  bits32 (narrow (0) 255) d a nw s
/-- `CNV_S32_S64` (R118). -/
def execCnvS32S64 (d a : Code) (s : State) : Out :=
  s.guarded [⟨.vDstP, d.toNat⟩, ⟨.vSrc, a.toNat⟩] (fun s => s.modW (fun w =>
    (w.out64 d (fun t => (w.vr a t).signExtend 64)).retire))
/-- `CNV_N32_N64` (R118). -/
def execCnvN32N64 (d a : Code) (s : State) : Out :=
  s.guarded [⟨.vDstP, d.toNat⟩, ⟨.vSrc, a.toNat⟩] (fun s => s.modW (fun w =>
    (w.out64 d (fun t => (w.vr a t).setWidth 64)).retire))
/-- `RINT_F32` (R119). -/
def execRintF32 (d a sel : Code) (nw : Bool) (s : State) : Out :=
  cnv32 (selMode sel) (fun v x => fpRint f32 v x.toNat) d a nw s
/-- `RINT_F64` (R119). -/
def execRintF64 (d a sel : Code) (s : State) : Out :=
  cnv64 (selMode sel) (fun v x => fpRint f64 v x.toNat) d a s

end Sys2Proof.Machine
end

