-- ==== Sys2Proof/Machine/Engine.lean ====
section
/-! DEFINITION. What the engines share: reads and arrival targets (R271-R273, R294, R296, R314, R339, R363), the faults of their units
(R371, R375-R377, R433), and completion (R170). -/

namespace Sys2Proof.Machine

/-- Why a unit of an engine stops: a translation or data-error fault of a kind, or an accumulation outcome (R371, R433). -/
inductive EngFault where
  | xlat (kind addr : Nat)
  | acc (sub addr : Nat)
  deriving DecidableEq, Repr

/-- An address plus a signed offset, modulo 2^64. -/
def addrAt (base : Nat) (off : Int) : Nat := (((base : Int) + off) % (2 ^ 64 : Nat)).toNat

/-- The translation of an engine's access (R237, R390). -/
def State.engPlace (s : State) (id : WaveId) (va : Nat) (acc : Access) : Except EngFault Leaf :=
  if 2 ^ 49 ≤ va then .error (.xlat 0x01 va)
  else if inAperture va then .error (.xlat 0x05 va)
  else match s.translate (s.wv id).core (s.ctxN id.g) va acc with
    | .error k => .error (.xlat k va)
    | .ok l => .ok l

/-- What an engine reads, with the state its reads leave (R403, R408), or why it stops. -/
abbrev EngRead := StateT State (Except EngFault)

/-- A check, or a read that leaves nothing behind. -/
def looking (f : State → Except EngFault α) : EngRead α := fun s => (f s).map (fun x => (x, s))

/-- Reads made one after another. -/
def gatherE (f : Nat → EngRead α) : List Nat → EngRead (List α)
  | [] => fun s => .ok ([], s)
  | i :: is => fun s => match f i s with
    | .error e => .error e
    | .ok (x, s) => match gatherE f is s with
      | .error e => .error e
      | .ok (xs, s) => .ok (x :: xs, s)

/-- An engine read within one line: the snapshot of an open line, or ACC_OPEN_READ in a deterministic grid (R294); the data-error
kind with the first bad byte's address (R379); else the core's own dirty bytes over the home's (R272). -/
def engReadLine (id : WaveId) (va n : Nat) : EngRead (List Byte) := fun s =>
  match s.engPlace id va .load with
  | .error e => .error e
  | .ok l =>
    let s := s.walked (s.wv id).core (s.ctxN id.g) va
    if (s.peerFor l.pa).isSome && s.refuses (s.wv id).core l.pa then .error (.xlat 0x01 va)
    else if (s.wv id).det && (aget s.frames (l.pa / 128)).isSome then .error (.acc 0x02 (va / 128 * 128))
    else match (List.range n).find? (fun i => s.byteBad (s.wv id).core (l.pa / 128) l.key (l.pa % 128 + i)) with
      | some i => .error (.xlat 0x06 (va + i))
      | none =>
        let core := (s.wv id).core
        let s := s.touch core 3 (l.pa / 128) l.key (tab n (fun i => l.pa % 128 + i))
        .ok (s.see core 3 l.pa n l.key, s)

/-- An engine read of `n` bytes, line by line; addresses are taken modulo 2^64. The first argument bounds the number of lines. -/
def engReadN (id : WaveId) : Nat → Nat → Nat → EngRead (List Byte)
  | 0, _, _ => fun s => .ok ([], s)
  | k + 1, va, n => fun s =>
    if n = 0 then .ok ([], s)
    else
      let va := va % 2 ^ 64
      let m := min n (128 - va % 128)
      match engReadLine id va m s with
      | .error e => .error e
      | .ok (bs, s) => match engReadN id k (va + m) (n - m) s with
        | .error e => .error e
        | .ok (cs, s) => .ok (bs ++ cs, s)

/-- An engine read. -/
def engRead (id : WaveId) (va n : Nat) : EngRead (List Byte) := engReadN id (n / 128 + 2) va n

/-- A read of the crew's local store by an engine (R379). -/
def engLocal (c : CrewId) (o n : Nat) : EngRead (List Byte) := looking fun s =>
  let x := s.crewOf c
  if x.lsBad.isEmpty then .ok (x.ls.read o n)
  else match (List.range n).find? (fun i => x.lsBad.contains (o + i)) with
    | some i => .error (.xlat 0x06 (o + i))
    | none => .ok (x.ls.read o n)

/-- An arrival of a group stands in a wave's commit buffer (R300). -/
def Wave.holdsArrival (w : Wave) (grp : Nat) : Bool := w.buf.any (fun o => match o with | .arrival a => a.grp = grp | _ => false)

/-- Arrivals of one command are still posted. -/
def State.arriving (s : State) (grp : Nat) : Bool := s.posted.any (fun a => a.grp = grp)

/-- The arrivals of a unit: virtual address, leaf and value, in order. A page without the accumulate-permit rejects its arrival with
ACC_PERMIT (R318); in a deterministic grid an arrival is applied at once, in its place of the commit order (R198); else it is
posted. -/
def State.engArrive (s : State) (src : Nat) (id : WaveId) (grp : Nat) (owner : ArrOwner) (as : List (Nat × Leaf × AVal)) : State :=
  as.foldl (fun s a =>
    if !a.2.1.ap then s.postFault id ⟨0x05, 0x89, a.1⟩
    else if (s.wv id).det then (s.walked (s.wv id).core (s.ctxN id.g) a.1).arriveAt ⟨(s.wv id).core * 4 + src, 0, 0, id, grp, owner, a.1, a.2.1.pa, a.2.2, false⟩
    else s.postArrival src id grp owner a.1 a.2.1.pa a.2.2) s

/-- Bytes an instruction reads as a uniform load would, line by line, with the state the reads leave (R192, R219, R224, R355); the first
argument bounds the number of lines. -/
def State.uniReadN (s : State) : Nat → Nat → Nat → Except Trap (List Byte × State)
  | 0, _, _ => .ok ([], s)
  | k + 1, va, n =>
    if n = 0 then .ok ([], s)
    else
      let w := s.w
      let m := min n (128 - va % 128)
      match s.uniPlace va m 1 with
      | .error t => .error t
      | .ok (p, s) =>
          let s := s.touchPlace w.core (w.memLevel 0) p m
          let v := if w.det then s.readDet w 3 p m else s.readPlace w.core 0 p m
          (s.uniReadN k (va + m) (n - m)).map (fun r => (leBytes m v ++ r.1, r.2))

/-- The checks of such a read without the data: the first trap of R241, or of an open line in a deterministic grid. -/
def State.uniCheckN (s : State) : Nat → Nat → Nat → Option Trap
  | 0, _, _ => none
  | k + 1, va, n =>
    if n = 0 then none
    else match s.check s.w.core (s.ctxN s.cur.g) va 1 .load with
      | .error e => some (.xlat e va)
      | .ok l =>
        let m := min n (128 - va % 128)
        if s.w.det && (aget s.frames (l.pa / 128)).isSome then some (.acc 0x02 va) else s.uniCheckN k (va + m) (n - m)

/-- The same, with an alignment of the first address. -/
def State.uniCheck (s : State) (va n align : Nat) : Option Trap :=
  if va < 2 ^ 49 && va % align ≠ 0 then some (.xlat 0x03 va) else s.uniCheckN (n / 128 + 2) va n

/-- The read, after the checks of R241 at the first address with an alignment. -/
def State.uniRead (s : State) (va n align : Nat) : Except Trap (List Byte × State) :=
  if va < 2 ^ 49 && va % align ≠ 0 then .error (.xlat 0x03 va) else s.uniReadN (n / 128 + 2) va n

/-- The lines that an engine writes: a page that may not be written is its fault, and an open line is ACC_STORE with the line's
address (R339, R363, R433). -/
def State.engWriteLines (s : State) (id : WaveId) (va n : Nat) : Except EngFault (List (Nat × Leaf)) :=
  let pieces := (linesOf va n).map (fun l => max va (128 * l))
  pieces.foldr (fun a m => match s.engPlace id (a % 2 ^ 64) .write, m with
    | .error e, _ => .error e
    | _, .error e => .error e
    | .ok l, .ok ls => .ok ((a, l) :: ls)) (.ok [])

/-- The first open line among them. -/
def State.engOpen (s : State) (ls : List (Nat × Leaf)) : Option EngFault :=
  (ls.find? (fun p => (aget s.frames (p.2.pa / 128)).isSome)).map (fun p => .acc 0x01 (p.1 / 128 * 128))

/-- Bytes written by an engine of a wave's core, with its ORIGIN, at the home slice, line by line; the core's copies of the lines go (R339,
R363). -/
def State.engWrite (s : State) (id : WaveId) (origin va : Nat) (ls : List (Nat × Leaf)) (bs : List Byte) : State :=
  let core := (s.wv id).core
  ls.foldl (fun s p =>
    let ln := p.2.pa / 128
    let n := 128 - p.1 % 128
    let s := s.walked core (s.ctxN id.g) (p.1 % 2 ^ 64)
    let s := (((s.down core ln 3).setL1 core ln none).setL2 core ln none).wrote ln [id] origin p.1
    s.homeWriteAt p.2.pa p.2.key ((bs.drop (p.1 - va)).take n)) s

end Sys2Proof.Machine
end

