-- ==== Sys2Proof/Machine/Transfer.lean ====
section
/-! DEFINITION. The transfer engine: barriers, streams, tags, batches, copies and their chunks, and the instructions of majors 0x16 and
0x18 but for those that wait (R332-R350). -/

namespace Sys2Proof.Machine

/-! ### Barriers -/

/-- A barrier register. -/
def Crew.bar (c : Crew) (n : Nat) : Bar := c.bars.getD n ⟨0, false, 0, 0, 0⟩
/-- A stream register. -/
def Crew.stream (c : Crew) (n : Nat) : Stream := c.streams.getD n ⟨0, []⟩

/-- A barrier register replaced. -/
def State.setBar (s : State) (c : CrewId) (n : Nat) (b : Bar) : State := s.modCrew c (fun x => { x with bars := setAt ⟨0, false, 0, 0, 0⟩ x.bars n b })

/-- The waves of a crew. -/
def State.crewWaves (s : State) (c : CrewId) : List WaveId := (s.waves.filter (fun p => s.crewId p.1 = c)).map (·.1)

/-- A phase of barrier `n` has completed: DONE of the waves whose ARM is 1, and the waves that wait at `bwait` without ARM (R346). -/
def Wave.phaseDone (w : Wave) (n : Nat) : Wave :=
  if w.arm.getLsbD n then { w with done := w.done ||| (1#16 <<< n) }
  else match w.hold with
    | some h => if h.op = .bwait n false then { w with hold := some { h with op := .bwait n true } } else w
    | none => w

/-- The waves of a list changed. -/
def State.modWaves (s : State) (ids : List WaveId) (f : Wave → Wave) : State := ids.foldl (fun s i => s.modWv i f) s

/-- The PART 0 slice of a transfer (R340). -/
def Xfer.lead (x : Xfer) : Option Slice := x.slices.find? (fun p => p.part = 0)

/-- Barrier `n` examined after a change: while ARR = MEM and PEND = 0, its phase completes, and held arrivals count in the new one (R346).
The last argument bounds the phases. -/
def State.settle (s : State) (c : CrewId) (n : Nat) : Nat → State
  | 0 => s
  | k + 1 =>
    let b := (s.crewOf c).bar n
    if b.mem ≠ 0 && b.mem ≤ b.arr && b.pend = 0 then
      let take := min b.held b.mem
      ((s.modWaves (s.crewWaves c) (fun w => w.phaseDone n)).setBar c n { b with phase := !b.phase, arr := take, held := b.held - take }).settle c n k
    else s

/-- The same, with room for every held arrival. -/
def State.barCheck (s : State) (c : CrewId) (n : Nat) : State := s.settle c n (((s.crewOf c).bar n).held + 2)

/-- One member arrives on a barrier; an arrival that finds ARR = MEM is held until the phase completes (R346). -/
def State.arrive (s : State) (c : CrewId) (n : Nat) : State :=
  let b := (s.crewOf c).bar n
  (s.setBar c n (if b.arr < b.mem then { b with arr := b.arr + 1 } else { b with held := b.held + 1 })).barCheck c n

/-- Bytes landed on a barrier (R347). -/
def State.land (s : State) (c : CrewId) (n bytes : Nat) : State :=
  let b := (s.crewOf c).bar n
  (s.setBar c n { b with pend := b.pend - bytes }).barCheck c n

/-! ### Completion -/

/-- The flags of a grid transfer reach thread 0 of its wave, if that has not exited (R84, R360). -/
def State.xferFlags (s : State) (x : Xfer) : State :=
  match x.job, x.lead with
  | some j, some p => s.modWv p.wave (fun w => if w.exited then w else { w with fsr := setAt 0 w.fsr 0 (w.fsr.at 0 ||| j.fl.setWidth 32) })
  | _, _ => s

/-- A transfer is complete: its bit of `tags` is set (R340, R364). -/
def State.finishXfer (s : State) (c : CrewId) (x : Xfer) : State :=
  s.modCrew c (fun k => { k with tags := k.tags ||| (1#64 <<< x.tag), xfers := k.xfers.filter (fun y => y.uid ≠ x.uid) })

/-- The push of a transfer may be made: its stream has room, and no earlier-opened transfer's push to it is outstanding, nor may an
earlier-opened copy that still gathers slices, its PART 0 among them, come to push there (R340). -/
def Crew.pushOk (c : Crew) (x : Xfer) (p : Slice) : Bool :=
  let q := c.stream p.sq
  q.ents.length < q.depth && !(c.xfers.takeWhile (fun y => y.uid ≠ x.uid)).any (fun y =>
    match y.lead with | some r => r.sp && r.sq = p.sq | none => !y.started)

/-- A transfer whose push is due makes it if it may, and completes (R340 steps 2 and 3); that of a crew that has ended completes
without it (log 22). -/
def State.pushXfer (s : State) (c : CrewId) (x : Xfer) : State :=
  if x.stage ≠ 1 then s
  else match x.lead with
    | none => s.finishXfer c x
    | some p =>
      if !p.sp || (s.crewOf c).ended then s.finishXfer c x
      else if (s.crewOf c).pushOk x p then
        (s.modCrew c (fun k => { k with streams := setAt ⟨0, []⟩ k.streams p.sq { k.stream p.sq with ents := (k.stream p.sq).ents ++ [p.push] } })).finishXfer c x
      else s

/-- Every transfer whose push is due, in the order they opened. -/
def State.pushAll (s : State) (c : CrewId) : State := (s.crewOf c).xfers.foldl (fun s x => s.pushXfer c x) s

/-- A transfer replaced. -/
def State.setXfer (s : State) (c : CrewId) (x : Xfer) : State :=
  s.modCrew c (fun k => { k with xfers := k.xfers.map (fun y => if y.uid = x.uid then x else y) })

/-- A transfer by its name. -/
def Crew.xfer (c : Crew) (uid : Nat) : Option Xfer := c.xfers.find? (fun x => x.uid = uid)

/-- When every unit of a transfer is performed, its flags are ORed, its member arrival is given to its barrier, and its push follows (R84, R340,
R346, R360, log 27). -/
def State.xferDone (s : State) (c : CrewId) (uid : Nat) : State :=
  match (s.crewOf c).xfer uid with
  | none => s
  | some x =>
    if x.stage ≠ 0 || !x.started || !(x.units.all (fun u => u.st = 3)) then s
    else
      let s := s.xferFlags x
      let s := match x.lead with
        | some p =>
          if p.bm = 1 || p.bm = 3 then (s.setXfer c { x with stage := 1 }).arrive c p.bar else s.setXfer c { x with stage := 1 }
        | none => s.setXfer c { x with stage := 1 }
      s.pushAll c

/-- A unit of a transfer replaced. -/
def Xfer.setUnit (x : Xfer) (k : Nat) (u : XUnit) : Xfer := { x with units := x.units.set k u }

/-- The slice a unit belongs to. -/
def Xfer.sliceOf (x : Xfer) (u : XUnit) : Slice := (x.slices.find? (fun p => p.part = u.part)).getD ⟨⟨0, 0⟩, 0, 0, 0, 0, 0, false, 0, 0⟩

/-- A unit is performed: its bytes land on its slice's barrier, and the transfer may be done (R340, R347). -/
def State.unitDone (s : State) (c : CrewId) (uid k bytes : Nat) : State :=
  match (s.crewOf c).xfer uid with
  | none => s
  | some x => match x.units[k]? with
    | none => s
    | some u =>
      let p := x.sliceOf u
      let s := s.setXfer c (x.setUnit k { u with st := 3 })
      let s := if p.bm = 2 || p.bm = 3 then s.land c p.bar bytes else s
      (s.xferDone c uid).pushAll c

/-- Bytes a unit lands: those of a chunk, or E for each point of a row (R347, R364). -/
def Xfer.unitBytes (x : Xfer) (u : XUnit) : Nat :=
  match x.job with | some j => u.len * (match j.dv.fmt with | 0 => 8 | 1 => 4 | _ => 2) | none => u.len

/-- The last arrival of a unit has been applied or rejected (R341). -/
def State.unitArrived (s : State) (c : CrewId) (tag grp : Nat) : State :=
  match (s.crewOf c).xfers.find? (fun x => x.tag = tag && x.started) with
  | none => s
  | some x => match x.units.findIdx? (fun u => u.st = 2 && u.grp = grp) with
    | none => s
    | some k => match x.units[k]? with
      | some u => s.unitDone c x.uid k (x.unitBytes u)
      | none => s

/-! ### Units -/

/-- What a unit did: it is performed, or its arrivals are posted. -/
inductive UnitOut where
  | done (s : State)
  | posted (s : State)

/-- A unit runs, with the engine's ORIGIN: a fault holds the transfer, which goes on at that unit after the handler and after the wave's held
accesses; an accumulation outcome is reported and it counts as performed; in a grid
that is ending, a faulting transfer is dropped (R182, R339, R363, R377, R433). -/
def State.runUnit (s : State) (c : CrewId) (origin : Nat) (act : State → Xfer → XUnit → Except EngFault UnitOut) (x : Xfer) (k : Nat) : State :=
  match x.units[k]? with
  | none => s
  | some u =>
    let p := x.sliceOf u
    let stuck := !(s.gridOf c.g).ending && (if u.st = 1 then !s.handled p.wave || s.laneHeld p.wave else x.units.any (fun v => v.st = 1))
    if x.stage ≠ 0 || !x.started || 2 ≤ u.st || stuck then s
    else match act s x u with
      | .ok (.done s) => s.unitDone c x.uid k (x.unitBytes u)
      | .ok (.posted s) => s
      | .error (.acc sub a) => (s.postFault p.wave ⟨0x05, 0x80 + sub, a⟩).unitDone c x.uid k (x.unitBytes u)
      | .error (.xlat kd a) =>
        if (s.gridOf c.g).ending then s.modCrew c (fun k => { k with xfers := k.xfers.filter (fun y => y.uid ≠ x.uid) })
        else (s.setXfer c (x.setUnit k { u with st := 1 })).postFault p.wave ⟨0x07, origin * 32 + kd, a⟩

/-- Elements of a chunk as arrivals, by rising address (R341). -/
def State.chunkTargets (s : State) (id : WaveId) (ty va : Nat) (bs : List Byte) : Except EngFault (List (Nat × Leaf × AVal)) :=
  let e := tySize ty
  (List.range (bs.length / e)).foldr (fun i m =>
    let a := (va + e * i) % 2 ^ 64
    match s.engPlace id a .write, m with
    | .error f, _ => .error f
    | _, .error f => .error f
    | .ok l, .ok as => .ok ((a, l, .code ty (leNat ((bs.drop (e * i)).take e))) :: as)) (.ok [])

/-- One chunk of a copy (R339, R341). -/
def State.chunk (s : State) (c : CrewId) (k : Nat) (x : Xfer) (u : XUnit) : Except EngFault UnitOut := do
  let p := x.sliceOf u
  let (bs, s) ← (if 2 ≤ p.dir then engLocal c u.src u.len else engRead p.wave u.src u.len) s
  if x.minor = 2 then
    let as ← s.chunkTargets p.wave p.ty u.dst bs
    let grp := s.nextUid
    let s := { s with nextUid := grp + 1 }
    let s := s.engArrive 2 p.wave grp (.copyOf c x.tag) as
    if s.arriving grp then pure (.posted (s.setXfer c (x.setUnit k { u with st := 2, grp := grp }))) else pure (.done s)
  else if p.dir = 1 || p.dir = 3 then pure (.done (s.writePlace 0 0 [] (.ls c u.dst) bs))
  else
    let ls ← s.engWriteLines p.wave u.dst u.len
    match s.engOpen ls with
    | some f => .error f
    | none => pure (.done (s.engWrite p.wave 3 u.dst ls bs))

/-- Chunk `k` of a copy. -/
def State.copyChunk (s : State) (c : CrewId) (x : Xfer) (k : Nat) : State := s.runUnit c 3 (fun s x u => s.chunk c k x u) x k

/-! ### Posting -/

/-- The chunks of a row (R339). -/
def chunksOf (part src dst n : Nat) : List XUnit :=
  tab ((n + 4095) / 4096) (fun i => ⟨part, src + 4096 * i, dst + 4096 * i, min 4096 (n - 4096 * i), 0, 0⟩)

/-- A transfer joins the open batch of a wave (R338). -/
def Wave.joinBatch (w : Wave) (uid : Nat) : Wave := if w.openBatch.contains uid then w else { w with openBatch := w.openBatch ++ [uid] }

/-- A transfer is opened on its tag, whose bit is cleared (R338, R364). -/
def State.openXfer (s : State) (c : CrewId) (x : Xfer) : State :=
  s.modCrew c (fun k => { k with tags := k.tags &&& ~~~ (1#64 <<< x.tag), xfers := k.xfers ++ [x] })

/-- A copy slice is posted: it opens or joins the copy of its tag, which starts when its slices are in (R338). Step 4 of R337 has been checked at issue:
a deterministic wave's slice is held after it, and one that meets another wave's of the same round at the commit phase, on a part that is in, with
another minor or NP, or beside a started copy, joins the gathering copy, or opens a second one, unchecked, which is the model's choice (log 11). -/
def State.postCopy (s : State) (r : CopyReq) : State :=
  let c := s.crewId r.slice.wave
  let units := r.rows.flatMap (fun q => chunksOf r.slice.part q.1 q.2.1 q.2.2)
  match (s.crewOf c).xfers.find? (fun x => x.tag = r.tag && !x.started) with
  | some x =>
    let x := { x with slices := x.slices ++ [r.slice], units := x.units ++ units, started := x.slices.length = x.np }
    (s.setXfer c x).modWv r.slice.wave (fun w => w.joinBatch x.uid)
  | none =>
    let uid := s.nextUid
    let s := { s with nextUid := uid + 1 }
    (s.openXfer c ⟨uid, r.tag, r.minor, r.np, [r.slice], units, none, r.np = 0, 0⟩).modWv r.slice.wave (fun w => w.joinBatch uid)

/-! ### What a deterministic wave's own held effects show its checks (R243, R350, R366, log 11) -/

/-- The last held effect that a function picks. -/
def Wave.lastHeld (w : Wave) (f : BufOp → Option α) : Option α := w.buf.foldl (fun m b => match f b with | some x => some x | none => m) none

/-- A barrier at which a phase completes where ARR = MEM and PEND = 0 (R346). -/
def Bar.passed (b : Bar) : Bar :=
  if b.mem ≠ 0 && b.arr = b.mem && b.pend = 0 then { b with arr := min b.held b.mem, held := b.held - b.mem, phase := !b.phase } else b

/-- A barrier as the wave's checks see it: its own held effects in their order, and the phases they complete. -/
def State.barSeen (s : State) (n : Nat) : Bar :=
  s.w.buf.foldl (fun b o => match o with
    | .binit k x => if k = n then ⟨0, bit x 32, 0, x % 1024, b.held⟩ else b
    | .barv k => if k = n then { b with arr := b.arr + 1 }.passed else b
    | .bexp k x => if k = n then { b with pend := b.pend + x } else b
    | _ => b) (s.cr.bar n)

/-- DEPTH of a stream as the wave's checks see it. -/
def State.depthSeen (s : State) (n : Nat) : Nat :=
  (s.w.lastHeld (fun o => match o with | .binit k x => if k = n + 16 then some (x % 32) else none | _ => none)).getD (s.cr.stream n).depth

/-- The copies and transfers on a tag as the wave's checks see them: minor, NP, and the parts in; `np + 1` parts make a started one. -/
def State.tagSeen (s : State) (tag : Nat) : Option (Nat × Nat × List Nat) :=
  let now := (s.cr.xfers.find? (fun x => x.tag = tag)).map (fun x => (x.minor, x.np, x.slices.map (·.part)))
  s.w.buf.foldl (fun m o => match o with
    | .copy r => if r.tag = tag then (match m with
        | some (k, n, ps) => some (k, n, ps ++ [r.slice.part])
        | none => some (r.minor, r.np, [r.slice.part])) else m
    | .grid k ctl _ _ => if ctl % 64 = tag then some (k + 8, 0, [0]) else m
    | _ => m) now

/-- Step 4 of R337: the tag cannot take this slice. -/
def State.tagBusy (s : State) (tag minor np part : Nat) : Bool :=
  match s.tagSeen tag with
  | none => false
  | some (k, n, ps) => n < ps.length || k ≠ minor || n ≠ np || ps.contains part

/-- Step 5 of R337: the barrier and the stream. -/
def State.engOk (s : State) (bm bar : Nat) (sp : Bool) (sq : Nat) : Option Trap :=
  if bm ≠ 0 && (s.barSeen bar).mem = 0 then some (.state 0x62)
  else if sp && s.depthSeen sq = 0 then some (.state 0x65) else none

/-- A range of bytes of an operand, from its lowest to its highest offset: a local one must lie below the `.local` size, a memory one must
not meet the aperture (R237, R312, R337). -/
def State.rangeTrap (s : State) (base : Nat) (lo hi : Int) (loc : Bool) : Option Trap :=
  if loc then
    let b : Int := (base % 2 ^ 32 : Nat)
    if b + lo < 0 || (s.cr.lsLen : Int) < b + hi then some (.xlat 0x04 (addrAt (base % 2 ^ 32) lo)) else none
  else if addrAt base lo < 2 ^ 49 && 0x1FFFFFFF00000 ≤ addrAt base (hi - 1) then some (.xlat 0x05 (addrAt base lo)) else none

/-- The ranges of an operand's two sides (R337, R362): every local one is checked before any memory one. -/
def State.rangesTrap (s : State) (rs : List (Nat × (Int × Int) × Bool)) : Option Trap :=
  let on := fun (loc : Bool) => (rs.filter (fun r => r.2.2 == loc)).findSome? (fun r => s.rangeTrap r.1 r.2.1.1 r.2.1.2 loc)
  (on true).or (on false)

/-- The lowest and highest offset over dimensions of a count and a stride, and a width. -/
def span (dims : List (Nat × Int)) (width : Nat) : Int × Int :=
  dims.foldl (fun r d =>
    let top := ((d.1 : Int) - 1) * d.2
    (r.1 + min 0 top, r.2 + max 0 top)) (0, width)

/-! ### Copies -/

/-- The fields of a copy's control word and block (R335, R336). -/
structure CopyArgs where
  ctl : Nat
  len : Nat
  src : Nat
  dst : Nat
  sdims : List (Nat × Int)
  ddims : List (Nat × Int)
  esz : Nat

/-- They, as read at issue. -/
def Wave.copyArgs (w : Wave) (minor a b : Nat) : CopyArgs :=
  let ctl := (w.ws (BitVec.ofNat 7 b)).toNat
  let r := fun i => (w.wr (a + i)).toInt
  let n := fun i => (w.wr (a + i)).toNat
  let box := minor = 1
  { ctl := ctl, len := n 4, src := (w.wr2 a).toNat, dst := (w.wr2 (a + 2)).toNat,
    sdims := if box then [(n 5 / 2 ^ 16, r 7), (n 5 % 2 ^ 16, r 6)] else [(n 5, r 6)],
    ddims := if box then [(n 5 / 2 ^ 16, r 9), (n 5 % 2 ^ 16, r 8)] else [(n 5, r 7)],
    esz := if minor = 2 && bits ctl 31 30 % 2 = 1 then 8 else 4 }

/-- Step 1 of R337. -/
def badCopy (minor : Nat) (g : CopyArgs) : Bool :=
  let c := g.ctl
  bits c 14 12 ≠ 0 || bits c 19 15 < bits c 24 20 || (minor ≠ 2 && bits c 31 30 ≠ 0) || (minor = 2 && bits c 29 28 % 2 = 1)
    || (!bit c 27 && bits c 26 25 ≠ 0) || (bits c 11 10 = 0 && bits c 9 6 ≠ 0)
    || g.len < 4 || 65536 < g.len || g.len % g.esz ≠ 0
    || g.sdims.any (fun d => d.1 < 1 || 4096 < d.1) || 2 ^ 24 < g.sdims.foldl (fun m d => m * d.1) g.len

/-- Strides in the order of the block: source before destination, lines before planes. -/
def CopyArgs.strides (g : CopyArgs) : List Int := (g.sdims.map (·.2)).reverse ++ (g.ddims.map (·.2)).reverse

/-- The rows of a slice: source, destination and bytes (R335, R336). -/
def CopyArgs.rows (g : CopyArgs) : List (Nat × Nat × Nat) :=
  let dir := bits g.ctl 29 28
  let at_ := fun (base : Nat) (loc : Bool) (off : Int) => if loc then ((((base % 2 ^ 32 : Nat) : Int) + off)).toNat else addrAt base off
  let offs := fun (dims : List (Nat × Int)) => dims.foldl (fun (m : List Int) d => m.flatMap (fun o => tab d.1 (fun i => o + (i : Int) * d.2))) [0]
  ((offs g.sdims).zip (offs g.ddims)).map (fun p => (at_ g.src (2 ≤ dir) p.1, at_ g.dst (dir % 2 = 1) p.2, g.len))

/-- The checks of R337 in their order. -/
def State.copyTrap (s : State) (minor : Nat) (g : CopyArgs) : Option Trap :=
  let c := g.ctl
  let dir := bits c 29 28
  let low := fun (x : Nat) (loc : Bool) => if loc then x % 2 ^ 32 else x
  if badCopy minor g then some (.state 0x60)
  else match ([low g.src (2 ≤ dir), low g.dst (dir % 2 = 1)] ++ g.strides.map (addrAt 0)).find? (fun x => x % g.esz ≠ 0) with
    | some x => some (.xlat 0x03 x)
    | none =>
      match s.rangesTrap [(g.src, span g.sdims g.len, 2 ≤ dir), (g.dst, span g.ddims g.len, dir % 2 = 1)] with
      | some t => some t
      | none =>
        if s.tagBusy (bits c 5 0) minor (bits c 19 15) (bits c 24 20) then some (.state 0x61)
        else s.engOk (bits c 11 10) (bits c 9 6) (bit c 27) (bits c 26 25)

/-- The slice that is posted. -/
def CopyArgs.request (g : CopyArgs) (id : WaveId) (minor : Nat) : CopyReq :=
  let c := g.ctl
  let dir := bits c 29 28
  ⟨minor, bits c 5 0, bits c 19 15,
    ⟨id, bits c 24 20, bits c 31 30, dir, bits c 11 10, bits c 9 6, bit c 27, bits c 26 25,
      if dir % 2 = 1 then g.dst % 2 ^ 32 else g.dst⟩, g.rows⟩

/-- A copy instruction (R334-R338, R350). -/
def copyIns (minor : Nat) (a b : Code) (s : State) : Out :=
  s.guarded [⟨.wSrc, b.toNat⟩] (fun s =>
    let w := s.w
    let g := w.copyArgs minor a.toNat b.toNat
    match s.copyTrap minor g with
    | some t => s.trap t
    | none =>
      if w.det then s.modW (fun w => { w with buf := w.buf ++ [BufOp.copy (g.request s.cur minor)] }.retire)
      else if !w.quiet then s.wait (.again 5)
      else (s.postCopy (g.request s.cur minor)).modW (·.retire))

/-- `COPY` (R336). -/
def execCopy (a b : Code) (s : State) : Out := copyIns 0 a b s
/-- `COPYBOX` (R336). -/
def execCopybox (a b : Code) (s : State) : Out := copyIns 1 a b s
/-- `COPYRED` (R341). -/
def execCopyred (a b : Code) (s : State) : Out := copyIns 2 a b s

/-! ### Batches and tags -/

/-- A batch of a wave is complete: none of its transfers is in its crew (R342). -/
def State.batchDone (s : State) (id : WaveId) (b : Batch) : Bool :=
  b.uids.all (fun u => ((s.crewOf (s.crewId id)).xfer u).isNone)

/-- The batches of a wave that are not complete. -/
def State.openBatches (s : State) (id : WaveId) : List Batch := (s.wv id).sealed.filter (fun b => !s.batchDone id b)

/-- The open batch of a wave is sealed under a number (R342). -/
def State.sealBatch (s : State) (id : WaveId) (n : Nat) : State :=
  let left := s.openBatches id
  s.modWv id (fun w => { w with sealed := left ++ [⟨n, w.openBatch⟩], openBatch := [] })

/-- `CSEAL` (R342, R350): a deterministic wave whose incomplete sealed batches, held ones with copies included, are 16 stops for the round, so
that they complete. -/
def execCseal (d : Code) (s : State) : Out :=
  let w := s.w
  let id := s.cur
  let busy := w.openBatch.any (fun u => (s.cr.xfer u).isSome)
  let heldSeals := (w.buf.foldl (fun (r : Nat × Bool) o => match o with
    | .seal _ => (if r.2 then r.1 + 1 else r.1, false)
    | .copy _ | .grid _ _ _ _ => (r.1, true)
    | _ => r) (0, busy)).1
  let up := fun (w : Wave) => { w.setWr d.toNat (BitVec.ofNat 32 w.next) with next := (w.next + 1) % 2 ^ 32 }.retire
  .next (if w.det then
      if 16 ≤ (s.openBatches id).length + heldSeals then s.setW { w with stopped := some .full }
      else s.modW (fun w => up { w with buf := w.buf ++ [BufOp.seal w.next] })
    else if 16 ≤ (s.openBatches id).length then s.wait (.again 7)
    else (s.sealBatch id w.next).modW up)

/-- `cwait` (R343): none while it waits. -/
def State.tryCwait (s : State) (a : Nat) : Option State :=
  let w := s.w
  let n := (w.ws (BitVec.ofNat 7 a)).toNat
  if (n + 2 ^ 32 - w.next) % 2 ^ 32 < 2 ^ 31 then some (s.trap (.state 0x63))
  else if (s.openBatches s.cur).any (fun b => (n + 2 ^ 32 - b.num) % 2 ^ 32 < 2 ^ 31) then none
  else some (s.modW (·.retireYield))

/-- `twaitany` and `twaitall` (R344): none while they wait. -/
def State.tryTwait (s : State) (all : Bool) (a : Nat) : Option State :=
  let m := s.w.wr2 a
  let t := s.cr.tags &&& m
  if (if all then t == m else t != 0 || m == 0) then some (s.modW (·.retireYield)) else none

/-- The lowest set bit, or 64. -/
def lowBit (x : BitVec 64) : Nat := ((List.range 64).find? (fun i => x.getLsbD i)).getD 64

/-- Bits of `tags` cleared, at once or, in a deterministic grid, in the commit phase (R344, R350). -/
def State.clearTags (s : State) (m : BitVec 64) : State :=
  if s.w.det then s.modW (fun w => { w with buf := w.buf ++ [BufOp.tagclr m.toNat] })
  else s.modCr (fun c => { c with tags := c.tags &&& ~~~ m })

/-- `TFFR` (R344). -/
def execTffr (d a : Code) (s : State) : Out :=
  let n := lowBit (s.cr.tags &&& s.w.wr2 a.toNat)
  .next ((if n = 64 then s else s.clearTags (1#64 <<< n)).modW (fun w => (w.setWr d.toNat (BitVec.ofNat 32 n)).retire))

/-- `TAGCLR` (R344). -/
def execTagclr (a : Code) (s : State) : Out := .next ((s.clearTags (s.w.wr2 a.toNat)).modW (·.retire))

/-- `TAGRD` (R344). -/
def execTagrd (d : Code) (s : State) : Out := .next (s.modW (fun w => (w.setWr2 d.toNat s.cr.tags).retire))

/-! ### Barriers and streams -/

/-- The source word of `binit` is invalid (R346, R348). -/
def badBinit (n x : Nat) : Bool :=
  if n < 16 then x % 1024 = 0 || bits x 31 10 ≠ 0 || bits x 63 33 ≠ 0
  else x < 4 || 16 < x

/-- A barrier or a stream initialised (R346, R348). To re-examine the waiting waves against the new PHASE is to look at their conditions again, which
name no PHASE: a `bwait` issued without ARM waits on for the next completion, whatever PHASE has become (log 76). -/
def State.doBinit (s : State) (c : CrewId) (n x : Nat) : State :=
  if n < 16 then (s.setBar c n ⟨0, bit x 32, 0, x % 1024, ((s.crewOf c).bar n).held⟩).barCheck c n
  else (s.modCrew c (fun k => { k with streams := setAt ⟨0, []⟩ k.streams (n - 16) ⟨x, []⟩ })).pushAll c

/-- `BINIT` (R346, R348). -/
def execBinit (d a : Code) (s : State) : Out :=
  let n := d.toNat
  let x := (s.w.wr2 a.toNat).toNat
  .next (if badBinit n x then s.trap (.state 0x64)
    else if s.w.det then s.modW (fun w => { w with buf := w.buf ++ [BufOp.binit n x] }.retire)
    else (s.doBinit s.ci n x).modW (·.retire))

/-- The arrival of a wave: ARM and DONE of the wave, and ARR (R346). One that finds ARR = MEM, which only a commit phase lets in, is held as a
copy's is (log 11). -/
def State.doBarv (s : State) (id : WaveId) (n : Nat) : State :=
  let c := s.crewId id
  let s := s.modWv id (fun w => { w with arm := w.arm ||| (1#16 <<< n), done := w.done &&& ~~~ (1#16 <<< n) })
  s.arrive c n

/-- `BARV` (R271, R346): a release at `cr`, which waits for the wave's earlier accesses. -/
def execBarv (d : Code) (s : State) : Out :=
  let n := d.toNat
  let b := s.barSeen n
  .next (if b.mem = 0 || b.mem ≤ b.arr then s.trap (.state 0x62)
    else if s.w.det then s.modW (fun w => { w with buf := w.buf ++ [BufOp.barv n] }.retire)
    else if !s.w.quiet then s.wait (.again 5)
    else s.release 0 (fun s => (s.doBarv s.cur n).modW (·.retire)))

/-- `bwait` (R346): none while it waits. -/
def State.tryBwait (s : State) (n : Nat) : Option State :=
  let w := s.w
  let met := match w.hold with | some h => h.op = .bwait n true | none => false
  if (s.cr.bar n).mem = 0 then some (s.trap (.state 0x62))
  else if (if w.arm.getLsbD n then w.done.getLsbD n else met) then
    some (s.modW (fun w => { w with arm := w.arm &&& ~~~ (1#16 <<< n), done := w.done &&& ~~~ (1#16 <<< n) }.retireYield))
  else none

/-- PEND raised (R347). A `bexp` held for the commit phase may meet more than its check saw: past 2^24 - 1 the barrier stays as it is, and
BAR_OVERFLOW is reported to the wave later (log 64). -/
def State.doBexp (s : State) (id : WaveId) (n x : Nat) : State :=
  let c := s.crewId id
  let b := (s.crewOf c).bar n
  if 2 ^ 24 - 1 < b.pend + x then s.postFault id ⟨0x04, n, 0⟩ else s.setBar c n { b with pend := b.pend + x }

/-- `BEXP` (R347, R369). -/
def execBexp (d a : Code) (s : State) : Out :=
  s.guarded [⟨.wSrc, a.toNat⟩] (fun s =>
    let n := d.toNat
    let x := (s.w.ws a).toNat
    let b := s.barSeen n
    if b.mem = 0 then s.trap (.state 0x62)
    else if 2 ^ 24 - 1 < b.pend + x then s.trap { cls := 0x04, sub := n }
    else if s.w.det then s.modW (fun w => { w with buf := w.buf ++ [BufOp.bexp n x] }.retire)
    else (s.doBexp s.cur n x).modW (·.retire))

/-- `spop` (R348): none while the stream is empty. -/
def State.trySpop (s : State) (d b : Nat) : Option State :=
  let q := s.cr.stream b
  if s.depthSeen b = 0 then some (s.trap (.state 0x65))
  else match q.ents with
    | [] => none
    | e :: es =>
      let s := s.modCr (fun c => { c with streams := setAt ⟨0, []⟩ c.streams b { q with ents := es } })
      some (s.modW (fun w => (w.setWr2 d (BitVec.ofNat 64 e)).retireYield))

/-- `spush` (R263, R271, R348, R349): a release at `cr`; none while the wave's earlier accesses are not performed. -/
def State.trySpush (s : State) (d a b : Nat) : Option State :=
  let w := s.w
  let q := s.cr.stream b
  if s.depthSeen b = 0 then some (s.trap (.state 0x65))
  else if !w.quiet then none
  else some (s.release 0 (fun s =>
    if q.depth ≤ q.ents.length then s.modW (fun w => (w.setWr d 1).retire)
    else
      let e := (w.wr2 a).toNat
      let s := s.modCr (fun c => { c with streams := setAt ⟨0, []⟩ c.streams b { q with ents := q.ents ++ [e] } })
      s.modW (fun w => (w.setWr d 0).retire)))

/-! ### Events -/

/-- The transfer on a tag that runs, if its crew is bound to a core that is not halted; those of a deterministic grid run in its commit
phases (R350). -/
def State.running (s : State) (c : CrewId) (tag : Nat) : Option Xfer :=
  let k := s.crewOf c
  if (s.gridOf c.g).det || !k.bound && !k.ended || (s.coreOf k.core).halted then none else k.xfers.find? (fun x => x.tag = tag && x.started)

/-- `COPY_CHUNK` (R339). -/
def execCopyChunk (g cr tag k : Nat) (s : State) : Out :=
  .next (match s.running ⟨g, cr⟩ tag with
    | some x => if x.job.isNone then s.copyChunk ⟨g, cr⟩ x k else s
    | none => s)

/-- `ENGINE_STREAM_PUSH` (R340). -/
def execEngineStreamPush (g cr tag : Nat) (s : State) : Out :=
  .next (match s.running ⟨g, cr⟩ tag with
    | some x => s.pushXfer ⟨g, cr⟩ x
    | none => s)

end Sys2Proof.Machine
end

