-- ==== Sys2Proof/Machine/GridXfer.lean ====
section
/-! DEFINITION. Grid transfer: views, weight sets, the checks of a transfer, its output rows, and the instructions of major 0x17
(R352-R366). -/

namespace Sys2Proof.Machine

/-- Elements of a view (R354). -/
def View.esz (v : View) : Nat := match v.fmt with | 0 => 8 | 1 => 4 | _ => 2
/-- The format of a view. -/
def View.F (v : View) : Fmt := match v.fmt with | 0 => f64 | 1 => f32 | 2 => f16 | _ => bf16
/-- No view (R352). -/
def View.none_ : View := ⟨false, 0, 0, 0, 0, 0, 0, 0, false, 0, 0, 0⟩
/-- The weight set of a crew just bound (R352). -/
def WSet.unit : WSet := ⟨1, 1, 1, [0]⟩
/-- An extent of a weight set by axis. -/
def WSet.ext (w : WSet) : Nat → Nat | 0 => w.sx | 1 => w.sy | _ => w.sz
/-- An extent of a view by axis. -/
def View.n (v : View) : Nat → Nat | 0 => v.nx | 1 => v.ny | _ => v.nz

/-! ### `gview` and `gstn` -/

/-- The view in seven wave registers (R353, R354). -/
def Wave.viewOf (w : Wave) (a : Nat) : View :=
  let r := fun i => (w.wr (a + i)).toNat
  let fw := r 6
  ⟨true, (w.wr2 a).toNat, r 2 % 2 ^ 16, r 2 / 2 ^ 16, r 3 % 2 ^ 16, bits (r 3) 17 16, (w.wr (a + 4)).toInt, (w.wr (a + 5)).toInt,
    bit fw 7, bits fw 6 5, bits fw 4 3, fw % 4⟩

/-- The operand block of `gview` is invalid (R353, R354). -/
def badView (v : View) (w3 fw : Nat) : Bool :=
  bits w3 31 18 ≠ 0 || bits fw 31 8 ≠ 0 || bit fw 2 || v.dims = 0 || v.nx = 0 || v.ny = 0 || v.nz = 0
    || (v.dims < 2 && 1 < v.ny) || (v.dims < 3 && 1 < v.nz)

/-- `GVIEW` (R353, R366). -/
def execGview (d a : Code) (s : State) : Out :=
  let w := s.w
  let v := w.viewOf a.toNat
  .next (if badView v (w.wr (a.toNat + 3)).toNat (w.wr (a.toNat + 6)).toNat then s.trap (.state 0x70)
    else match [v.base, addrAt 0 v.sy, addrAt 0 v.sz].find? (fun x => x % v.esz ≠ 0) with
      | some x => s.trap (.xlat 0x03 x)
      | none =>
        (if w.det then s.modW (fun w => { w with buf := w.buf ++ [BufOp.gview d.toNat v] })
          else s.modCr (fun c => { c with views := setAt View.none_ c.views d.toNat v })).modW (·.retire))

/-- The weights in `n` words. -/
def weightsOf (bs : List Byte) (n : Nat) : List Nat := tab n (fun i => leNat ((bs.drop (4 * i)).take 4))

/-- `GSTN` (R355, R366): the weights are in place when it retires. -/
def execGstn (d a b : Code) (s : State) : Out :=
  s.guarded [⟨.wSrc, b.toNat⟩] (fun s =>
    let w := s.w
    let sh := (w.ws b).toNat
    let va := (w.wr2 a.toNat).toNat
    let (x, y, z) := (bits sh 1 0 + 1, bits sh 3 2 + 1, bits sh 5 4 + 1)
    if bits sh 31 6 ≠ 0 then s.trap (.state 0x71)
    else if !w.quiet then s.wait (.again 5)
    else if w.det then
      match s.uniCheck va (4 * (x * y * z)) 4 with
      | some t => s.trap t
      | none => s.modW (fun w => { w with buf := w.buf ++ [BufOp.gstn d.toNat va x y z] }.retire)
    else match s.uniRead va (4 * (x * y * z)) 4 with
      | .error t => s.trap t
      | .ok (bs, s) =>
        (s.modCr (fun c => { c with wsets := setAt WSet.unit c.wsets d.toNat ⟨x, y, z, weightsOf bs (x * y * z)⟩ })).modW (·.retire))

/-! ### The checks of a transfer -/

/-- A view as the wave's checks see it: its own held `gview` first (R243, R366, log 11). -/
def State.viewSeen (s : State) (n : Nat) : View :=
  (s.w.lastHeld (fun o => match o with | .gview k v => if k = n then some v else none | _ => none)).getD (s.cr.views.getD n View.none_)

/-- The extents of a weight set as the wave's checks see them. -/
def State.wsetSeen (s : State) (n : Nat) : WSet :=
  (s.w.lastHeld (fun o => match o with | .gstn k _ x y z => if k = n then some ⟨x, y, z, []⟩ else none | _ => none)).getD
    (s.cr.wsets.getD n WSet.unit)

/-- `grst` or `gred`: from fine to coarse. -/
def restricts (minor : Nat) : Bool := minor = 2 || minor = 5

/-- The weight sets a transfer uses (R358). -/
def setsOf (minor first dims : Nat) : List Nat := if restricts minor then [first] else tab (2 ^ dims) (first + ·)

/-- The last line a transfer writes (R357). -/
def lastLine (dv : View) (fline nlines : Nat) : Nat := if nlines = 0 then dv.ny * dv.nz - 1 else fline + nlines - 1

/-- Step 1 of R362. -/
def badGrid (minor ctl fline nlines : Nat) (sv dv : View) (ws : Nat → WSet) : Bool :=
  let first := bits ctl 23 21
  let d := dv.dims
  bits ctl 11 8 ≠ 0 || (!bit ctl 20 && bits ctl 19 18 ≠ 0) || (bits ctl 17 16 = 0 && bits ctl 15 12 ≠ 0)
    || (minor = 5 && bits ctl 7 6 ≠ 0) || !sv.valid || !dv.valid || sv.dims ≠ d
    || 7 < (setsOf minor first d).getLastD 0
    || (setsOf minor first d).any (fun n => [0, 1, 2].any (fun a => d ≤ a && 1 < (ws n).ext a))
    || dv.ny * dv.nz ≤ fline || dv.ny * dv.nz ≤ lastLine dv fline nlines
    || (minor = 5 && (1 < dv.fmt || dv.ls))

/-- The source coordinate of weight p on an axis, for destination coordinate i (R358). -/
def srcCoord (minor : Nat) (ext i p : Nat) : Int := (if restricts minor then 2 * (i : Int) else ((i / 2 : Nat) : Int)) + p - (((ext - 1) / 2 : Nat) : Int)

/-- The lowest and highest destination coordinate of a class's parity in a range; none when there is none. -/
def parityRange (lo hi par : Nat) : Option (Nat × Nat) :=
  let l := if lo % 2 = par then lo else lo + 1
  let h := if hi % 2 = par then hi else hi - 1
  if hi % 2 ≠ par && hi = 0 then none else if l ≤ h then some (l, h) else none

/-- Lines `fline` to `last` as boxes of y and z (R357). -/
def lineBoxes (ny fline last : Nat) : List ((Nat × Nat) × (Nat × Nat)) :=
  let (z0, y0, z1, y1) := (fline / ny, fline % ny, last / ny, last % ny)
  if z0 = z1 then [((y0, y1), (z0, z0))]
  else [((y0, ny - 1), (z0, z0)), ((0, y1), (z1, z1))] ++ (if z0 + 1 < z1 then [((0, ny - 1), (z0 + 1, z1 - 1))] else [])

/-- Step 2 of R362: with a halo source, some source coordinate lies more than HALO outside. -/
def badReach (minor first fline nlines : Nat) (sv dv : View) (ws : Nat → WSet) : Bool :=
  sv.bnd = 3 && (lineBoxes dv.ny fline (lastLine dv fline nlines)).any (fun box =>
    let rng := fun a => if a = 0 then (0, dv.nx - 1) else if a = 1 then box.1 else box.2
    (List.range (setsOf minor first dv.dims).length).any (fun c =>
      let set := ws ((setsOf minor first dv.dims).getD c 0)
      let axes := (List.range dv.dims).map (fun a =>
        (a, if restricts minor then some (rng a) else parityRange (rng a).1 (rng a).2 (c / 2 ^ a % 2)))
      axes.all (fun p => p.2.isSome) && axes.any (fun p => match p.2 with
        | none => false
        | some (lo, hi) =>
          let e := set.ext p.1
          srcCoord minor e lo 0 < -(sv.halo : Int) || (sv.n p.1 : Int) - 1 + sv.halo < srcCoord minor e hi (e - 1))))

/-- The byte range of a view, halo included (R362 step 3). -/
def View.bytes (v : View) : Int × Int :=
  let ax := fun (a : Nat) (st : Int) =>
    let h : Int := if a < v.dims then v.halo else 0
    let (x, y) := (-h * st, ((v.n a : Int) - 1 + h) * st)
    (min x y, max x y)
  let r := [ax 0 v.esz, ax 1 v.sy, ax 2 v.sz]
  (r.foldl (fun m p => m + p.1) 0, r.foldl (fun m p => m + p.2) v.esz)

/-- The checks of R362 in their order. -/
def State.gridTrap (s : State) (minor ctl fline nlines : Nat) : Option Trap :=
  let sv := s.viewSeen (bits ctl 31 28)
  let dv := s.viewSeen (bits ctl 27 24)
  if badGrid minor ctl fline nlines sv dv s.wsetSeen then some (.state 0x72)
  else if badReach minor (bits ctl 23 21) fline nlines sv dv s.wsetSeen then some (.state 0x73)
  else match s.rangesTrap [(sv.base, sv.bytes, sv.ls), (dv.base, dv.bytes, dv.ls)] with
    | some t => some t
    | none =>
      if s.tagBusy (bits ctl 5 0) (minor + 8) 0 0 then some (.state 0x61)
      else s.engOk (bits ctl 17 16) (bits ctl 15 12) (bit ctl 20) (bits ctl 19 18)

/-! ### Posting -/

/-- A rounding mode of R357. -/
def gridRM : Nat → RM | 0 => .rne | 1 => .rtz | 2 => .rup | _ => .rdn

/-- The output rows of a transfer (R363): the first x, the line and the number of points. -/
def rowsOf (dv : View) (fline last : Nat) : List XUnit :=
  (tab (last + 1 - fline) (fline + ·)).flatMap (fun l =>
    tab ((dv.nx + 255) / 256) (fun i => ⟨0, 256 * i, l, min 256 (dv.nx - 256 * i), 0, 0⟩))

/-- A transfer is posted, with a copy of its views and weight sets (R357, R364, R365). Its minor in the engine is that of major 0x17 plus
8. -/
def State.postGrid (s : State) (id : WaveId) (minor ctl fline nlines : Nat) : State :=
  let c := s.crewId id
  let k := s.crewOf c
  let sv := k.views.getD (bits ctl 31 28) View.none_
  let dv := k.views.getD (bits ctl 27 24) View.none_
  let uid := s.nextUid
  let sl : Slice := ⟨id, 0, 0, 0, bits ctl 17 16, bits ctl 15 12, bit ctl 20, bits ctl 19 18, if dv.ls then dv.base % 2 ^ 32 else dv.base⟩
  let job : GridJob := ⟨minor, bits ctl 23 21, sv, dv, k.wsets, bits ctl 7 6, 0⟩
  let s := { s with nextUid := uid + 1 }
  (s.openXfer c ⟨uid, bits ctl 5 0, minor + 8, 0, [sl], rowsOf dv fline (lastLine dv fline nlines), some job, true, 0⟩).modWv id
    (fun w => w.joinBatch uid)

/-- A grid-transfer instruction (R357, R362, R366). -/
def gridIns (minor : Nat) (a b : Code) (s : State) : Out :=
  s.guarded [⟨.wSrc, b.toNat⟩] (fun s =>
    let w := s.w
    let ctl := (w.ws b).toNat
    let fline := (w.wr a.toNat).toNat
    let nlines := (w.wr (a.toNat + 1)).toNat
    match s.gridTrap minor ctl fline nlines with
    | some t => s.trap t
    | none =>
      if w.det then s.modW (fun w => { w with buf := w.buf ++ [BufOp.grid minor ctl fline nlines] }.retire)
      else if !w.quiet then s.wait (.again 5)
      else (s.postGrid s.cur minor ctl fline nlines).modW (·.retire))

/-- `GRST` (R357). -/
def execGrst (a b : Code) (s : State) : Out := gridIns 2 a b s
/-- `GPROL` (R357). -/
def execGprol (a b : Code) (s : State) : Out := gridIns 3 a b s
/-- `GPROLADD` (R357). -/
def execGproladd (a b : Code) (s : State) : Out := gridIns 4 a b s
/-- `GRED` (R361). -/
def execGred (a b : Code) (s : State) : Out := gridIns 5 a b s

/-! ### Rows -/

/-- A code of a narrower format as a binary64 code, its NaN payload and quiet bit kept: read by value (R359). -/
def widen (S : Fmt) (c : Nat) : Nat :=
  match S.val c with
  | .nan n f _ => f64.pack n (f64.emaxField * 2 ^ 52 + f * 2 ^ (52 - S.fb))
  | .inf n => f64.inf n
  | .zero n => f64.zero n
  | .fin n m e => (f64.round .rne ⟨n, m, e⟩).1

/-- The address of a point (R353): an offset of the local store, or a virtual address. -/
def View.addr (v : View) (i j k : Int) : Nat :=
  let off := i * v.esz + j * v.sy + k * v.sz
  if v.ls then (((v.base % 2 ^ 32 : Nat) : Int) + off).toNat else addrAt v.base off

/-- A point's code, read by the engine. -/
def point (id : WaveId) (v : View) (i j k : Int) : EngRead Nat := do
  let bs ← if v.ls then engLocal ((← get).crewId id) (v.addr i j k) v.esz else engRead id (v.addr i j k) v.esz
  pure (leNat bs)

/-- A coordinate under the boundary mode (R359): none where `Fetch` returns +0. -/
def bound (bnd n : Nat) (c : Int) : Option Int :=
  if 0 ≤ c && c < n then some c
  else match bnd with
    | 0 => none
    | 3 => some c
    | m =>
      let c := if m = 2 then (if c < 0 then -c else 2 * ((n : Int) - 1) - c) else c
      some (clampI 0 ((n : Int) - 1) c)

/-- `Fetch` (R359), as a binary64 code. -/
def fetch (id : WaveId) (v : View) (i j k : Int) : EngRead Nat :=
  match bound v.bnd v.nx i, bound v.bnd v.ny j, bound v.bnd v.nz k with
  | some i, some j, some k => widen v.F <$> point id v i j k
  | _, _, _ => pure 0

/-- The accumulator of one destination point (R360). -/
def gridPoint (id : WaveId) (g : GridJob) (i j k : Nat) : EngRead (Nat × FFlags) := do
  let cls := if restricts g.kind then 0
    else (if 0 < g.dv.dims then i % 2 else 0) + (if 1 < g.dv.dims then 2 * (j % 2) else 0) + (if 2 < g.dv.dims then 4 * (k % 2) else 0)
  let ws := g.wsets.getD (g.first + cls) WSet.unit
  let start ← if g.kind = 4 then widen g.dv.F <$> point id g.dv i j k else pure 0
  let co := fun (a i p : Nat) => if a < g.dv.dims then srcCoord g.kind (ws.ext a) i p else 0
  let vs ← gatherE (fun n => fetch id g.sv (co 0 i (n % ws.sx)) (co 1 j (n / ws.sx % ws.sy)) (co 2 k (n / (ws.sx * ws.sy))))
    (List.range (ws.sx * ws.sy * ws.sz))
  pure ((vs.zip ws.ws).foldl (fun r p =>
    let (x, f) := fpCore .fma f64 ⟨.rne, false, false⟩ (widen f32 p.2) p.1 r.1
    (x, r.2 ||| f)) (start, 0))

/-- The lines each point of a row writes, or the fault of the first that fails. -/
def State.pointLines (s : State) (id : WaveId) (v : View) (j k : Nat) : List Nat → Except EngFault (List (List (Nat × Leaf)))
  | [] => .ok []
  | i :: is => match s.engWriteLines id (v.addr i j k) v.esz with
    | .error e => .error e
    | .ok l => (s.pointLines id v j k is).map (l :: ·)

/-- Flags of a transfer gathered until it completes (R360). -/
def State.gatherFlags (s : State) (c : CrewId) (x : Xfer) (fl : FFlags) : State :=
  match x.job with
  | some g => s.setXfer c { x with job := some { g with fl := g.fl ||| fl } }
  | none => s

/-- One output row (R360, R361, R363). -/
def State.outRow (s : State) (c : CrewId) (n : Nat) (x : Xfer) (u : XUnit) : Except EngFault UnitOut :=
  match x.job with
  | none => .ok (.done s)
  | some g => do
    let id := (x.sliceOf u).wave
    let (j, k) := (u.dst % g.dv.ny, u.dst / g.dv.ny)
    let xs := tab u.len (u.src + ·)
    let (accs, s) ← gatherE (fun x => gridPoint id g x j k) xs s
    let fl := accs.foldl (fun f a => f ||| a.2) 0
    if g.kind = 5 then
      let as ← (xs.zip accs).foldr (fun p m =>
        let va := g.dv.addr p.1 j k
        match s.engPlace id va .write, m with
        | .error e, _ => .error e
        | _, .error e => .error e
        | .ok l, .ok as => .ok ((va, l, AVal.code 1 p.2.1) :: as)) (.ok [])
      let grp := s.nextUid
      let s := { s with nextUid := grp + 1 }
      let x := { x with job := some { g with fl := g.fl ||| fl } }
      let s := s.engArrive 3 id grp (.copyOf c x.tag) as
      if s.arriving grp then pure (.posted (s.setXfer c (x.setUnit n { u with st := 2, grp := grp }))) else pure (.done (s.setXfer c x))
    else
      let outs := accs.map (fun a => cnvFF f64 g.dv.F ⟨gridRM g.rm, false, false⟩ a.1)
      let fl := outs.foldl (fun f o => f ||| o.2) fl
      let s := s.gatherFlags c x fl
      let bytes := fun (o : Nat × FFlags) => leBytes g.dv.esz o.1
      if g.dv.ls then
        pure (.done ((xs.zip outs).foldl (fun s p => s.writePlace 0 0 [] (.ls c (g.dv.addr p.1 j k)) (bytes p.2)) s))
      else
        let ls ← s.pointLines id g.dv j k xs
        match s.engOpen ls.flatten with
        | some f => .error f
        | none => pure (.done ((ls.zip (xs.zip outs)).foldl (fun s p =>
            s.engWrite id 4 (g.dv.addr p.2.1 j k) p.1 (bytes p.2.2)) s))

/-- Output row `k` of a grid transfer. -/
def State.gridStep (s : State) (c : CrewId) (x : Xfer) (k : Nat) : State := s.runUnit c 4 (fun s x u => s.outRow c k x u) x k

/-- `GRID_TRANSFER_ROW` (R363). -/
def execGridTransferRow (g cr tag k : Nat) (s : State) : Out :=
  .next (match s.running ⟨g, cr⟩ tag with
    | some x => if x.job.isSome then s.gridStep ⟨g, cr⟩ x k else s
    | none => s)

end Sys2Proof.Machine
end

