-- ==== Sys2Proof/Machine/Launch.lean ====
section
/-! DEFINITION. What `launch`, `dwait` and `gbar` do when they are performed (R191-R194). Their meanings stand in Machine/Sync.lean. -/

namespace Sys2Proof.Machine

/-- The die of a core (R178). -/
def dieOfCore (core : Nat) : Nat := core / 96

/-- `launch` (R192): none while its release waits for the wave's earlier accesses. -/
def State.tryLaunch (s : State) (d a : Nat) : Option State :=
  let w := s.w
  let va := (w.wr2 a).toNat
  match s.uniRead va 256 64 with
  | .error t => some (s.trap t)
  | .ok (_, _) =>
    if !w.quiet then none
    else some (s.release 3 (fun s =>
      match s.uniRead va 256 64 with
      | .error t => s.trap t
      | .ok (bs, s) =>
        let n := dieOfCore w.core
        if 256 ≤ (s.dieOf n).devq.length then s.modW (fun w => (w.setWr d 1).retire)
        else (s.modDie n (fun x => { x with devq := x.devq ++ [(s.ctxN s.cur.g, bs)] })).modW (fun w => (w.setWr d 0).retire)))

/-- What a `dwait` reads must come after an earlier access of the wave: one to a byte of the word, a store, or an acquire (R14, R247, R263). -/
def State.dwaitBlocked (s : State) (va : Nat) (p : Place) : Bool :=
  let f : Flight := ⟨.load false, 8, true, 5, .none, [⟨0, va, 0, 0, none, some p, false⟩], s.w.sup, s.nextUid⟩
  s.w.inflight.any (·.before f)

/-- `dwait` (R193): none while the word, read at the home slice, is below the threshold, or while an earlier access must come first; an acquire,
it waits for no other. -/
def State.tryDwait (s : State) (a b : Nat) : Option State :=
  let w := s.w
  let va := (w.ws2 (BitVec.ofNat 7 a)).toNat
  match s.uniPlace va 8 8 with
  | .error t => some (s.trap t)
  | .ok (p, s) =>
    if s.dwaitBlocked va p then none
    else
      let s := s.touchPlace w.core 4 p 8
      if s.readPlace w.core 4 p 8 < (w.ws2 (BitVec.ofNat 7 b)).toNat then none
      else some ((s.acquire w.core 4).modW (·.retireYield))

/-- A wave has arrived in `gbar` phase `j`, or has passed it (R194). -/
def Wave.inPhase (w : Wave) (j : Nat) : Bool := j < w.gphase || (w.gphase = j && w.gArrived)

/-- Every wave of the executing wave's grid that has not exited has arrived in its phase, the wave itself counted as arrived. -/
def State.gbarMet (s : State) : Bool :=
  let j := s.w.gphase
  (s.live s.cur.g).all (fun i => i = s.cur || (s.wv i).inPhase j)

/-- `gbar` (R194): none while its release waits for the wave's earlier accesses, or while its phase is not complete; where its wait began before the
release could be performed, it arrives then, and goes on waiting. One issued afresh after a handler ran while it waited keeps its arrival, and
makes no second release (log 74). -/
def State.tryGbar (s : State) : Option State :=
  let w := s.w
  let pass := fun (s : State) => (s.acquire w.core 3).modW (fun w => { w with gArrived := false, gphase := w.gphase + 1 }.retireYield)
  if !s.g.coop then some (s.trap (.state 0x20))
  else if !w.gArrived && !w.quiet then none
  else if !s.gbarMet then
    if w.gArrived then none
    else match s.writeDown s.cur w.core 3 with
      | (s, some a) => some (s.trap (.release a))
      | (t, none) => if w.hold.isSome then some (t.modW (fun w => { w with gArrived := true })) else none
  else some (if w.gArrived then pass s else s.release 3 pass)

/-- The first wait of a `gbar` at which its release is performed: it arrives in its phase. -/
def State.arriveGbar (s : State) : State :=
  let w := s.w
  if w.gArrived || !w.quiet then s
  else (s.writeDown s.cur w.core 3).1.modW (fun w => { w with gArrived := true })

end Sys2Proof.Machine
end

