-- ==== Sys2Proof/Machine/Mx.lean ====
section
/-! DEFINITION. Microscaling formats (R85-R93) and the lane instructions of major 0x14 (R322-R325). A format is its number in the
order of R60: 0 e4m3, 1 e5m2, 2 e3m2, 3 e2m3, 4 e2m1, 5 mxi8. -/

namespace Sys2Proof.Machine

/-- Widths and bias of a float element format (R85). -/
def mxFmt (k : Nat) : Fmt :=
  match k with
  | 0 => ⟨4, 3, 7⟩
  | 1 => ⟨5, 2, 15⟩
  | 2 => ⟨3, 2, 3⟩
  | 3 => ⟨2, 3, 1⟩
  | _ => ⟨2, 1, 1⟩

/-- Bits of an element (R85). -/
def mxWidth (k : Nat) : Nat := match k with | 2 | 3 => 6 | 4 => 4 | _ => 8

/-- The largest finite magnitude's code (R85). -/
def mxLargest (k : Nat) : Nat := match k with | 0 => 0x7E | 1 => 0x7B | 2 | 3 => 0x1F | 4 => 0x7 | _ => 0x7F

/-- `emax` of R322. -/
def mxEmax (k : Nat) : Int := match k with | 0 => 8 | 1 => 15 | 2 => 4 | 3 => 2 | 4 => 2 | _ => 0

/-- The value of an element code (R86-R90); no NaN code is signalling. -/
def mxVal (k c : Nat) : FVal :=
  if k = 5 then
    let n := signed 8 c
    if n = 0 then .zero false else .fin (n < 0) n.natAbs (-6)
  else
    let F := mxFmt k
    let (s, e, f) := (F.sign c, F.expo c, F.frac c)
    if k = 0 && e = 15 && f = 7 then .nan s f true
    else if k = 1 && e = 31 then (if f = 0 then .inf s else .nan s f true)
    else if e = 0 then (if f = 0 then .zero s else .fin s f (F.emin - F.fb))
    else .fin s (2 ^ F.fb + f) ((e : Int) - F.bias - F.fb)

/-- `RoundTo` of a finite nonzero real into a float element format (R93 steps 3 and 4). -/
def mxRoundFin (k : Nat) (rm : RM) (x : Term) : Nat × FFlags :=
  let F := mxFmt k
  let e0 := (x.m.log2 : Int) + x.e - F.fb
  let u := (roundAt rm x.neg x.m x.e e0).1
  let top := (u.log2 : Int) + e0
  let e1 := max e0 (F.emin - F.fb)
  let (q, inx) := roundAt rm x.neg x.m x.e e1
  let mag := (e1 + F.fb + F.bias - 1).toNat * 2 ^ F.fb + q
  if mxLargest k < mag then (F.pack x.neg (mxLargest k), fOF ||| fNX)
  else (F.pack x.neg mag, if inx then (if top < F.emin then fUF ||| fNX else fNX) else 0)

/-- `RoundTo` of a finite real into MXINT8 (R93 step 5). -/
def mxRoundInt (rm : RM) (x : Term) : Nat × FFlags :=
  let (q, inx) := roundAt rm x.neg x.m (x.e + 6) 0
  let n : Int := if x.neg then -(q : Int) else q
  if 127 < n then (0x7F, fOF ||| fNX) else if n < -128 then (0x80, fOF ||| fNX)
  else (wrap 8 n, if inx then fNX else 0)

/-- `RoundTo` into an element format (R93). -/
def mxRound (k : Nat) (rm : RM) (v : FVal) : Nat × FFlags :=
  let F := mxFmt k
  match v with
  | .nan s _ _ => if k = 0 then (F.pack s 0x7F, 0) else if k = 1 then (F.pack s 0x7E, 0) else (0, fNV)
  | .inf s =>
    if k = 1 then (F.pack s 0x7C, 0)
    else if k = 5 then (if s then 0x80 else 0x7F, fNV) else (F.pack s (mxLargest k), fNV)
  | .zero s => if k = 5 then (0, 0) else (F.pack s 0, 0)
  | .fin s m e => if k = 5 then mxRoundInt rm ⟨s, m, e⟩ else mxRoundFin k rm ⟨s, m, e⟩

/-- A reading times a power of two. -/
def FVal.scale (v : FVal) (d : Int) : FVal := match v with | .fin s m e => .fin s m (e + d) | v => v

/-- Element `i` of a block (R92). -/
def mxElem (k : Nat) (block : List Byte) (i : Nat) : FVal :=
  let w := mxWidth k
  mxVal k (leNat (tab 2 (fun j => block.getD (i * w / 8 + j) 0)) / 2 ^ (i * w % 8) % 2 ^ w)

/-- Bytes of a block (R92). -/
def mxBytes (k : Nat) : Nat := 4 * mxWidth k

/-- Flags ORed into `fsr`, whatever the enables (R84). -/
def Wave.orFlags (w : Wave) (p : Nat → Bool) (fl : Nat → FFlags) : Wave :=
  { w with fsr := tab threads (fun t => if p t then w.fsrOf t ||| (fl t).setWidth 32 else w.fsrOf t) }

/-- The active threads of a beat whose input is not a NaN: their largest magnitude as a binary32 code (R322). -/
def Wave.maxMag (w : Wave) (a : Code) (ts : List Nat) : Nat :=
  ts.foldl (fun m t => let c := (w.vr a t).toNat; if f32.isNaN c then m else max m (fpAbs f32 c)) 0

/-- X of a block from the largest magnitude (R322). -/
def mxScale (k mag : Nat) : Int :=
  match f32.val mag with
  | .fin _ m e => clampI (-127) 127 ((m.log2 : Int) + e - mxEmax k)
  | .inf _ => 127
  | _ => -127

/-- `cvtmx` into a format (R322). -/
def cvtmx (k : Nat) (d a b : Code) (s : State) : Out :=
  s.guarded [⟨.vDst, d.toNat⟩, ⟨.vSrc, a.toNat⟩] (fun s =>
    let w := s.w
    let ctl := (w.wr b.toNat).toNat
    if 4 ≤ ctl then s.trap (.state 0x51)
    else
      let beat := fun n => w.actives.filter (fun t => t / 32 = n)
      let xs := tab 3 (fun n => mxScale k (w.maxMag a (beat n)))
      let res := tab threads (fun t =>
        if w.act t then mxRound k .rne ((f32.val (w.vr a t).toNat).scale (-(xs.getD (t / 32) 0))) else (0, 0))
      let sc := fun n => if (beat n).isEmpty then 0 else (xs.getD n 0 + 127).toNat
      let old := (w.amx.getD ctl 0).toNat
      let nan := w.actives.any (fun t => f32.isNaN (w.vr a t).toNat)
      let new := max (old % 2 ^ 31) (w.maxMag a w.actives) + (if nan || 2 ^ 31 ≤ old then 2 ^ 31 else 0)
      s.modW (fun w =>
        let w := (w.orFlags w.act (fun t => (res.getD t (0, 0)).2)).putRow d.toNat w.act
          (fun t => BitVec.ofNat 32 (res.getD t (0, 0)).1)
        let w := { w with amx := setAt 0 w.amx ctl (BitVec.ofNat 32 new) }
        (w.setWr (b.toNat + 1) (BitVec.ofNat 32 (sc 0 + sc 1 * 2 ^ 8 + sc 2 * 2 ^ 16))).retire))

/-- `dqmx` of a format (R323). -/
def dqmx (k : Nat) (d a b : Code) (s : State) : Out :=
  s.guarded [⟨.vDst, d.toNat⟩, ⟨.vSrc, a.toNat⟩, ⟨.wSrc, b.toNat⟩] (fun s =>
    let w := s.w
    let one := fun t =>
      let sc : Nat := (w.ws b).toNat / 256 ^ (t / 32) % 256
      if sc = 255 then (f32.defNaN, (0 : FFlags))
      else match (mxVal k ((w.vr a t).toNat % 2 ^ mxWidth k)).scale ((sc : Int) - 127) with
        | .nan _ _ _ => (f32.defNaN, 0)
        | .inf n => (f32.inf n, 0)
        | .zero n => (f32.zero n, 0)
        | .fin n m e => f32.round .rne ⟨n, m, e⟩
    let res := tab threads (fun t => if w.act t then one t else (0, 0))
    s.modW (fun w => ((w.orFlags w.act (fun t => (res.getD t (0, 0)).2)).putRow d.toNat w.act
      (fun t => BitVec.ofNat 32 (res.getD t (0, 0)).1)).retire))

/-- `CVTMX_E4M3_F32` (R322). -/
def execCvtmxE4m3F32 (d a b : Code) (s : State) : Out := cvtmx 0 d a b s
/-- `CVTMX_E5M2_F32` (R322). -/
def execCvtmxE5m2F32 (d a b : Code) (s : State) : Out := cvtmx 1 d a b s
/-- `CVTMX_E3M2_F32` (R322). -/
def execCvtmxE3m2F32 (d a b : Code) (s : State) : Out := cvtmx 2 d a b s
/-- `CVTMX_E2M3_F32` (R322). -/
def execCvtmxE2m3F32 (d a b : Code) (s : State) : Out := cvtmx 3 d a b s
/-- `CVTMX_E2M1_F32` (R322). -/
def execCvtmxE2m1F32 (d a b : Code) (s : State) : Out := cvtmx 4 d a b s
/-- `CVTMX_MXI8_F32` (R322). -/
def execCvtmxMxi8F32 (d a b : Code) (s : State) : Out := cvtmx 5 d a b s
/-- `DQMX_E4M3_F32` (R323). -/
def execDqmxE4m3F32 (d a b : Code) (s : State) : Out := dqmx 0 d a b s
/-- `DQMX_E5M2_F32` (R323). -/
def execDqmxE5m2F32 (d a b : Code) (s : State) : Out := dqmx 1 d a b s
/-- `DQMX_E3M2_F32` (R323). -/
def execDqmxE3m2F32 (d a b : Code) (s : State) : Out := dqmx 2 d a b s
/-- `DQMX_E2M3_F32` (R323). -/
def execDqmxE2m3F32 (d a b : Code) (s : State) : Out := dqmx 3 d a b s
/-- `DQMX_E2M1_F32` (R323). -/
def execDqmxE2m1F32 (d a b : Code) (s : State) : Out := dqmx 4 d a b s
/-- `DQMX_MXI8_F32` (R323). -/
def execDqmxMxi8F32 (d a b : Code) (s : State) : Out := dqmx 5 d a b s

/-- `mrp` of a wave (R315): the next step of its oldest incomplete command, in its core's queue or, after a restore, waiting for room there. Of an
`mmaf` whose steps have all drained, but not its arrivals, R315 names no next step: KSTEP is then the number of k-steps, and RB the first active row
block, which is the model's choice (log 75). -/
def State.mrp (s : State) (id : WaveId) : Word :=
  match ((s.coreOf (s.wv id).core).mq ++ (s.crewOf (s.crewId id)).cmds).find? (fun c => c.wave = id) with
  | some c => BitVec.ofNat 32 (2 ^ 31 + c.kstep * 2 ^ 16 + c.rb)
  | none => 0

/-- `AMXRD` (R325). -/
def execAmxrd (d a : Code) (s : State) : Out :=
  s.guarded [⟨.wSrc, a.toNat⟩] (fun s =>
    let n := (s.w.ws a).toNat
    if 4 < n then s.trap (.state 0x51)
    else s.modW (fun w => (w.setWr d.toNat (if n = 4 then s.mrp s.cur else w.amx.getD n 0)).retire))

/-- `AMXCLR` (R325). -/
def execAmxclr (a : Code) (s : State) : Out :=
  s.guarded [⟨.wSrc, a.toNat⟩] (fun s =>
    let n := (s.w.ws a).toNat
    if 3 < n then s.trap (.state 0x51) else s.modW (fun w => { w with amx := setAt 0 w.amx n 0 }.retire))

end Sys2Proof.Machine
end

