-- ==== Sys2Proof/Machine/Matrix.lean ====
section
/-! DEFINITION. The matrix engine: the checks and the issue of `mma`, `mmaf` and `scacc`, the steps, drains and rows of the commands in
a core's queue (R308-R321, R326-R329, R433). -/

namespace Sys2Proof.Machine

/-! ### Formats -/

/-- The minor of R60 names `mmaf`. -/
def mmFolds (m : Nat) : Bool := 0x10 ≤ m && m < 0x20
/-- The minor names an MX format. -/
def mmMx (m : Nat) : Bool := m < 0x20 && 4 ≤ m % 16
/-- The command is a `scacc`. -/
def mmScacc (m : Nat) : Bool := 0x20 ≤ m
/-- The A and B formats of an MX minor (R60). -/
def mmPair (m : Nat) : Nat × Nat :=
  match m % 16 with
  | 4 => (0, 0) | 5 => (1, 1) | 6 => (2, 2) | 7 => (3, 3) | 8 => (4, 4) | 9 => (5, 5)
  | 10 => (0, 1) | 11 => (1, 0) | 12 => (2, 3) | _ => (3, 2)
/-- The input format of a float minor. -/
def mmFmt (m : Nat) : Fmt := match m % 16 with | 0 => f64 | 1 => f32 | 2 => f16 | _ => bf16
/-- `e_in` (R309). -/
def mmIn (m : Nat) : Nat := if mmMx m then 8 else match m % 16 with | 0 => 8 | 1 => 4 | _ => 2
/-- The step format Fs (R317). -/
def mmStep (m : Nat) : Fmt := if m % 16 = 0 then f64 else f32
/-- The chunk size (R317). -/
def mmChunk (m : Nat) : Nat := match m % 16 with | 0 => 8 | 1 => 16 | _ => 32
/-- Bytes of a C row in the local store (R311). -/
def mmRow (m : Nat) : Nat := if mmMx m then 512 else if m % 16 = 0 then 256 else 128
/-- The leave class (R326). -/
def mmClass (m : Nat) : Nat :=
  match m % 16 with | 0 => 1 | 1 => 2 | 2 | 3 => 3 | 8 => 5 | _ => 4

/-! ### Progress -/

/-- Row r takes part (R308). -/
def MatCmd.rowAct (c : MatCmd) (r : Nat) : Bool :=
  (match r / 32 with | 0 => c.m0 | 1 => c.m1 | _ => c.m2).getLsbD (r % 32)
/-- The rows of a block that take part. -/
def MatCmd.rows (c : MatCmd) (b : Nat) : List Nat := (tab 32 (fun i => 32 * b + i)).filter c.rowAct
/-- The k-steps of the command (R314). -/
def MatCmd.ksteps (c : MatCmd) : Nat := if mmMx c.minor then 1 else c.kLen / 64
/-- Every step or row is done. -/
def MatCmd.over (c : MatCmd) : Bool := if mmScacc c.minor then 3 ≤ c.rb else c.ksteps ≤ c.kstep

/-- The first block with a row, from block b on. -/
def MatCmd.blockFrom (c : MatCmd) (b : Nat) : Option Nat := [0, 1, 2].find? (fun i => b ≤ i && !(c.rows i).isEmpty)

/-- The command at its first step or row from a place on (R314, R316). -/
def MatCmd.seek (c : MatCmd) (kstep rb : Nat) : MatCmd :=
  if mmScacc c.minor then
    match (List.range 96).find? (fun r => 32 * rb + kstep ≤ r && c.rowAct r) with
    | some r => { c with kstep := r % 32, rb := r / 32 }
    | none => { c with kstep := 0, rb := 3 }
  else match c.blockFrom rb with
    | some b => { c with kstep := kstep, rb := b }
    | none => { c with kstep := kstep + 1, rb := (c.blockFrom 0).getD 0 }

/-- The command past its present step or row. -/
def MatCmd.advance (c : MatCmd) : MatCmd :=
  { (if mmScacc c.minor then c.seek (c.kstep + 1) c.rb else c.seek c.kstep (c.rb + 1)) with held := false, relv := false }

/-- It has begun and is not over. -/
def MatCmd.running (c : MatCmd) : Bool :=
  !c.over && ((c.kstep, c.rb) ≠ ((c.seek 0 0).kstep, (c.seek 0 0).rb))

/-! ### Arithmetic -/

/-- Flags as a code's pair with no flag. -/
def flagIf (b : Bool) : FFlags := if b then fNV else 0

/-- A term that is a signalling NaN. -/
def FVal.isS : FVal → Bool
  | .nan _ _ q => !q
  | _ => false

/-- A term that is a NaN. -/
def FVal.isN : FVal → Bool
  | .nan _ _ _ => true
  | _ => false

/-- The sum of terms by the rules of R317: `nan` when an input spoiled it, `nv` when that raises NV. -/
def foldTerms (F : Fmt) (nan nv : Bool) (ts : List FVal) : Nat × FFlags :=
  if oppositeInf ts then (F.defNaN, fNV)
  else if nan then (F.defNaN, flagIf nv)
  else match ts.find? FVal.isInf with
    | some i => (F.inf i.sgn, 0)
    | none => F.roundSum .rne (ts.map FVal.term)

/-- One chunk of products, plus `acc` after the first (R317). -/
def chunkSum (F : Fmt) (ps : List (FVal × FVal)) (acc : Option Nat) : Nat × FFlags :=
  let bad := fun (p : FVal × FVal) => p.1.isN || p.2.isN || infTimesZero p.1 p.2
  let nv := ps.any (fun p => p.1.isS || p.2.isS || infTimesZero p.1 p.2)
  let ts := (ps.filter (fun p => !bad p)).map (fun p => p.1.mul p.2)
  match acc with
  | none => foldTerms F (ps.any bad) nv ts
  | some a => if F.isNaN a then foldTerms F true nv ts else foldTerms F (ps.any bad) nv (ts ++ [F.val a])

/-- One element's step value (R317). -/
def stepValue (m : Nat) (as bs : List FVal) : Nat × FFlags :=
  let n := mmChunk m
  (List.range (64 / n)).foldl (fun r j =>
    let x := chunkSum (mmStep m) (((as.drop (n * j)).take n).zip ((bs.drop (n * j)).take n)) (if j = 0 then none else some r.1)
    (x.1, r.2 ||| x.2)) (0, 0)

/-- The drain of an element into C (R318). -/
def drainAdd (F : Fmt) (old acc : Nat) : Nat × FFlags :=
  if F.isNaN old || F.isNaN acc then (F.defNaN, flagIf (F.isSNaN old)) else foldTerms F false false [F.val old, F.val acc]

/-- The partial sum of a block: P × 2^64 over the finite products, and the status bits NAN, PINF, NINF (R319). -/
def mxDot (ps : List (FVal × FVal)) : Int × Bool × Bool × Bool :=
  let bad := fun (p : FVal × FVal) => p.1.isN || p.2.isN || infTimesZero p.1 p.2
  let ts := (ps.filter (fun p => !bad p)).map (fun p => p.1.mul p.2)
  let sum := ts.foldl (fun (a : Int) t => match t with
    | .fin n m e => let v : Int := ((m * 2 ^ (e + 64).toNat : Nat) : Int); if n then a - v else a + v
    | _ => a) 0
  let pi := ts.contains (.inf false)
  let ni := ts.contains (.inf true)
  (sum, ps.any bad || (pi && ni), pi, ni)

/-- The 16 bytes of a partial sum (R319). -/
def mxPartial (r : Int × Bool × Bool × Bool) : List Byte :=
  leBytes 16 (wrap 112 r.1 + (if r.2.1 then 2 ^ 112 else 0) + (if r.2.2.1 then 2 ^ 113 else 0) + (if r.2.2.2 then 2 ^ 114 else 0))

/-- A partial sum under two scales, as the value of an arrival (R320). -/
def mxArrival (r : Int × Bool × Bool × Bool) (sa sb : Nat) : AVal :=
  if r.2.1 || sa = 255 || sb = 255 then .code 0 f32.defNaN
  else if r.2.2.1 then .code 0 (f32.inf false)
  else if r.2.2.2 then .code 0 (f32.inf true)
  else if r.1 = 0 then .code 0 0
  else .real ⟨r.1 < 0, r.1.natAbs, -64 + ((sa : Int) - 127) + ((sb : Int) - 127)⟩

/-- An accumulator with a scaled partial sum added (R321). -/
def scaccAdd (F : Fmt) (old el sa sb : Nat) : Nat × FFlags :=
  if bit el 112 || sa = 255 || sb = 255 then (F.defNaN, fNV)
  else if F.isNaN old then (F.defNaN, flagIf (F.isSNaN old))
  else
    let ps := signed 112 el
    let x : FVal := if bit el 113 then .inf false else if bit el 114 then .inf true
      else if ps = 0 then .zero false else .fin (ps < 0) ps.natAbs (-64 + ((sa : Int) - 127) + ((sb : Int) - 127))
    foldTerms F false false [F.val old, x]

/-! ### Steps -/

/-- The arrival targets of a row of `mmaf` (R311, R318). -/
def mmTargets (c : MatCmd) (r : Nat) : EngRead (List (Nat × Leaf)) :=
  let e := if c.minor = 0x10 then 8 else 4
  gatherE (fun j => looking fun s =>
    let va := (c.c + 128 * c.cst * r + e * j) % 2 ^ 64
    (s.engPlace c.wave va .write).map (fun l => (va, l))) (List.range 32)

/-- What a step computes for a row: its float step values or its partial sums with the two scales, and its targets. -/
structure StepRow where
  r : Nat
  vals : List (Nat × FFlags)
  arrs : List AVal
  sums : List Byte
  tgt : List (Nat × Leaf)

/-- The step of a float format (R317): B first, then A, then the targets (log 21). -/
def floatStep (c : MatCmd) : EngRead (List StepRow) := do
  let m := c.minor
  let e := mmIn m
  let elems := fun (n : Nat) (bs : List Byte) => tab n (fun i => (mmFmt m).val (leNat ((bs.drop (i * e)).take e)))
  let bk ← gatherE (fun k => elems 32 <$> engRead c.wave (addrAt c.bBase ((64 * c.kstep + k : Nat) * c.sB)) (32 * e)) (List.range 64)
  let as ← gatherE (fun r => elems 64 <$> engRead c.wave (addrAt c.aBase (r * c.sA + (64 * c.kstep * e : Nat))) (64 * e)) (c.rows c.rb)
  let tg ← gatherE (fun r => if mmFolds m then mmTargets c r else pure []) (c.rows c.rb)
  pure ((((c.rows c.rb).zip as).zip tg).map (fun p =>
    let vs := tab 32 (fun j => stepValue m p.1.2 (bk.map (fun row => row.getD j (.zero false))))
    ⟨p.1.1, vs, vs.map (fun v => .code (if m = 0x10 then 1 else 0) v.1), [], p.2⟩))

/-- The step of an MX format (R319, R320). -/
def mxStep (c : MatCmd) : EngRead (List StepRow) := do
  let m := c.minor
  let (fa, fb) := mmPair m
  let elems := fun (k : Nat) (bs : List Byte) => tab 32 (mxElem k bs)
  let bc ← gatherE (fun j => elems fb <$> engRead c.wave (addrAt c.bBase (j * c.sB)) (mxBytes fb)) (List.range 32)
  let sb ← if mmFolds m then engRead c.wave c.bScale 32 else pure []
  let as ← gatherE (fun r => do
    let bs ← engRead c.wave (addrAt c.aBase (r * c.sA)) (mxBytes fa)
    let sa ← if mmFolds m then engRead c.wave (addrAt c.aScale r) 1 else pure []
    pure (elems fa bs, leNat sa)) (c.rows c.rb)
  let tg ← gatherE (fun r => if mmFolds m then mmTargets c r else pure []) (c.rows c.rb)
  pure ((((c.rows c.rb).zip as).zip tg).map (fun p =>
    let ds := tab 32 (fun j => mxDot (p.1.2.1.zip (bc.getD j [])))
    ⟨p.1.1, [], (ds.zip (List.range 32)).map (fun d => mxArrival d.1 p.1.2.2 (sb.getD d.2 0).toNat), ds.flatMap mxPartial, p.2⟩))

/-- Flags of a row ORed into its thread's `fsr`, whatever the enables (R84): also those whose enables are set, of which R121 does not speak
(log 65). -/
def State.orRow (s : State) (id : WaveId) (r : Nat) (fl : FFlags) : State :=
  s.modWv id (fun w => { w with fsr := setAt 0 w.fsr r (w.fsr.at r ||| fl.setWidth 32) })

/-- Bytes of the crew's local store written by an engine, one row at one instant. -/
def State.putLocal (s : State) (c : CrewId) (o : Nat) (bs : List Byte) : State := s.writePlace 0 0 [] (.ls c o) bs

/-- The new bytes and flags of a row of C (R318), from its old bytes. -/
def drainRow (m : Nat) (first : Bool) (old : List Byte) (vals : List (Nat × FFlags)) : List Byte × FFlags :=
  let F := mmStep m
  let e := (F.mag + 1) / 8
  let ds := tab 32 (fun j =>
    let v := vals.getD j (0, 0)
    let d := if first then (v.1, 0) else drainAdd F (leNat ((old.drop (e * j)).take e)) v.1
    (leBytes e d.1, v.2 ||| d.2))
  (ds.flatMap (·.1), ds.foldl (fun f d => f ||| d.2) 0)

/-- The drains of a step, row by row (R314, R318, R319). -/
def drain (c : MatCmd) (rows : List StepRow) : EngRead Unit := do
  let crew := (← get).crewId c.wave
  let n := mmRow c.minor
  if mmFolds c.minor then
    modify (fun s => rows.foldl (fun s row =>
      let s := s.engArrive 1 c.wave c.grp .matrix ((row.tgt.zip row.arrs).map (fun p => (p.1.1, p.1.2, p.2)))
      s.orRow c.wave row.r (row.vals.foldl (fun f v => f ||| v.2) 0)) s)
  else if mmMx c.minor then
    modify (fun s => rows.foldl (fun s row => s.putLocal crew (c.c + n * row.r) row.sums) s)
  else
    let first := c.zc && c.kstep = 0
    let olds ← gatherE (fun i => if first then pure [] else engLocal crew (c.c + n * (c.rows c.rb).getD i 0) n) (List.range rows.length)
    modify (fun s => (rows.zip olds).foldl (fun s p =>
      let (bs, fl) := drainRow c.minor first p.2 p.1.vals
      (s.putLocal crew (c.c + n * p.1.r) bs).orRow c.wave p.1.r fl) s)

/-- One row of a `scacc` (R321). -/
def scaccRow (c : MatCmd) : EngRead Unit := do
  let crew := (← get).crewId c.wave
  let r := 32 * c.rb + c.kstep
  let F := if c.minor = 0x21 then f64 else f32
  let e := (F.mag + 1) / 8
  let ps ← engLocal crew (c.aBase + 512 * r) 512
  let sa ← engLocal crew (c.aScale + r) 1
  let sb ← engLocal crew c.bScale 32
  let old ← engLocal crew (c.c + 32 * e * r) (32 * e)
  let ds := tab 32 (fun j => scaccAdd F (leNat ((old.drop (e * j)).take e)) (leNat ((ps.drop (16 * j)).take 16))
    (leNat sa) (sb.getD j 0).toNat)
  modify (fun s =>
    (s.putLocal crew (c.c + 32 * e * r) (ds.flatMap (fun d => leBytes e d.1))).orRow c.wave r (ds.foldl (fun f d => f ||| d.2) 0))

/-- The present step or row of a command. -/
def matUnit (c : MatCmd) : EngRead Unit := do
  if mmScacc c.minor then scaccRow c
  else
    let rows ← if mmMx c.minor then mxStep c else floatStep c
    drain c rows

/-! ### The queue -/

/-- A command waits to regain leave (R326). -/
def State.regaining (s : State) (c : MatCmd) : Bool :=
  c.relv && !(s.wv c.wave).exited && !((s.wv c.wave).engGnt && (s.wv c.wave).engCls = mmClass c.minor)

/-- A fault still holds a command: its handler has not returned, or accesses or arrivals of its wave that go on first are held (R377). -/
def State.cmdHeld (s : State) (c : MatCmd) : Bool :=
  c.held && !(s.gridOf c.wave.g).ending && !(s.handled c.wave && !s.laneHeld c.wave)

/-- The command a core's engine works at (R316, R326, R327, R329): one it has begun, else the first in queue order. None before an earlier one of
its wave has left the queue, the arrivals of an `mmaf` applied, since it reads what that writes. A command that a fault holds keeps only its own
wave's later ones behind it; another that waits to regain leave keeps them all. -/
def State.matTurn (s : State) (core : Nat) : Option Nat :=
  let q := (s.coreOf core).mq
  let free := fun (i : Nat) (c : MatCmd) =>
    !c.over && !s.cmdHeld c && !s.regaining c && !(q.take i).any (fun e => e.wave = c.wave || (!e.over && s.regaining e && !s.cmdHeld e))
  match (List.range q.length).find? (fun i => match q[i]? with | some c => free i c && c.running && !c.held | none => false) with
  | some i => some i
  | none => (List.range q.length).find? (fun i => match q[i]? with | some c => free i c | none => false)

/-- A command of a queue leaves it when it is over and none of its arrivals is posted still; EC falls (R327). With its wave's last command the
leave that the engine regained for the wave ends (log 12). -/
def State.matDone (s : State) (core grp : Nat) : State :=
  match (s.coreOf core).mq.find? (fun c => c.grp = grp) with
  | none => s
  | some c =>
    if c.over && !s.arriving grp then
      let s := (s.modCore core (fun k => { k with mq := k.mq.filter (fun e => e.grp ≠ grp) })).modWv c.wave (·.dn 3)
      if (s.mmOf c.wave).isEmpty then s.modWv c.wave (fun w => { w with engCls := 0, engGnt := false }) else s
    else s

/-- A command of a queue replaced. -/
def State.setCmd (s : State) (core : Nat) (c : MatCmd) : State :=
  s.modCore core (fun k => { k with mq := k.mq.map (fun e => if e.grp = c.grp then c else e) })

/-- One unit of a command of a core's queue (R314, R316, R377, R433): performed, or held by its fault, or skipped with its report. In a
grid that is ending, a command that meets a fault is dropped. -/
def State.matStep (s : State) (core i : Nat) : State :=
  match (s.coreOf core).mq[i]? with
  | none => s
  | some c =>
    match matUnit c s with
    | .ok (_, s) => (s.setCmd core c.advance).matDone core c.grp
    | .error (.acc sub a) => ((s.setCmd core c.advance).matDone core c.grp).postFault c.wave ⟨0x05, 0x80 + sub, a⟩
    | .error (.xlat k a) =>
      if (s.gridOf c.wave.g).ending then
        (s.setCmd core { c with kstep := 1024, rb := 3 }).matDone core c.grp
      else (s.setCmd core { c with held := true }).postFault c.wave ⟨0x07, 2 * 32 + k, a⟩

/-- Commands of a queue that have steps or rows to do: an entry is free again once the last of them has drained, whether or not the arrivals of an
`mmaf` are applied, which is the model's choice (R327, log 75). -/
def Core.mqLen (k : Core) : Nat := (k.mq.filter (fun c => !c.over)).length

/-- The crews of a core, those that have ended among them, whose restored commands wait for room in its queue. -/
def State.waitingCrews (s : State) (core : Nat) : List CrewId :=
  (s.crews.filter (fun p => (p.2.bound || p.2.ended) && p.2.core = core && !p.2.cmds.isEmpty)).map (·.1)

/-- Commands of a core that have steps or rows to do: those in its queue, and those of restored crews that wait for room there (R327). -/
def State.queued (s : State) (core : Nat) : Nat :=
  (s.coreOf core).mqLen + (((s.waitingCrews core).flatMap (fun c => (s.crewOf c).cmds)).filter (fun c => !c.over)).length

/-- How many commands of a list, from the first on, enter a queue with room for `n` that have steps or rows to do. -/
def fitCmds (n : Nat) : List MatCmd → Nat
  | [] => 0
  | c :: cs =>
    if c.over then 1 + fitCmds n cs
    else match n with
      | 0 => 0
      | k + 1 => 1 + fitCmds k cs

/-- Commands of restored crews enter their core's queue as it has room, a crew's in their order (R327, log 12). -/
def State.refill (s : State) (core : Nat) : State :=
  (s.waitingCrews core).foldl (fun s c =>
    let cmds := (s.crewOf c).cmds
    let n := fitCmds (16 - (s.coreOf core).mqLen) cmds
    let s := (s.modCore core (fun k => { k with mq := k.mq ++ cmds.take n })).modCrew c (fun x => { x with cmds := cmds.drop n })
    (cmds.take n).foldl (fun s m => s.matDone core m.grp) s) s

/-- A command enters its core's queue, behind those that wait for room there; behind one of its own wave it waits with it (R327). -/
def State.matEnter (s : State) (c : MatCmd) : State :=
  let core := (s.wv c.wave).core
  let s := s.refill core
  let s := { s with nextUid := s.nextUid + 1 }
  let x := { c with grp := s.nextUid }.seek 0 0
  let cr := s.crewId c.wave
  if (s.crewOf cr).cmds.any (fun e => e.wave = c.wave) then s.modCrew cr (fun k => { k with cmds := k.cmds ++ [x] })
  else s.modCore core (fun k => { k with mq := k.mq ++ [x] })

/-- A command is posted: EC counts it, and it enters its core's queue; in a deterministic grid the commit phase enters it (R197, R327, R328). -/
def State.matPost (s : State) (c : MatCmd) : State :=
  if (s.wv c.wave).det then s.modWv c.wave (fun w => { w with buf := w.buf ++ [BufOp.matrix c] }.up 3)
  else (s.matEnter c).modWv c.wave (·.up 3)

/-! ### Issue -/

/-- The control word breaks R310. -/
def badMmCtl (m ctl : Nat) : Bool :=
  let k := bits ctl 31 16
  let cst := bits ctl 15 8
  (if mmMx m then k ≠ 32 else k % 64 ≠ 0 || k = 0 || 65472 < k)
    || (if mmFolds m then cst < (if m = 0x10 then 2 else 1) else cst ≠ 0)
    || bits ctl 7 1 ≠ 0 || (bit ctl 0 && (mmFolds m || mmMx m))

/-- A signed stride as the 64-bit value that a misaligned fault reports. -/
def stride64 (x : Word) : Nat := (sx64 x).toNat

/-- The command of an `mma` or `mmaf`, with its operand block as read at issue (R309, R311). -/
def Wave.mmCmd (w : Wave) (id : WaveId) (m : MmaOp) : MatCmd :=
  let ctl := (w.ws (BitVec.ofNat 7 m.b)).toNat
  let sc := fun n => if mmFolds m.minor && mmMx m.minor then (w.wr2 (m.a + n)).toNat else 0
  { wave := id, minor := m.minor, aBase := (w.wr2 m.a).toNat, bBase := (w.wr2 (m.a + 2)).toNat,
    sA := (w.wr (m.a + 4)).toInt, sB := (w.wr (m.a + 5)).toInt, aScale := sc 6, bScale := sc 8,
    kLen := bits ctl 31 16, cst := bits ctl 15 8, zc := bit ctl 0,
    c := if mmFolds m.minor then (w.ws2 (BitVec.ofNat 7 m.d)).toNat else (w.ws (BitVec.ofNat 7 m.d)).toNat,
    m0 := w.wr 61, m1 := w.wr 62, m2 := w.wr 63, kstep := 0, rb := 0, held := false, relv := false, grp := 0 }

/-- The checks of R312 in their order. -/
def State.mmTrap (s : State) (m : MmaOp) : Option Trap :=
  let w := s.w
  let c := w.mmCmd s.cur m
  let e := mmIn m.minor
  let cr := s.cr
  if badMmCtl m.minor (w.ws (BitVec.ofNat 7 m.b)).toNat then some (.state 0x50)
  else match [c.aBase, c.bBase, stride64 (w.wr (m.a + 4)), stride64 (w.wr (m.a + 5))].find? (fun x => x % e ≠ 0) with
    | some x => some (.xlat 0x03 x)
    | none =>
      if c.c % 128 ≠ 0 then some (.xlat 0x03 c.c)
      else if !mmFolds m.minor && cr.lsLen < c.c + 96 * mmRow m.minor then some (.xlat 0x04 c.c) else none

/-- The wave holds the leave the instruction needs (R326). -/
def Wave.hasLeave (w : Wave) (m : MmaOp) : Bool := w.lvGnt && w.lvCls = mmClass m.minor

/-- `mma` and `mmaf` (R308, R312, R326-R328): none while the instruction waits for leave, for the wave's earlier
accesses (R272), for EC or for the queue. -/
def State.tryMma (s : State) (m : MmaOp) : Option State :=
  let w := s.w
  let c := w.mmCmd s.cur m
  match s.mmTrap m with
  | some t => some (s.trap t)
  | none =>
    if w.actives.isEmpty then some (s.modW (·.retireYield))
    else if !w.hasLeave m then none
    else if w.det && 63 ≤ w.ec then some (s.atLimit 3)
    else if !w.det && (!w.quiet || 63 ≤ w.ec || 16 ≤ s.queued w.core) then none
    else some ((s.matPost c).modW (·.retireYield))

/-- Why an `mma` that holds its leave has not issued: earlier accesses, EC at its limit, or a full queue (R170, R272, R327); one of a
deterministic grid waits for none of these, and issues again (R328). -/
def Wave.mmaStall (w : Wave) : LongOp := .again (if w.det || !w.quiet then 5 else if 63 ≤ w.ec then 3 else 6)

/-- What the wait of an `mma` does at issue: the request for leave, which replaces any earlier one, or the stall at EC's limit or at a full
queue (R326, R327). -/
def State.waitMma (s : State) (m : MmaOp) : State :=
  let w := s.w
  if w.hasLeave m then s.wait w.mmaStall
  else
    let s := s.askLeave (mmClass m.minor)
    s.wait (if s.w.hasLeave m then s.w.mmaStall else .mma m)

/-- The command of a `scacc` (R321). -/
def Wave.scCmd (w : Wave) (id : WaveId) (wide : Bool) (d a : Code) : MatCmd :=
  { wave := id, minor := if wide then 0x21 else 0x20, aBase := (w.wr a.toNat).toNat, bBase := 0, sA := 0, sB := 0,
    aScale := (w.wr (a.toNat + 1)).toNat, bScale := (w.wr (a.toNat + 2)).toNat, kLen := 0, cst := 0, zc := false,
    c := (w.ws d).toNat, m0 := w.wr 61, m1 := w.wr 62, m2 := w.wr 63, kstep := 0, rb := 0, held := false, relv := false, grp := 0 }

/-- The checks of `scacc` (R321): the tile offsets, then every range. -/
def State.scTrap (s : State) (c : MatCmd) : Option Trap :=
  match [c.aBase, c.c].find? (fun x => x % 128 ≠ 0) with
  | some x => some (.xlat 0x03 x)
  | none =>
    match [(c.aBase, 96 * 512), (c.aScale, 96), (c.bScale, 32), (c.c, 96 * (if c.minor = 0x21 then 256 else 128))].find?
        (fun p => s.cr.lsLen < p.1 + p.2) with
    | some p => some (.xlat 0x04 p.1)
    | none => none

/-- `scacc` (R321, R327, R328). -/
def scacc (wide : Bool) (d a : Code) (s : State) : Out :=
  s.guarded [⟨.wSrc, d.toNat⟩] (fun s =>
    let w := s.w
    let c := w.scCmd s.cur wide d a
    match s.scTrap c with
    | some t => s.trap t
    | none =>
      if w.actives.isEmpty then s.modW (·.retire)
      else if !w.det && !w.quiet then s.wait (.again 5)
      else if 63 ≤ w.ec then s.atLimit 3
      else if !w.det && 16 ≤ s.queued w.core then s.wait (.again 6)
      else (s.matPost c).modW (·.retire))

/-- `SCACC_F32` (R321). -/
def execScaccF32 (d a : Code) (s : State) : Out := scacc false d a s
/-- `SCACC_F64` (R321). -/
def execScaccF64 (d a : Code) (s : State) : Out := scacc true d a s

/-- `MATRIX_STEP` (R314): one step of the engine's command; those of a deterministic grid run in its commit phases (R328). -/
def execMatrixStep (core k : Nat) (s : State) : Out :=
  let s := s.refill core
  .next (match (s.coreOf core).mq[k]? with
    | some c => if !(s.gridOf c.wave.g).det && !mmScacc c.minor && s.matTurn core = some k && !(s.coreOf core).halted then s.matStep core k else s
    | none => s)

/-- `SCACC_ROW` (R316, R321): one row of the engine's `scacc`, as for `MATRIX_STEP`. -/
def execScaccRow (core k : Nat) (s : State) : Out :=
  let s := s.refill core
  .next (match (s.coreOf core).mq[k]? with
    | some c => if !(s.gridOf c.wave.g).det && mmScacc c.minor && s.matTurn core = some k && !(s.coreOf core).halted then s.matStep core k else s
    | none => s)

end Sys2Proof.Machine
end

