-- ==== Sys2Proof/Machine/FStore.lean ====
section
/-! DEFINITION. The function store: descriptors, cells, buckets, search, insertion, the instructions of major 0x15 and the events of
the record stores (R200-R225). -/

namespace Sys2Proof.Machine

/-! ### Descriptors and records -/

/-- The record format (R201). -/
def FDesc.fmt (f : FDesc) : Fmt := if f.f64 then Sys2Proof.Machine.f64 else f32
/-- Words of an element: n of R218. -/
def FDesc.n (f : FDesc) : Nat := if f.f64 then 2 else 1
/-- Bytes of an element. -/
def FDesc.es (f : FDesc) : Nat := 4 * f.n
/-- S (R203). -/
def FDesc.size (f : FDesc) : Nat := (32 + f.es * (2 * f.d + f.k + f.k * f.d) + 63) / 64 * 64
/-- A descriptor with nothing in it. -/
def FDesc.nil : FDesc := ⟨0, 0, false, 0, 0, 0, [], [], [], [], []⟩

/-- A function entry; one never defined is undefined with GEN 0 (R200). -/
def Ctx.fid (c : Ctx) (f : Nat) : FEntry := (aget c.fids f).getD ⟨false, 0, FDesc.nil, List.replicate 8 0⟩
/-- An entry of a context. -/
def State.fent (s : State) (ctx f : Nat) : FEntry := (s.ctxOf ctx).fid f
/-- The state with an entry replaced. -/
def State.setFent (s : State) (ctx f : Nat) (e : FEntry) : State :=
  let c := s.ctxOf ctx
  s.setCtx ctx { c with fids := aput c.fids f e }
/-- A counter raised (R223). -/
def State.bumpFs (s : State) (ctx f sel n : Nat) : State :=
  if n = 0 then s
  else
    let e := s.fent ctx f
    s.setFent ctx f { e with cnt := e.cnt.set sel ((e.cnt.getD sel 0 + n) % 2 ^ 64) }

/-- A field of `n` bytes. -/
def fieldAt (bs : List Byte) (o n : Nat) : Nat := leNat ((bs.drop o).take n)

/-- The descriptor in 352 bytes (R201). -/
def FDesc.parse (bs : List Byte) : FDesc :=
  let arr := fun o => tab 8 (fun i => fieldAt bs (o + 8 * i) 8)
  ⟨fieldAt bs 0 1, fieldAt bs 1 1, fieldAt bs 2 1 = 1, fieldAt bs 3 1, fieldAt bs 8 8, fieldAt bs 0x10 8,
    arr 0x20, arr 0x60, arr 0xA0, arr 0xE0, arr 0x120⟩

/-- A binary64 code is finite; above 0; at least +0 by value (R201). -/
def fin64 (c : Nat) : Bool := match f64.val c with | .fin _ _ _ | .zero _ => true | _ => false
/-- Finite and above 0. -/
def pos64 (c : Nat) : Bool := match f64.val c with | .fin n _ _ => !n | _ => false
/-- Finite and at least +0 by value. -/
def nonneg64 (c : Nat) : Bool := match f64.val c with | .fin n _ _ => !n | .zero _ => true | _ => false

/-- Offset of the first field, in offset order, that breaks R201 (R219). -/
def descFault (bs : List Byte) : Option Nat :=
  let f := FDesc.parse bs
  let scan := fun (n o : Nat) (xs : List Nat) (ok : Nat → Bool) =>
    ((List.range n).find? (fun i => !ok (xs.getD i 0))).map (fun i => o + 8 * i)
  if f.d < 1 || 8 < f.d then some 0
  else if f.k < 1 || 8 < f.k then some 1
  else if 1 < fieldAt bs 2 1 then some 2
  else if f.lognb < 3 || 24 < f.lognb then some 3
  else if fieldAt bs 4 4 ≠ 0 then some 4
  else if f.routine = 0 || f.routine % 4 ≠ 0 then some 8
  else if fieldAt bs 0x18 8 ≠ 0 then some 0x18
  else match scan f.d 0x20 f.origin fin64 with
    | some o => some o
    | none => match scan f.d 0x60 f.width pos64 with
      | some o => some o
      | none => match scan f.d 0xA0 f.radius nonneg64 with
        | some o => some o
        | none => match scan f.k 0xE0 f.atol nonneg64 with
          | some o => some o
          | none => scan f.k 0x120 f.rtol nonneg64

/-- A place of a record table, as a store reaches it, or the fault kind (R202, R206). -/
def State.tableAt (s : State) (ctx va : Nat) : Except Nat Leaf :=
  if 2 ^ 49 ≤ va || inAperture va then .error 0x01
  else match s.walk ctx va with
    | .error k => .error k
    | .ok (l, _) => (s.leafLive l).bind (fun l => l.permits .table)

/-- The same where it can be reached. -/
def State.tablePlace (s : State) (ctx va : Nat) : Option Leaf := (s.tableAt ctx va).toOption

/-- An illegal-state trap with an address (R219). -/
def Trap.stateAt (sub addr : Nat) : Trap := { cls := 0x02, sub := sub, tval := some addr }

/-- The trap of a record table (R202, R219, R392): at TABLE when it is not a multiple of 64 KiB, or at the lowest page that is not mapped
writable with the FS-table bit; a table entry that cannot be read is a data error there. -/
def State.tableFault (s : State) (ctx : Nat) (f : FDesc) : Option Trap :=
  if f.table % 2 ^ 16 ≠ 0 then some (.stateAt 0x36 f.table)
  else (List.range ((2 ^ f.lognb * 8 * f.size + 2 ^ 16 - 1) / 2 ^ 16)).findSome? (fun i =>
    let va := f.table + i * 2 ^ 16
    match s.tableAt ctx va with
    | .ok _ => none
    | .error k => some (if k = 0x06 then .xlat 0x06 va else .stateAt 0x36 va))

/-- The address of a record's slot (R202). -/
def FDesc.slot (f : FDesc) (b w : Nat) : Nat := f.table + (8 * b + w) * f.size

/-- The bytes of a record (R203). -/
def FDesc.image (f : FDesc) (fid : Nat) : Option FRec → List Byte
  | none => List.replicate f.size 0
  | some r =>
    let el := fun (xs : List Nat) => xs.flatMap (leBytes f.es)
    (([BitVec.ofNat 8 fid, if f.f64 then 3 else 1, 0, 0] ++ leBytes 4 r.hits ++ leBytes 4 r.age ++ leBytes 4 r.gen
      ++ List.replicate 16 0 ++ el r.c ++ el r.rho ++ el r.f0 ++ el r.jac) ++ List.replicate f.size 0).take f.size

/-- The record in the bytes of a slot (R202, R203). -/
def FDesc.record (f : FDesc) (fid rid : Nat) (bad : Bool) (bs : List Byte) : Option FRec :=
  let el := fun (o n : Nat) => tab n (fun i => fieldAt bs (32 + f.es * (o + i)) f.es)
  if fieldAt bs 0 1 = fid && bit (fieldAt bs 1 1) 0 then
    some ⟨rid, bad, fieldAt bs 4 4, fieldAt bs 8 4, fieldAt bs 0xC 4, el 0 f.d, el f.d f.d, el (2 * f.d) f.k, el (2 * f.d + f.k) (f.k * f.d)⟩
  else none

/-! ### Cells and buckets -/

/-- A code as an exact real; none for a NaN or an infinity. -/
def realOf (F : Fmt) (c : Nat) : Option Term := match F.val c with | .fin n m e => some ⟨n, m, e⟩ | .zero n => some ⟨n, 0, 0⟩ | _ => none

/-- A real negated. -/
def Term.opp (t : Term) : Term := { t with neg := !t.neg }

/-- `floor((x - o) / wd)` of reals, wd above 0 (R204). -/
def cellOf (x o wd : Term) : Int :=
  let (v, e) := exactSum [x, o.opp]
  let k := e - wd.e
  if 0 ≤ k then Int.fdiv (v * (2 ^ k.toNat : Nat)) wd.m else Int.fdiv v ((wd.m * 2 ^ (-k).toNat : Nat) : Int)

/-- The cells of a storable argument (R204). -/
def FDesc.cells (f : FDesc) (x : List Nat) : Option (List Int) :=
  (List.range f.d).foldr (fun i m =>
    match m, realOf f.fmt (x.getD i 0), realOf Sys2Proof.Machine.f64 (f.origin.getD i 0), realOf Sys2Proof.Machine.f64 (f.width.getD i 0) with
    | some cs, some xi, some o, some wd =>
      let c := cellOf xi o wd
      if -(2 ^ 31) ≤ c && c < 2 ^ 31 then some (c :: cs) else none
    | _, _, _, _ => none) (some [])

/-- The bucket of cells (R205). -/
def FDesc.bucket (f : FDesc) (fid : Nat) (cells : List Int) : Nat :=
  (cells.foldl (fun h c =>
    let h := ((h ^^^ wrap 32 c) * 0x01000000000001A5) % 2 ^ 64
    h ^^^ (h / 2 ^ 29)) fid) % 2 ^ f.lognb

/-- The home store of a bucket (R205). -/
def storeOf (b : Nat) : Nat := b % 12

/-- |x - c| as a real. -/
def distOf (F : Fmt) (x c : Nat) : Term :=
  match realOf F x, realOf F c with
  | some a, some b => let (v, e) := exactSum [a, b.opp]; ⟨false, v.natAbs, e⟩
  | _, _ => ⟨false, 0, 0⟩

/-- A record contains an argument with these cells (R204); no distance is within a half-width that is negative infinity or a NaN. -/
def FDesc.contains (f : FDesc) (r : FRec) (x : List Nat) (cells : List Int) : Bool :=
  f.cells r.c = some cells && (List.range f.d).all (fun i =>
    match f.fmt.val (r.rho.getD i 0) with
    | .inf n => !n
    | .nan _ _ _ => false
    | v => !(v.term.lt (distOf f.fmt (x.getD i 0) (r.c.getD i 0))))

/-- What a hit delivers (R208). -/
def FDesc.hit (f : FDesc) (r : FRec) (x : List Nat) : List Nat :=
  let env : FEnv := ⟨.rne, false, false⟩
  tab f.k (fun j => (List.range f.d).foldl (fun acc i =>
    let diff := (fpCore .sub f.fmt env (x.getD i 0) (r.c.getD i 0) 0).1
    (fpCore .fma f.fmt env (r.jac.getD (j * f.d + i) 0) diff acc).1) (r.f0.getD j 0))

/-! ### Buckets -/

/-- GEN of a FID at a store (R214). -/
def State.genAt (s : State) (ctx fid store : Nat) : Nat := (aget s.storeGen (ctx, fid, store)).getD 0

/-- The ways of a bucket: in the store, or read from the record table (R202, R206); none when the table cannot be read. A way that
was in the store before keeps its name. -/
def State.bucketWays (s : State) (ctx fid b : Nat) : Option (List (Option FRec)) :=
  let f := (s.fent ctx fid).desc
  let old := (aget s.buckets (ctx, fid, b)).getD ⟨false, []⟩
  if old.resident then some old.ways
  else
    let piece := fun (va : Nat) => (s.tablePlace ctx va).map (fun l =>
      (s.homeRead l.pa 64 l.key, s.rangeBad l.pa 64))
    let slots := tab 8 (fun w => tab (f.size / 64) (fun i => piece (f.slot b w + 64 * i)))
    if slots.any (fun ps => ps.any (·.isNone)) then none
    else some ((slots.zip (List.range 8)).map (fun p =>
      let ps := p.1.filterMap id
      let rid := match old.ways.getD p.2 none with | some r => r.rid | none => s.nextUid + p.2
      f.record fid rid (ps.any (·.2)) (ps.flatMap (·.1))))

/-- Where the 64-byte pieces of a bucket's slots stand in the record table (R202). -/
def State.pieces (s : State) (ctx fid b : Nat) : List (Option Leaf) :=
  let f := (s.fent ctx fid).desc
  tab (8 * f.size / 64) (fun i => s.tablePlace ctx (f.slot b 0 + 64 * i))

/-- The state that the walks to a bucket's slots leave, and, where it is read, the reads of the slots (R206, R403, R408). -/
def State.lookBucket (s : State) (ctx fid b : Nat) (read : Bool) : State :=
  let f := (s.fent ctx fid).desc
  (List.range (8 * f.size / 64)).foldl (fun s i =>
    let va := f.slot b 0 + 64 * i
    let s := if 2 ^ 49 ≤ va || inAperture va then s else s.walkRead (fun _ => none) ctx va
    match s.tablePlace ctx va with
    | some l => if read then s.homeLook l.pa 64 l.key else s
    | none => s) s

/-- A bucket in its store is written to its slots and leaves it; nothing happens when a page of them cannot be written (R206). The slot of a record
that holds an uncorrectable error holds it then (R379, log 63). -/
def State.spillBucket (s : State) (ctx fid b : Nat) : State :=
  match aget s.buckets (ctx, fid, b) with
  | none => s
  | some k =>
    let f := (s.fent ctx fid).desc
    let pieces := s.pieces ctx fid b
    if !k.resident || pieces.any (·.isNone) then s
    else
      let bs := k.ways.flatMap (f.image fid)
      let bad := fun (i : Nat) => match k.ways.getD (64 * i / f.size) none with | some r => r.bad | none => false
      let s := ((pieces.filterMap id).zip (List.range pieces.length)).foldl (fun s p =>
        let s := s.homeWriteAt p.1.pa p.1.key ((bs.drop (64 * p.2)).take 64)
        if bad p.2 then { s with bad := s.bad ++ tab 64 (p.1.pa + ·) } else s) (s.lookBucket ctx fid b false)
      { s with buckets := aput s.buckets (ctx, fid, b) { k with resident := false } }.bumpFs ctx fid 7 1

/-- Bytes of a record store (R206). -/
abbrev storeBytes : Nat := 2 ^ 24

/-- Bytes of a record store in use (R203, R206). -/
def State.storeUsed (s : State) (st : Nat) : Nat :=
  ((s.buckets.filter (fun p => p.2.resident && storeOf p.1.2.2 = st)).map (fun p => 8 * (s.fent p.1.1 p.1.2.1).desc.size)).sum

/-- Room in a record store for one more bucket: buckets that can be written to their slots are spilled while they fill it (R206, log 59). The
number bounds them: the largest bucket takes the place of 12 of the smallest. -/
def State.roomStore (s : State) (st need : Nat) : Nat → State
  | 0 => s
  | n + 1 =>
    if s.storeUsed st + need ≤ storeBytes then s
    else
      let mine := s.buckets.filter (fun p => p.2.resident && storeOf p.1.2.2 = st && !(s.pieces p.1.1 p.1.2.1 p.1.2.2).any (·.isNone))
      match mine[Config.victim s.nextUid % mine.length]? with
      | some p => (State.spillBucket { s with nextUid := s.nextUid + 1 } p.1.1 p.1.2.1 p.1.2.2).roomStore st need n
      | none => s

/-- A bucket stands in its store with these ways; where none can make room for it, it goes to its slots at once. -/
def State.setBucket (s : State) (ctx fid b : Nat) (ways : List (Option FRec)) : State :=
  let there := match aget s.buckets (ctx, fid, b) with | some k => k.resident | none => false
  let s := if there then s else s.roomStore (storeOf b) (8 * (s.fent ctx fid).desc.size) 12
  let s := { s with buckets := aput s.buckets (ctx, fid, b) ⟨true, ways⟩ }
  if there || s.storeUsed (storeOf b) ≤ storeBytes then s else s.spillBucket ctx fid b

/-- The buckets of a FID leave a store, and their records' names with them: a new definition's table is read as it stands (R202). -/
def State.dropBuckets (s : State) (ctx fid store : Nat) : State :=
  { s with buckets := s.buckets.filter (fun p => !(p.1.1 = ctx && p.1.2.1 = fid && storeOf p.1.2.2 = store)) }

/-- The bucket stands in its store. -/
def State.inStore (s : State) (ctx fid b : Nat) : Bool := match aget s.buckets (ctx, fid, b) with | some k => k.resident | none => false

/-- A bucket read: where it stands in the record table it is brought into its store; a search of a deterministic grid leaves it there, its records
named (R206, R217). -/
def State.readBucket (s : State) (load : Bool) (ctx fid b : Nat) : Option (List (Option FRec)) × State :=
  let t := if s.inStore ctx fid b then s else s.lookBucket ctx fid b true
  match t.bucketWays ctx fid b with
  | none => (none, t)
  | some ws =>
    let u := { t with nextUid := t.nextUid + 8 }
    (some ws, if load || s.inStore ctx fid b then u.setBucket ctx fid b ws else { u with buckets := aput u.buckets (ctx, fid, b) ⟨false, ws⟩ })

/-- A bucket brought into its store. -/
def State.loadBucket (s : State) (ctx fid b : Nat) : Option (List (Option FRec)) × State := s.readBucket true ctx fid b

/-- A way holds a valid record of the FID (R200). -/
def validWay (gen : Nat) : Option FRec → Bool
  | some r => r.gen = gen
  | none => false

/-- The way a new record takes (R211), and whether it evicts. -/
def placeWay (gen : Nat) (ways : List (Option FRec)) : Nat × Bool :=
  match (List.range 8).find? (fun w => !validWay gen (ways.getD w none)) with
  | some w => (w, false)
  | none =>
    let hits := fun w => match ways.getD w none with | some r => r.hits | none => 0
    ((List.range 8).foldl (fun m w => if hits w < hits m then w else m) 0, true)

/-- A record placed in a bucket, with its counters (R211, R224). -/
def State.placeRec (s : State) (ctx fid b : Nat) (ways : List (Option FRec)) (r : FRec) : State :=
  let gen := s.genAt ctx fid (storeOf b)
  let (w, ev) := placeWay gen ways
  let age := (aget s.fsCount (storeOf b)).getD 0
  let s := { s with fsCount := aput s.fsCount (storeOf b) ((age + 1) % 2 ^ 32), nextUid := s.nextUid + 1 }
  let s := s.setBucket ctx fid b (ways.set w (some { r with rid := s.nextUid, age := age, gen := gen }))
  (s.bumpFs ctx fid 4 (if ev then 1 else 0)).bumpFs ctx fid 2 1

/-- A record grown to contain an argument (R211). -/
def FDesc.grow (f : FDesc) (r : FRec) (x : List Nat) : FRec :=
  { r with rho := tab f.d (fun i =>
      let old := r.rho.getD i 0
      let d := distOf f.fmt (x.getD i 0) (r.c.getD i 0)
      let new := if d.m = 0 then 0 else (f.fmt.round .rup d).1
      match f.fmt.val old, f.fmt.val new with
      | .inf _, _ => old
      | _, .inf _ => new
      | a, b => if a.term.lt b.term then new else old) }

/-- `|h - v| <= ATOL + RTOL * |v|` on exact reals (R211). -/
def FDesc.close (f : FDesc) (j h v : Nat) : Bool :=
  match realOf f.fmt h, realOf f.fmt v, realOf Sys2Proof.Machine.f64 (f.atol.getD j 0), realOf Sys2Proof.Machine.f64 (f.rtol.getD j 0) with
  | some a, some b, some t, some r =>
    let (dv, de) := exactSum [a, b.opp]
    !(0 < (exactSum [⟨false, dv.natAbs, de⟩, ⟨true, t.m, t.e⟩, ⟨true, r.m * b.m, r.e + b.e⟩]).1)
  | _, _, _, _ => false

/-- RADIUS as the half-widths of a new record (R211). -/
def FDesc.radii (f : FDesc) : List Nat :=
  tab f.d (fun i => match Sys2Proof.Machine.f64.val (f.radius.getD i 0) with
    | .fin n m e => (f.fmt.round .rup ⟨n, m, e⟩).1
    | _ => 0)

/-- An insert reaches its home store (R211, R214). R206 speaks of searches alone: here, as for a preload and an increment, the bits of a record that
holds an uncorrectable error count as good, which is the model's choice (log 70). -/
def State.fsInsert (s : State) (ctx fid gen b : Nat) (x v jac : List Nat) : State :=
  let f := (s.fent ctx fid).desc
  if gen ≠ s.genAt ctx fid (storeOf b) then s.bumpFs ctx fid 6 1
  else match s.loadBucket ctx fid b, f.cells x with
    | (some ways, s), some cells =>
      let is := (List.range 8).filter (fun w => validWay gen (ways.getD w none))
      let rec_ := fun w => (ways.getD w none).getD ⟨0, false, 0, 0, 0, [], [], [], []⟩
      if is.any (fun w => f.contains (rec_ w) x cells) then s.bumpFs ctx fid 5 1
      else match is.find? (fun w => f.cells (rec_ w).c = some cells
          && (List.range f.k).all (fun j => f.close j ((f.hit (rec_ w) x).getD j 0) (v.getD j 0))) with
        | some w => (s.setBucket ctx fid b (ways.set w (some (f.grow (rec_ w) x)))).bumpFs ctx fid 3 1
        | none => s.placeRec ctx fid b ways ⟨0, false, 0, 0, 0, x, f.radii, v, jac⟩
    | (_, s), _ => s.bumpFs ctx fid 6 1

/-- A preloaded record reaches its home store, where it takes the GEN of the moment (R224, log 68). -/
def State.fsPreload (s : State) (ctx fid b hits : Nat) (c rho f0 jac : List Nat) : State :=
  match s.loadBucket ctx fid b with
  | (some ways, s) => s.placeRec ctx fid b ways ⟨0, false, hits, 0, 0, c, rho, f0, jac⟩
  | (none, s) => s.bumpFs ctx fid 6 1

/-- A hit-count increment reaches its home store (R203, R212). -/
def State.fsIncrement (s : State) (ctx fid b way rid : Nat) : State :=
  match s.loadBucket ctx fid b with
  | (some ways, s) => match ways.getD way none with
    | some r =>
      if r.rid = rid && r.gen = s.genAt ctx fid (storeOf b) then
        s.setBucket ctx fid b (ways.set way (some { r with hits := min (r.hits + 1) (2 ^ 32 - 1) }))
      else s
    | none => s
  | (none, s) => s

/-- A record that holds an uncorrectable error is invalidated (R206). -/
def State.fsScrub (s : State) (ctx fid b way rid : Nat) : State :=
  match s.loadBucket ctx fid b with
  | (some ways, s) => match ways.getD way none with
    | some r => if r.rid = rid then s.setBucket ctx fid b (ways.set way none) else s
    | none => s
  | (none, s) => s

/-- GEN wrapped at a store: every record slot of the FID there is zeroed, in the store and in the table, that of the new definition (R200,
log 68). -/
def State.wipeStore (s : State) (ctx fid store : Nat) (f : FDesc) : State :=
  let s := s.dropBuckets ctx fid store
  (List.range (2 ^ f.lognb)).foldl (fun s b =>
    if storeOf b ≠ store then s
    else (List.range (8 * f.size / 64)).foldl (fun s i =>
      match s.tablePlace ctx (f.slot b 0 + 64 * i) with
      | some l => s.homeWriteAt l.pa l.key (List.replicate 64 0)
      | none => s) s) s

/-- A definition or invalidation applied at one store (R200, R219, R222). -/
def State.fsBump (s : State) (ctx fid store : Nat) (f : FDesc) : State :=
  let g := (s.genAt ctx fid store + 1) % 2 ^ 32
  let s := { s with storeGen := aput s.storeGen (ctx, fid, store) g }
  if g = 0 then s.wipeStore ctx fid store f else s

/-- What every store has applied takes effect at the cores: a new definition with its counters zero, or a new GEN (R200, R219, R222). -/
def State.fsComplete (s : State) (ctx fid : Nat) : FsKind → State
  | .define d =>
    let e := s.fent ctx fid
    ((List.range 12).foldl (fun s st => s.dropBuckets ctx fid st) s).setFent ctx fid ⟨true, (e.gen + 1) % 2 ^ 32, d, List.replicate 8 0⟩
  | .invalidate => let e := s.fent ctx fid; s.setFent ctx fid { e with gen := (e.gen + 1) % 2 ^ 32 }
  | _ => s

/-- The effect of an operation at one store. -/
def State.fsApply (s : State) (o : FsOp) (store : Nat) : State :=
  match o.kind with
  | .define d => (s.fsBump o.ctx o.fid store d).dropBuckets o.ctx o.fid store
  | .invalidate => s.fsBump o.ctx o.fid store (s.fent o.ctx o.fid).desc
  | .insert gen b x v jac => s.fsInsert o.ctx o.fid gen b x v jac
  | .increment b way rid => s.fsIncrement o.ctx o.fid b way rid
  | .preload b hits c rho f0 jac => s.fsPreload o.ctx o.fid b hits c rho f0 jac
  | .count sel n => s.bumpFs o.ctx o.fid sel n
  | .scrub b way rid => s.fsScrub o.ctx o.fid b way rid

/-- An operation performed whole, at every store (R217). -/
def State.fsWhole (s : State) (o : FsOp) : State :=
  if o.stores.isEmpty then s.fsApply o 0
  else (o.stores.foldl (fun s st => s.fsApply o st) s).fsComplete o.ctx o.fid o.kind

/-- No earlier operation of the wave is still to reach a store (R212). -/
def State.fsFirst (s : State) (id : WaveId) (k store : Nat) : Bool :=
  !((s.fsOps.take k).any (fun o => o.wave = id && o.stores.contains store))

/-- The operation is a record of `fpre`, and an earlier record of the same one is still to be placed (R224). -/
def State.fpreAfter (s : State) (o : FsOp) (k : Nat) : Bool :=
  match o.kind with
  | .preload _ _ _ _ _ _ => (s.fsOps.take k).any (fun q => q.wave = o.wave && q.grp = o.grp)
  | _ => false

/-- FL counts the instruction of the operation (R213). -/
def FsKind.counted : FsKind → Bool
  | .increment _ _ _ | .count _ _ | .scrub _ _ _ => false
  | _ => true

/-- Operation `k` of `want` reaches a store: applied in its wave's order there; FL falls with the last of its instruction
(R212, R213). -/
def State.fsReach (s : State) (want : FsKind → Bool) (k store : Nat) : State :=
  match s.fsOps[k]? with
  | none => s
  | some o =>
    if !want o.kind || !o.stores.contains store || !s.fsFirst o.wave k store || s.fpreAfter o k then s
    else
      let s := s.fsApply o store
      let left := o.stores.filter (· ≠ store)
      if !left.isEmpty then { s with fsOps := s.fsOps.set k { o with stores := left } }
      else
        let s := { s with fsOps := s.fsOps.eraseIdx k }.fsComplete o.ctx o.fid o.kind
        if o.kind.counted && !s.fsOps.any (fun q => q.grp = o.grp && q.wave = o.wave) then s.modWv o.wave (·.dn 4) else s

/-! ### Posting -/

/-- Every store. -/
def allStores : List Nat := List.range 12

/-- An operation of the executing wave. -/
def State.fsOp (s : State) (fid : Nat) (stores : List Nat) (k : FsKind) : FsOp := ⟨s.cur, s.ctxN s.cur.g, fid, 0, stores, k⟩

/-- The function-store instructions a wave's buffer holds (R217). -/
def Wave.fsHeld (w : Wave) : Nat := w.buf.countP (fun b => match b with | .fs _ => true | _ => false)

/-- The effects of one function-store instruction: held in a deterministic grid, where a ninth stops the wave first (R217); else
posted, and its counters changed at once (R220, R221). FL counts it when `fl`, until it is complete (R213). An instruction whose whole effect
is on counters is held and takes one of the eight places all the same (log 57). -/
def State.fsPost (s : State) (fl : Bool) (ops : List FsOp) (go : State → State) : State :=
  let w := s.w
  if w.det then
    if 8 ≤ w.fsHeld then s.setW { w with stopped := some .full, search := none }
    else
      let w := { w with buf := w.buf ++ [.fs ops] }
      go (s.setW (if fl && ops.any (fun o => o.kind.counted) then w.up 4 else w))
  else
    let grp := s.nextUid
    let now := ops.filter (fun o => o.stores.isEmpty)
    let later := (ops.filter (fun o => !o.stores.isEmpty)).map (fun o => { o with grp := grp })
    let s := now.foldl (fun s o => s.fsApply o 0) { s with nextUid := grp + 1 }
    let s := { s with fsOps := s.fsOps ++ later }
    go (if fl && !later.isEmpty then s.modW (·.up 4) else s)

/-- The defined entry of an FID operand (R218). -/
def State.fidOf (s : State) (x : Nat) : Option FEntry :=
  let e := s.fent (s.ctxN s.cur.g) x
  if 255 < x || !e.defined then none else some e

/-- `FDEF` (R219). A field of the descriptor that breaks R201 comes before its table; TABLE's alignment is checked with the table (log 68). -/
def execFdef (a b : Code) (s : State) : Out :=
  s.guarded [⟨.wSrc, b.toNat⟩] (fun s =>
    let w := s.w
    let fid := (w.ws b).toNat
    let va := (w.ws2 a).toNat
    if 255 < fid then s.trap (.state 0x33)
    else if !w.quiet then s.wait (.again 5)
    else match s.uniRead va 352 64 with
      | .error t => s.trap t
      | .ok (bs, s) =>
        let f := FDesc.parse bs
        match descFault bs with
        | some o => s.trap (.stateAt 0x36 ((va + o) % 2 ^ 64))
        | none => match s.tableFault (s.ctxN s.cur.g) f with
          | some t => s.trap t
          | none =>
            if 63 ≤ w.fl then s.atLimit 4
            else s.fsPost true [s.fsOp fid allStores (.define f)] (fun s => s.modW (·.retire)))

/-- `FINV` (R222). -/
def execFinv (b : Code) (s : State) : Out :=
  s.guarded [⟨.wSrc, b.toNat⟩] (fun s =>
    let fid := (s.w.ws b).toNat
    match s.fidOf fid with
    | none => s.trap (.state 0x33)
    | some _ =>
      if 63 ≤ s.w.fl then s.atLimit 4
      else s.fsPost true [s.fsOp fid allStores .invalidate] (fun s => s.modW (·.retire)))

/-- The counters of a context's functions. -/
def State.fsSnapshot (s : State) (ctx : Nat) : List (Nat × List Nat) := (s.ctxOf ctx).fids.map (fun p => (p.1, p.2.cnt))

/-- `FSTAT` (R217, R223): the value at issue; in a deterministic grid, as the last commit phase left it. -/
def execFstat (d a b : Code) (s : State) : Out :=
  s.guarded [⟨.wSrc, a.toNat⟩, ⟨.wSrc, b.toNat⟩] (fun s =>
    let sel := (s.w.ws b).toNat
    if 7 < sel then s.trap (.state 0x37)
    else match s.fidOf (s.w.ws a).toNat with
      | none => s.trap (.state 0x33)
      | some e =>
        let cnt := if s.w.det then (aget s.g.fsSeen (s.w.ws a).toNat).getD e.cnt else e.cnt
        s.modW (fun w => (w.setWr2 d.toNat (BitVec.ofNat 64 (cnt.getD sel 0))).retire))

/-- A half-width is at least +0 by value and not a NaN (R203). -/
def okRho (F : Fmt) (c : Nat) : Bool := match F.val c with | .nan _ _ _ => false | .inf n => !n | .zero _ => true | .fin n _ _ => !n

/-- The posting of one record of `fpre`, or its rejection (R224). -/
def State.fpreOne (s : State) (fid : Nat) (f : FDesc) (bs : List Byte) : FsOp :=
  let ctx := s.ctxN s.cur.g
  let rej : FsOp := ⟨s.cur, ctx, fid, 0, [], .count 6 1⟩
  match f.record fid 0 false bs with
  | none => rej
  | some r =>
    if bit (fieldAt bs 1 1) 1 ≠ f.f64 || !((r.c ++ r.f0 ++ r.jac).all (fun c => (realOf f.fmt c).isSome)) || !(r.rho.all (okRho f.fmt)) then rej
    else match f.cells r.c with
      | none => rej
      | some cs => let b := f.bucket fid cs; ⟨s.cur, ctx, fid, 0, [storeOf b], .preload b r.hits r.c r.rho r.f0 r.jac⟩

/-- `FPRE` (R224). -/
def execFpre (a b : Code) (s : State) : Out :=
  s.guarded [⟨.wSrc, b.toNat⟩] (fun s =>
    let w := s.w
    let cw := (w.ws b).toNat
    let fid := bits cw 7 0
    let va := (w.ws2 a).toNat
    if bits cw 15 8 ≠ 0 then s.trap (.state 0x38)
    else match s.fidOf fid with
      | none => s.trap (.state 0x33)
      | some e =>
        let n := e.desc.size
        if !w.quiet then s.wait (.again 5)
        else match s.uniRead va (bits cw 31 16 * n) 64 with
          | .error t => s.trap t
          | .ok (bs, s) =>
            if 63 ≤ w.fl then s.atLimit 4
            else s.fsPost true (tab (bits cw 31 16) (fun i => s.fpreOne fid e.desc ((bs.drop (i * n)).take n)))
              (fun s => s.modW (·.retire)))

/-! ### `fcall` and `fret` -/

/-- `m` elements of `n` words of thread t from an allocation row on. -/
def Wave.elemsAt (w : Wave) (row n m t : Nat) : List Nat :=
  tab m (fun i => (List.range n).foldl (fun x j => x + ((w.v.getD (row + n * i + j) []).at t).toNat * 2 ^ (32 * j)) 0)

/-- Elements written for thread t from an allocation row on. -/
def Wave.putElems (w : Wave) (row n t : Nat) (vs : List Nat) : Wave :=
  (List.range (n * vs.length)).foldl (fun w i =>
    w.deliver (.row (row + i)) 4 t (vs.getD (i / n) 0 / 2 ^ (32 * (i % n)) % 2 ^ 32)) w

/-- The run of `m` elements at a window row breaks R220: an odd base of a wide format, or a row outside the allocation. -/
def Wave.badRun (w : Wave) (n row m : Nat) : Bool := (n = 2 && row % 2 ≠ 0) || w.alloc < w.wbase + row + n * m

/-- A row of the run holds an uncorrectable error (R379). -/
def Wave.badBits (w : Wave) (row len : Nat) : Bool := w.badRows.any (fun r => row ≤ r && r < row + len)

/-- The address of a piece of a bucket's slots whose walk meets an entry with an uncorrectable error (R392). -/
def State.walkBad (s : State) (ctx fid b : Nat) (f : FDesc) : Option Nat :=
  if s.inStore ctx fid b then none
  else ((List.range (8 * f.size / 64)).map (fun i => f.slot b 0 + 64 * i)).find? (fun va => match s.tableAt ctx va with | .error 0x06 => true | _ => false)

/-- The search of one argument in its bucket under the definition of its issue, none of whose records is valid under a later one (R207, R214):
a miss, a hit with its way, name and values, or the address, way and name of a record that holds
an uncorrectable error (R206). -/
def State.searchBucket (s : State) (load : Bool) (ctx fid b : Nat) (f : FDesc) (x : List Nat) :
    Except (Nat × Nat × Nat) (Option (Nat × Nat × List Nat)) × State :=
  if f ≠ (s.fent ctx fid).desc then (.ok none, s)
  else match s.walkBad ctx fid b f with
  | some va => (.error (va, 8, 0), s)
  | none =>
    let gen := s.genAt ctx fid (storeOf b)
    match s.readBucket load ctx fid b, f.cells x with
    | (some ways, s), some cells =>
      match (List.range 8).find? (fun w => match ways.getD w none with
          | some r => r.gen = gen && (r.bad || f.contains r x cells)
          | none => false) with
      | none => (.ok none, s)
      | some w => match ways.getD w none with
        | none => (.ok none, s)
        | some r =>
          if r.bad then (.error (f.slot b w, w, r.rid), s)
          else (.ok (some (w, r.rid, f.hit r x)), s)
    | (_, s), _ => (.ok none, s)

/-- Search `t` of a waiting `fcall` is answered (R212); a record that holds an uncorrectable error is invalidated, by a deterministic grid in its commit
phase (R206, R217). The trap then reports the virtual address of the record's slot, of the first search so answered where several are: R206 names no
address, and the two are the model's choice (log 70). -/
def State.searchOne (s : State) (id : WaveId) (t : Nat) : State :=
  let w := s.wv id
  match w.search with
  | none => s
  | some q =>
    match q.list.find? (fun e => e.t = t && e.res.isNone) with
    | none => s
    | some e =>
      if !s.fsFirst id s.fsOps.length (storeOf e.bucket) then s
      else
        let ctx := s.ctxN id.g
        let (r, s) := s.searchBucket (!w.det) ctx q.fid e.bucket q.desc e.x
        let list := fun ans => q.list.map (fun (e : Search1) => if e.t = t then { e with res := some ans } else e)
        match r with
        | .ok ans => s.modWv id (fun w => { w with search := some { q with list := list ans } })
        | .error (p, way, rid) =>
          let s := if w.det then s else s.fsScrub ctx q.fid e.bucket way rid
          s.modWv id (fun w => { w with search := some { q with
            list := list none, err := some (q.err.getD p), scrub := if w.det then q.scrub ++ [(e.bucket, way, rid)] else q.scrub } })

/-- The searches an `fcall` begins (R204, R220): an argument that is not storable is a miss. -/
def State.searches (s : State) (fid row : Nat) (e : FEntry) : Searching :=
  let w := s.w
  let f := e.desc
  ⟨fid, e.gen, f, w.actives.map (fun t =>
    let x := w.elemsAt row f.n f.d t
    match f.cells x with
    | some cs => ⟨t, x, f.bucket fid cs, true, none⟩
    | none => ⟨t, x, 0, false, some none⟩), none, []⟩

/-- The traps of `fcall` at issue, or its entry (R220). -/
def State.fcallEntry (s : State) (d a b : Nat) : Except Trap FEntry :=
  let w := s.w
  if w.sup then .error (.state 0x35)
  else if w.frame.isSome then .error (.state 0x30)
  else match s.fidOf (w.ws (BitVec.ofNat 7 b)).toNat with
    | none => .error (.state 0x33)
    | some e =>
      let f := e.desc
      if f.f64 && (a % 2 = 1 || d % 2 = 1) then .error (.state 0x34)
      else if w.badRun f.n a f.d || w.badRun f.n d f.k then .error (.state 0x34)
      else if w.badBits (w.wbase + a) (f.n * f.d) then .error (.xlat 0x06 0)
      else .ok e

/-- The retirement of an `fcall` whose searches have returned, under the definition it issued with (R209, R220). -/
def State.fcallEnd (s : State) (q : Searching) (d a : Nat) : State :=
  let w := s.w
  let f := q.desc
  let hits := q.list.filterMap (fun x => match x.res with | some (some r) => some (x, r) | _ => none)
  let miss := q.list.filter (fun x => match x.res with | some (some _) => false | _ => true)
  let incs := hits.map (fun h => s.fsOp q.fid [storeOf h.1.bucket] (.increment h.1.bucket h.2.1 h.2.2.1))
  let cnts := [s.fsOp q.fid [] (.count 0 hits.length), s.fsOp q.fid [] (.count 1 miss.length)]
  let write := fun (w : Wave) =>
    { hits.foldl (fun w h => w.putElems (w.wbase + d) f.n h.1.t h.2.2.2) w with search := none }
  let done := fun (w : Wave) (pc : BitVec 49) => if w.det then w.clearQ.retireTo pc else w.retireTo pc
  if miss.isEmpty then s.fsPost false (incs ++ cnts) (fun s => s.modW (fun w => done (write w) (w.pc + 4)))
  else if w.det && 8 ≤ w.fsHeld then s.fsPost false [] id
  else match s.push ⟨2, (w.pc + 4).toNat, w.wr 61, w.wr 62, w.wr 63⟩ with
    | none => s.trap (.state 0x10)
    | some s => s.fsPost false (incs ++ cnts) (fun s => s.modW (fun w =>
        let ts := miss.map (·.t)
        let m := fun b => maskWord b (fun t => ts.contains t)
        let fr : FFrame := ⟨q.fid, q.gen, f.d, f.k, f.f64, ts, (miss.filter (fun x => !x.storable)).map (·.t),
          w.wbase + d, w.wbase + a, w.wbase⟩
        done { (write w).setMask (m 0) (m 1) (m 2) with frame := some fr } (BitVec.ofNat 49 f.routine)))

/-- The operation defines, invalidates or preloads a FID (R213). -/
def FsOp.remakes (o : FsOp) (fid : Nat) : Bool :=
  o.fid = fid && (match o.kind with | .define _ | .invalidate | .preload _ _ _ _ _ _ => true | _ => false)

/-- The wave's buffer holds such an operation (R213, R217). -/
def Wave.holdsRemake (w : Wave) (fid : Nat) : Bool := w.buf.any (fun b => match b with | .fs ops => ops.any (·.remakes fid) | _ => false)

/-- `fcall` (R213, R215, R220): none while it waits for the wave's own definitions or for its searches; the first state has its searches
begun. In a deterministic grid it searches at once, and stops its wave for the round behind a definition that the wave holds, which only the commit
phase completes (R213, R217, log 57). -/
def State.tryFcall (s : State) (d a b : Nat) : Option State :=
  let w := s.w
  let fid := (w.ws (BitVec.ofNat 7 b)).toNat
  let own := s.fsOps.any (fun o => o.wave = s.cur && o.remakes fid)
  let fin := fun (s : State) => match s.w.search with
    | none => s
    | some q => match q.err with
      | some p =>
        if q.scrub.isEmpty then s.trap (.xlat 0x06 p)
        else s.fsPost false (q.scrub.map (fun r => s.fsOp q.fid [storeOf r.1] (.scrub r.1 r.2.1 r.2.2))) (fun s => s.trap (.xlat 0x06 p))
      | none => s.fcallEnd q d a
  match w.search with
  | some q => if q.list.all (fun x => x.res.isSome) then some (fin s) else none
  | none =>
    if !w.sup && w.frame.isNone && w.holdsRemake fid then some (s.setW { w with stopped := some .full })
    else if !w.sup && w.frame.isNone && own then none
    else match s.fcallEntry d a b with
      | .error t => some (s.trap t)
      | .ok e =>
        if w.actives.isEmpty then some (s.modW (·.retireYield))
        else
          let q := s.searches fid (w.wbase + a) e
          let s := s.modW (fun w => { w with search := some q })
          if w.det then some (fin (w.actives.foldl (fun s t => s.searchOne s.cur t) s))
          else if q.list.all (fun x => x.res.isSome) then some (fin s) else some (s.wait (.fcall d a b))

/-- The readiness of a held `fcall`: it has no searches under way, or all have returned. -/
def State.fcallReady (s : State) (d a b : Nat) : Bool := (s.tryFcall d a b).isSome

/-- `FRET` (R210, R221). -/
def execFret (a b : Code) (s : State) : Out :=
  s.guarded [⟨.vRow, a.toNat⟩, ⟨.vRow, b.toNat⟩] (fun s =>
    let w := s.w
    if w.sup then s.trap (.state 0x35)
    else match w.frame with
      | none => s.trap (.state 0x31)
      | some fr =>
        let n := if fr.f64 then 2 else 1
        let F := if fr.f64 then f64 else f32
        let f := (s.fent (s.ctxN s.cur.g) fr.fid).desc
        match s.pop with
        | .error t => s.trap (if t = .state 0x11 then .state 0x32 else t)
        | .ok (tok, s') =>
          if tok.kind ≠ 2 then s.trap (.state 0x32)
          else if w.badRun n a.toNat fr.k || w.badRun n b.toNat (fr.k * fr.d) then s.trap (.state 0x34)
          else if w.badBits (w.wbase + a.toNat) (n * fr.k) || w.badBits (w.wbase + b.toNat) (n * fr.k * fr.d)
              || w.badBits fr.aRow (n * fr.d) then
            s.trap (.xlat 0x06 0)
          else if 63 ≤ w.fl then s.atLimit 4
          else
            let val := fun t => w.elemsAt (w.wbase + a.toNat) n fr.k t
            let jac := fun t => w.elemsAt (w.wbase + b.toNat) n (fr.k * fr.d) t
            let ts := fr.miss.filter w.act
            let out := fun (w : Wave) => ts.foldl (fun w t => w.putElems fr.dRow n t (val t)) w
            let ops := ts.filterMap (fun t =>
              let x := (out w).elemsAt fr.aRow n fr.d t
              if fr.unst.contains t || !((val t ++ jac t).all (fun c => (realOf F c).isSome)) then none
              else (f.cells x).map (fun cs =>
                let bk := f.bucket fr.fid cs
                s.fsOp fr.fid [storeOf bk] (.insert fr.gen bk x (val t) (jac t))))
            let rej := s.fsOp fr.fid [] (.count 6 (fr.miss.length - ops.length))
            if w.det && 8 ≤ w.fsHeld then s.fsPost true [] id
            else s'.fsPost true (ops ++ [rej]) (fun s => s.modW (fun w =>
              { (out w).setMask tok.m0 tok.m1 tok.m2 with wbase := fr.wbase, frame := none }.retireTo (BitVec.ofNat 49 tok.addr))))

/-! ### Events -/

/-- `FS_SEARCH` (R207, R212). -/
def execFsSearch (g wv t : Nat) (s : State) : Out := .next (s.searchOne ⟨g, wv⟩ t)

/-- The operation's own home store. -/
def State.fsHome (s : State) (k : Nat) : Nat := match s.fsOps[k]? with | some o => o.stores.headD 0 | none => 0

/-- `FS_HIT_INCREMENT` (R212). -/
def execFsHitIncrement (k : Nat) (s : State) : Out :=
  .next (s.fsReach (fun o => match o with | .increment _ _ _ => true | _ => false) k (s.fsHome k))
/-- `FS_INSERT` (R211). -/
def execFsInsert (k : Nat) (s : State) : Out :=
  .next (s.fsReach (fun o => match o with | .insert _ _ _ _ _ => true | _ => false) k (s.fsHome k))
/-- `FS_PRELOAD_PLACEMENT` (R224). -/
def execFsPreloadPlacement (k : Nat) (s : State) : Out :=
  .next (s.fsReach (fun o => match o with | .preload _ _ _ _ _ _ => true | _ => false) k (s.fsHome k))
/-- `FS_DEFINITION_APPLY` (R219). -/
def execFsDefinitionApply (k store : Nat) (s : State) : Out :=
  .next (s.fsReach (fun o => match o with | .define _ => true | _ => false) k store)
/-- `FS_INVALIDATION_APPLY` (R222). -/
def execFsInvalidationApply (k store : Nat) (s : State) : Out :=
  .next (s.fsReach (fun o => match o with | .invalidate => true | _ => false) k store)

/-- `FS_BUCKET_SPILL` (R206): a bucket in its store is written to its slots and leaves; nothing happens when a page of them cannot be
written. -/
def execFsBucketSpill (ctx fid bucket : Nat) (s : State) : Out :=
  .next (s.spillBucket ctx fid bucket)

end Sys2Proof.Machine
end

