-- ==== Sys2Proof/Machine/Ready.lean ====
section
/-! DEFINITION. What the issue logic looks at before an instruction executes: fetching its word (R15, R16, R19), and whether its
operands are available (R16, R189, R376). -/

namespace Sys2Proof.Machine

/-- The word at a PC, fetched at the home slice (log 10), or the fault kind (R19, R390): the fetch kind where the page is not mapped or
not executable and in the aperture, which no page maps; data-error where the word holds an uncorrectable error; not-present where the owner of a
window keeps it closed (R411, log 60). -/
def State.fetchWord (s : State) (id : WaveId) (pc : Nat) : Except Nat Word :=
  if inAperture pc then .error 0x07
  else match s.translate (s.wv id).core (s.ctxN id.g) pc .fetch with
    | .error k => .error k
    | .ok l =>
      if s.rangeBad l.pa 4 then .error 0x06
      else if (s.peerFor l.pa).isSome && s.refuses (s.wv id).core l.pa then .error 0x01
      else .ok (BitVec.ofNat 32 (leNat (s.homeRead l.pa 4 l.key)))

/-- Allocation rows that a load or atomic in flight will write. -/
def Wave.dueRows (w : Wave) : List Nat :=
  w.inflight.flatMap (fun f => match f.dst with
    | .row r => if f.size = 8 then [r, r + 1] else [r]
    | _ => [])

/-- Wave registers that a uniform load in flight will write. -/
def Wave.dueRegs (w : Wave) : List Nat :=
  w.inflight.flatMap (fun f => match f.dst with
    | .wreg n => if f.size = 8 then [n, n + 1] else [n]
    | _ => [])

/-- The fields name no register that is due; the mask registers are read by every instruction. -/
def Wave.free (w : Wave) (ops : List Opnd) : Bool :=
  !(w.dueRows.any (fun r => ops.any (fun o => o.rows.any (fun x => w.wbase + x = r))))
    && !(w.dueRegs.any (fun r => 61 ≤ r || ops.any (fun o => o.wregs.contains r)))

/-- A run of wave registers that an instruction uses beyond those its fields name. -/
def used (a n : Nat) : List Opnd := tab n (fun i => ⟨.useW, a + i⟩)

/-- The fields of a word that name registers, and the registers it uses beside them, by major opcode and minor, kind or size (R44, R57-R65):
what the issue logic looks at (R189). -/
def wordOperands (x : Word) : List Opnd :=
  let v := x.toNat
  let d := bits v 26 20
  let a := bits v 19 13
  let a2 := 2 * bits v 19 14
  let b := bits v 12 6
  let major := bits v 31 27
  let k := if major = 0x0B then bits v 26 24 else if 0x0E ≤ major && major ≤ 0x11 then 8 * bits v 13 13 + bits v 2 0 else bits v 4 0
  match major with
  | 0x01 =>
    if [0, 1, 2, 3, 4, 5, 6, 7, 8, 9, 10, 11, 12, 13, 14, 15, 16, 17, 18, 19, 23, 24, 25, 26, 27, 28].contains k then [⟨.vDst, d⟩, ⟨.vSrc, a⟩, ⟨.vSrc, b⟩]
    else if [20, 21, 22].contains k then [⟨.vDst, d⟩, ⟨.vSrc, a⟩]
    else []
  | 0x02 => [⟨.vDst, d⟩, ⟨.vSrc, a⟩]
  | 0x09 => [⟨.wDst, d⟩, ⟨.wSrc, a⟩]
  | 0x03 =>
    if [0, 1, 7, 8, 9].contains k then [⟨.vDstP, d⟩, ⟨.vSrcP, a⟩, ⟨.vSrcP, b⟩]
    else if 2 ≤ k && k ≤ 6 then [⟨.vDstP, d⟩, ⟨.vSrcP, a⟩, ⟨.vSrc, b⟩]
    else if [10, 11, 12].contains k then [⟨.vDst, d⟩, ⟨.vSrcP, a⟩, ⟨.vSrcP, b⟩]
    else if [13, 14].contains k then [⟨.vDstP, d⟩, ⟨.vSrc, a⟩, ⟨.vSrc, b⟩]
    else []
  | 0x08 =>
    if [0, 1, 2, 3, 4, 5, 6, 7, 8, 9, 10, 11, 12, 13, 14, 15, 16, 17, 18, 19, 23, 24, 25, 26, 27, 28].contains k then [⟨.wDst, d⟩, ⟨.wSrc, a⟩, ⟨.wSrc, b⟩]
    else if [20, 21, 22].contains k then [⟨.wDst, d⟩, ⟨.wSrc, a⟩]
    else if [29, 30].contains k then [⟨.wDstP, d⟩, ⟨.wSrcP, a⟩, ⟨.wSrcP, b⟩]
    else if k = 31 then [⟨.wDst, d⟩, ⟨.wSrcP, a⟩, ⟨.wSrcP, b⟩]
    else []
  | 0x04 => [⟨.vDst, d⟩, ⟨.vSrc, a⟩, ⟨.vSrc, b⟩]
  | 0x05 =>
    if k ≤ 21 then [⟨.vDstP, d⟩, ⟨.vSrcP, a⟩, ⟨.vSrcP, b⟩]
    else if 22 ≤ k && k ≤ 25 then [⟨.vDst, d⟩, ⟨.vSrcP, a⟩, ⟨.vSrcP, b⟩]
    else if [26, 27].contains k then [⟨.vDstP, d⟩, ⟨.vSrcP, a⟩]
    else if k = 28 then [⟨.vDst, d⟩, ⟨.vSrcP, a⟩]
    else []
  | 0x06 =>
    if k = 0 then [⟨.vDst, d⟩, ⟨.vSrc, a⟩, ⟨.vSrc, b⟩]
    else if 1 ≤ k && k ≤ 14 then [⟨.vDst, d⟩, ⟨.vSrc, a⟩]
    else if k = 16 then [⟨.vDstP, d⟩, ⟨.vSrcP, a⟩, ⟨.vSrcP, b⟩]
    else if 17 ≤ k && k ≤ 21 then [⟨.vDstP, d⟩, ⟨.vSrcP, a⟩]
    else []
  | 0x07 =>
    if [0, 6, 7, 12, 13, 20, 21].contains k then [⟨.vDst, d⟩, ⟨.vSrcP, a⟩]
    else if [1, 14, 15, 26, 27].contains k then [⟨.vDstP, d⟩, ⟨.vSrc, a⟩]
    else if [2, 3, 4, 5, 8, 9, 10, 11, 22, 23, 24, 25, 28].contains k then [⟨.vDst, d⟩, ⟨.vSrc, a⟩]
    else if [16, 17, 18, 19, 29].contains k then [⟨.vDstP, d⟩, ⟨.vSrcP, a⟩]
    else []
  | 0x0A =>
    if k = 0 then [⟨.wTri, d⟩, ⟨.vSrc, a⟩]
    else if [1, 2, 12, 13, 14, 15, 16, 17].contains k then [⟨.wDst, d⟩, ⟨.vSrc, a⟩]
    else if [3, 4].contains k then [⟨.wDst, d⟩, ⟨.wTriZ, a⟩]
    else if 5 ≤ k && k ≤ 8 then [⟨.vDst, d⟩, ⟨.vSrc, a⟩, ⟨.vSrc, b⟩]
    else if k = 9 then [⟨.wDst, d⟩, ⟨.vSrc, a⟩, ⟨.wSrc, b⟩]
    else if [10, 11].contains k then [⟨.vDst, d⟩, ⟨.vSrc, a⟩]
    else []
  | 0x0B =>
    if [1, 2].contains k then used 56 1
    else if k = 3 then used 54 2
    else if [5, 6].contains k then used 57 3
    else []
  | 0x0C =>
    if k = 1 then used 54 2
    else if k = 2 then [⟨.wSrcP, a⟩]
    else if k = 3 then [⟨.wDstP, d⟩, ⟨.wSrcP, a⟩]
    else []
  | 0x0D =>
    if k = 3 then [⟨.wDst, d⟩]
    else if k = 4 then [⟨.wSrc, a⟩]
    else if k = 5 then [⟨.vDst, d⟩]
    else if k = 6 then [⟨.vSrc, a⟩]
    else if k = 7 then [⟨.wDstP, d⟩]
    else []
  | 0x0E =>
    if k ≤ 4 then [⟨.vDst, d⟩, ⟨.vSrcP, a2⟩, ⟨.vSrc, b⟩]
    else if k = 5 then [⟨.vDstP, d⟩, ⟨.vSrcP, a2⟩, ⟨.vSrc, b⟩]
    else if 8 ≤ k && k ≤ 12 then [⟨.wDst, d⟩, ⟨.wSrcP, a2⟩, ⟨.wSrc, b⟩]
    else if k = 13 then [⟨.wDstP, d⟩, ⟨.wSrcP, a2⟩, ⟨.wSrc, b⟩]
    else []
  | 0x0F =>
    if [0, 1, 2].contains k then [⟨.vSrc, d⟩, ⟨.vSrcP, a2⟩, ⟨.vSrc, b⟩]
    else if k = 3 then [⟨.vSrcP, d⟩, ⟨.vSrcP, a2⟩, ⟨.vSrc, b⟩]
    else if [8, 9, 10].contains k then [⟨.wSrc, d⟩, ⟨.wSrcP, a2⟩, ⟨.wSrc, b⟩]
    else if k = 11 then [⟨.wSrcP, d⟩, ⟨.wSrcP, a2⟩, ⟨.wSrc, b⟩]
    else if k = 4 then [⟨.vSrc, d⟩, ⟨.bPair, a2⟩] ++ used 60 1
    else if k = 5 then [⟨.vSrcP, d⟩, ⟨.bPair, a2⟩] ++ used 60 1
    else []
  | 0x10 =>
    if [0, 2, 4, 5, 6, 7, 8, 9, 10, 11, 13].contains k then [⟨.vDstZ, d⟩, ⟨.vSrcP, a2⟩, ⟨.vSrc, b⟩]
    else if [1, 3, 12, 14].contains k then [⟨.vDstZP, d⟩, ⟨.vSrcP, a2⟩, ⟨.vSrcP, b⟩]
    else []
  | 0x11 =>
    if 1 ≤ k && k ≤ 4 then [⟨.vSrcP, a2⟩, ⟨.vSrc, b⟩]
    else []
  | 0x12 =>
    if [0, 1].contains k then [⟨.wDst, d⟩, ⟨.wEven 62, a⟩, ⟨.wSrc, b⟩]
    else if [2, 4].contains k then [⟨.vSrc, d⟩, ⟨.wEven 62, a⟩, ⟨.wSrc, b⟩]
    else if [3, 5].contains k then [⟨.vSrcP, d⟩, ⟨.wEven 62, a⟩, ⟨.wSrc, b⟩]
    else if [6, 8].contains k then [⟨.wDst, d⟩, ⟨.wSrc, a⟩]
    else if k = 7 then [⟨.wDstP, d⟩, ⟨.wEven 62, a⟩]
    else []
  | 0x13 =>
    if k ≤ 13 then [⟨.wSrc, d⟩, ⟨.wEven 58, a⟩, ⟨.wSrc, b⟩] ++ used (a + 1) 5
    else if 16 ≤ k && k ≤ 19 then [⟨.wSrcP, d⟩, ⟨.wEven 58, a⟩, ⟨.wSrc, b⟩] ++ used (a + 1) 5
    else if 20 ≤ k && k ≤ 29 then [⟨.wSrcP, d⟩, ⟨.wEven 54, a⟩, ⟨.wSrc, b⟩] ++ used (a + 1) 9
    else []
  | 0x14 =>
    if k ≤ 5 then [⟨.vDst, d⟩, ⟨.vSrc, a⟩, ⟨.wMax 62, b⟩] ++ used (b + 1) 1
    else if 6 ≤ k && k ≤ 11 then [⟨.vDst, d⟩, ⟨.vSrc, a⟩, ⟨.wSrc, b⟩]
    else if [12, 13].contains k then [⟨.wSrc, d⟩, ⟨.wMax 61, a⟩] ++ used (a + 1) 2
    else if k = 14 then [⟨.wDst, d⟩, ⟨.wSrc, a⟩]
    else if k = 15 then [⟨.wSrc, a⟩]
    else []
  | 0x15 =>
    if [0, 5].contains k then [⟨.wSrcP, a⟩, ⟨.wSrc, b⟩]
    else if k = 1 then [⟨.vDst, d⟩, ⟨.vRow, a⟩, ⟨.wSrc, b⟩]
    else if k = 2 then [⟨.vRow, a⟩, ⟨.vRow, b⟩]
    else if k = 3 then [⟨.wSrc, b⟩]
    else if k = 4 then [⟨.wDstP, d⟩, ⟨.wSrc, a⟩, ⟨.wSrc, b⟩]
    else []
  | 0x16 =>
    if [0, 2].contains k then [⟨.wEven 56, a⟩, ⟨.wSrc, b⟩] ++ used (a + 1) 7
    else if k = 1 then [⟨.wEven 54, a⟩, ⟨.wSrc, b⟩] ++ used (a + 1) 9
    else if k = 3 then [⟨.wDst, d⟩]
    else if k = 4 then [⟨.wSrc, a⟩]
    else if [5, 6].contains k then [⟨.wEven 62, a⟩]
    else if k = 7 then [⟨.wDst, d⟩, ⟨.wEven 62, a⟩]
    else []
  | 0x17 =>
    if k = 0 then [⟨.wEven 56, a⟩] ++ used (a + 1) 6
    else if 1 ≤ k && k ≤ 5 then [⟨.wEven 62, a⟩, ⟨.wSrc, b⟩]
    else []
  | 0x18 =>
    if [0, 6].contains k then [⟨.wEven 62, a⟩]
    else if k = 3 then [⟨.wSrc, a⟩]
    else if [4, 7].contains k then [⟨.wDstP, d⟩]
    else if k = 5 then [⟨.wDst, d⟩, ⟨.wEven 62, a⟩]
    else []
  | 0x19 =>
    if k = 0 then [⟨.wDst, d⟩, ⟨.wEven 62, a⟩]
    else if k = 1 then [⟨.wSrcP, a⟩, ⟨.wSrcP, b⟩]
    else []
  | _ => []

/-- Allocation rows that `fcall` and `fret` reach beyond those their fields name (R220, R221). -/
def State.reached (s : State) (id : WaveId) (x : Word) : List Nat :=
  let w := s.wv id
  let v := x.toNat
  let d := bits v 26 20
  let a := bits v 19 13
  let b := bits v 12 6
  let run := fun (r n : Nat) => tab n (r + ·)
  if bits v 31 27 ≠ 0x15 then []
  else match bits v 4 0 with
    | 1 =>
      let f := (s.fent (s.ctxN id.g) (w.ws (BitVec.ofNat 7 b)).toNat).desc
      run (w.wbase + a) (f.n * f.d) ++ run (w.wbase + d) (f.n * f.k)
    | 2 =>
      match w.frame with
      | none => []
      | some fr =>
        let n := if fr.f64 then 2 else 1
        run (w.wbase + a) (n * fr.k) ++ run (w.wbase + b) (n * fr.k * fr.d) ++ run fr.dRow (n * fr.k) ++ run fr.aRow (n * fr.d)
    | _ => []

/-- The operands of a word are available (R16, R189). -/
def State.avail (s : State) (id : WaveId) (x : Word) : Bool :=
  let w := s.wv id
  w.free (wordOperands x) && !((s.reached id x).any (fun r => w.dueRows.contains r))

/-- The counter that an instruction word raises (R170): 0 VL, 1 WL, 2 ST, 3 EC, 4 FL. -/
def wordCtr (x : Word) : Option Nat :=
  let k := bits x.toNat 4 0
  match bits x.toNat 31 27 with
  | 0x0E => some (if bit x.toNat 13 then 1 else 0)
  | 0x0F => some 2
  | 0x10 => some 0
  | 0x11 => if 1 ≤ bits x.toNat 2 0 && bits x.toNat 2 0 ≤ 3 then some 2 else none
  | 0x12 => if 2 ≤ k && k ≤ 5 then some 3 else none
  | 0x13 => some 3
  | 0x14 => if k = 12 || k = 13 then some 3 else none
  | 0x15 => if k = 0 || k = 2 || k = 3 || k = 5 then some 4 else none
  | _ => none

/-- The word raises no counter when no thread is active: a vector access, a cache operation, `ared`, or a matrix instruction (R18, R170, R308). -/
def idleWord (x : Word) : Bool :=
  let k := bits x.toNat 4 0
  match bits x.toNat 31 27 with
  | 0x0E | 0x0F => !bit x.toNat 13
  | 0x10 | 0x11 | 0x12 | 0x13 => true
  | 0x14 => k = 12 || k = 13
  | _ => false

/-- The word is stalled by a counter at its limit, which it would raise (R170, R189). One that counts what a deterministic grid holds issues, to
stop its wave for the round (log 57). -/
def Wave.limited (w : Wave) (x : Word) : Bool :=
  match wordCtr x with
  | some c => 63 ≤ w.ctr c && (!w.det || c < 2) && !(idleWord x && w.actives.isEmpty)
  | none => false

/-- The operands of a wave's next instruction are available, and no counter is at a limit it needs below. A word that cannot be fetched needs none; a LIT pair needs those of its
second word. -/
def State.operandsReady (s : State) (id : WaveId) : Bool :=
  let w := s.wv id
  match s.fetchWord id w.pc.toNat with
  | .error _ => true
  | .ok x =>
    if bits x.toNat 31 27 = 0x1F then
      match s.fetchWord id (w.pc + 4).toNat with
      | .error _ => true
      | .ok y => 2 ^ 20 ≤ bits x.toNat 26 0 || (s.avail id y && !w.limited y)
    else s.avail id x && !w.limited x

end Sys2Proof.Machine
end

