-- ==== Sys2Proof/Machine/Sync.lean ====
section
/-! DEFINITION. The instructions that may wait, or that a deterministic grid performs in its serial phase (R153-R156, R171, R172, R195,
R196): when each may be performed, exchanges, and the meanings of the waiting, memory, fence, cache, matrix, session and
engine instructions that share them. -/

namespace Sys2Proof.Machine

/-! ### Conditions -/

/-- Every counter whose threshold is below 15 is at or below it (R171). -/
def Wave.counted (w : Wave) (tv tw ts te tf : Nat) : Bool :=
  let ok := fun (t n : Nat) => t = 15 || n ≤ t
  ok tv w.vl && ok tw w.wl && ok ts w.st && ok te w.ec && ok tf w.fl

/-- The reason that kept an instruction from issuing has gone (R170, R327, R342). -/
def State.cleared (s : State) (n : Nat) : Bool :=
  if n < 5 then s.w.ctr n < 63
  else if n = 5 then s.w.quiet
  else if n = 6 then s.queued s.w.core < 16
  else if n = 7 then (s.openBatches s.cur).length < 16
  else !s.unacked

/-- A waiting or synchronising instruction performed, if it may be: the state after it, or none while it waits. -/
def State.tryOp (s : State) : LongOp → Option State
  | .waitc tv tw ts te tf => if s.w.counted tv tw ts te tf then some (s.modW (·.retireYield)) else none
  | .yield => some (s.modW (·.retireYield))
  | .bwait d _ => s.tryBwait d
  | .spop d b => s.trySpop d b
  | .spush d a b => s.trySpush d a b
  | .cwait a => s.tryCwait a
  | .twait all a => s.tryTwait all a
  | .dwait a b => s.tryDwait a b
  | .gbar => s.tryGbar
  | .launch d a => s.tryLaunch d a
  | .aopen nb d a b => s.tryAopen nb d a b
  | .aseal d a got => s.tryAseal d a got
  | .fcall d a b => s.tryFcall d a b
  | .mma m => s.tryMma m
  | .mem m =>
    if !s.w.det then s.tryMem m else if m.releases && s.mustAck (levelOf m.sc) then none else some (s.doMem m)
  | .fence cls sc => s.tryFence cls sc
  | .again n => if s.cleared n then some s else none

/-- A deterministic wave stops before the instruction: it is synchronising (R196), or `aopen` (R300). -/
def LongOp.syncs : LongOp → Bool
  | .waitc _ _ _ te _ => te < 15
  | .yield | .fcall _ _ _ | .mma _ | .again _ => false
  | .mem m => (match m.kind with | .atomic _ => true | _ => 1 ≤ m.sc && m.sc ≤ 5)
  | _ => true

/-- The instruction yields (R154): an `mma` while it waits for leave. -/
def LongOp.yields : LongOp → Bool
  | .waitc _ _ _ _ _ | .yield | .bwait _ _ | .spop _ _ | .cwait _ | .twait _ _ | .dwait _ _ | .gbar | .aopen false _ _ _ | .fcall _ _ _
  | .mma _ => true
  | _ => false

/-- What the wait does before its condition can hold is done although its wave is not in the active set: the release of a `gbar` and its arrival, that
of an `aopen`, what a fence sends out, the start of a seal (R194, R255, R302, R304). -/
def LongOp.stages : LongOp → Bool
  | .gbar | .aopen _ _ _ _ | .fence _ _ | .aseal _ _ _ => true
  | _ => false

/-- The condition of the instruction a wave is held at holds: performed now, it would wait no longer; a wave held at none has no condition (R155). -/
def State.isMet (s : State) (id : WaveId) : Bool :=
  match (s.wv id).hold with
  | none => true
  | some h => match { s with cur := id }.tryOp h.op with
    | none => false
    | some t => !h.op.stages || (t.wv id).hold.isNone

/-- A wave could issue (R155, R189): it is live, its crew is bound, it has not stopped for the round, and its operands are available, or the
condition it waits for holds. -/
def State.ready (s : State) (id : WaveId) : Bool :=
  let w := s.wv id
  !w.exited && (s.crewOf (s.crewId id)).bound && w.stopped.isNone &&
    (match w.hold with | none => s.operandsReady id | some _ => s.isMet id)

/-! ### The active set -/

/-- The waves bound to a core that have not exited. -/
def State.onCore (s : State) (core : Nat) : List WaveId :=
  (s.waves.filter (fun p => p.2.core = core && !p.2.exited && (s.crewOf (s.crewId p.1)).bound)).map (·.1)

/-- The oldest wave of a list (R190). -/
def State.oldest (s : State) (ids : List WaveId) : Option WaveId :=
  ids.foldl (fun m i => match m with
    | none => some i
    | some j => if (s.wv i).age < (s.wv j).age then some i else some j) none

/-- The oldest ready pending wave of a core (R155). -/
def State.nextPending (s : State) (core : Nat) : Option WaveId :=
  s.oldest ((s.onCore core).filter (fun i => !(s.wv i).active && s.ready i))

/-- A wave enters the active set. -/
def State.activate (s : State) (id : WaveId) : State :=
  s.modWv id (fun w => { w with active := true, waitFrom := (s.coreOf w.core).clock })

/-- An exchange (R155, R156): the wave leaves the active set with its latches cleared, its searches abandoned (R215), and the oldest
ready pending wave enters it. -/
def State.exchange (s : State) (id : WaveId) : State :=
  match s.nextPending (s.wv id).core with
  | none => s
  | some i => (s.modWv id (fun w => { w.clearQ with active := false, search := none })).activate i

/-- A vacancy of a core's active set filled by the oldest ready pending wave (R190). -/
def State.fillVacancy (s : State) (core : Nat) : State :=
  if 8 ≤ ((s.onCore core).filter (fun i => (s.wv i).active)).length then s
  else match s.nextPending core with
    | some i => s.activate i
    | none => s

/-- The round exchange of a stopped wave (R195): the oldest pending wave of the grid that has not stopped takes its place; the latches
stay. -/
def State.roundExchange (s : State) (id : WaveId) : State :=
  let core := (s.wv id).core
  match s.oldest ((s.onCore core).filter (fun i => i.g = id.g && !(s.wv i).active && (s.wv i).stopped.isNone)) with
  | none => s
  | some i => (s.modWv id (fun w => { w with active := false })).activate i

/-- `EXIT` (R124, R127, R190, R399): the wave ends, and the oldest ready pending wave takes its place. It leaves the latches as they are in a
deterministic grid too, although R154 lists it among the yielding instructions, which R156 has clear them (log 57). -/
def execExit (s : State) : Out :=
  .next (if s.w.sup then s.trap (.state 0x03)
    else
      let core := s.w.core
      ((s.modW (·.retire)).endWave s.cur).fillVacancy core)

/-! ### Issue of an instruction that may wait -/

/-- What an instruction that must wait does when it issues: its wait begins (R155, R170); `mma` asks for leave (R326); `gbar` arrives in its
phase (R194); a release that waits for a condition is performed first (R302), once the wave's earlier accesses are; `aseal` has checked its handle
(R304). -/
def State.begin_ (s : State) (op : LongOp) : State :=
  match op with
  | .mma m => s.waitMma m
  | .gbar => s.arriveGbar.wait .gbar
  | .aopen nb d a b =>
    if s.w.quiet then (s.writeDown s.cur s.w.core 3).1.wait (.aopen nb d a b) else s.wait (if nb then .again 5 else .aopen nb d a b)
  | .aseal d a got => s.wait (.aseal d a (s.sealing a got))
  | .mem m =>
    if s.w.det then (s.writeDown s.cur s.w.core 4).1.wait (.mem m)
    else if 63 ≤ s.w.ctr (memCtr m.kind m.uni) && !(s.w.accs m).isEmpty then s.wait (.again (memCtr m.kind m.uni))
    else if s.w.quiet then (s.writeDown s.cur s.w.core 4).1.wait (.again 8)
    else s.wait (.again 5)
  | .fence cls sc =>
    (if sc ≠ 5 then s else if bit cls 0 && s.w.quiet then (s.writeDown s.cur s.w.core 4).1 else if bit cls 1 && s.engDone s.cur then s.sysOut else s).wait
      (.fence cls sc)
  | op => s.wait op

/-- A `waitc` waits for effects that the wave's commit buffer holds, which only the commit phase performs (log 57). -/
def Wave.awaitsHeld (w : Wave) : LongOp → Bool
  | .waitc _ _ ts _ tf => w.det && !w.buf.isEmpty && !(w.counted 15 15 ts 15 tf)
  | _ => false

/-- An instruction that may wait issues: a deterministic wave stops before a synchronising one (R195), and before a `waitc` on what it holds
itself; otherwise it is performed, or its wait begins. -/
def State.long (s : State) (op : LongOp) : State :=
  if s.w.det && op.syncs then s.setW { s.w with stopped := some (.sync op) }
  else if s.w.awaitsHeld op then s.setW { s.w with stopped := some .full }
  else match s.tryOp op with
    | some s' => s'
    | none => s.begin_ op

/-! ### Waiting instructions -/

/-- `WAITC` (R171). -/
def execWaitc (tv tw ts te tf : BitVec 4) (s : State) : Out :=
  .next (s.long (.waitc tv.toNat tw.toNat ts.toNat te.toNat tf.toNat))

/-- `YIELD` (R155, R172): it exchanges the wave when a ready pending wave exists, and retires at its next issue; otherwise it retires at
once. -/
def execYield (s : State) : Out :=
  .next (if s.w.hold.isNone && (s.nextPending s.w.core).isSome then (s.wait .yield).exchange s.cur
    else s.long .yield)

/-- `BWAIT` (R346). -/
def execBwait (d : Code) (s : State) : Out := .next (s.long (.bwait d.toNat false))
/-- `SPOP` (R348). -/
def execSpop (d b : Code) (s : State) : Out := .next (s.long (.spop d.toNat b.toNat))
/-- `SPUSH` (R348). -/
def execSpush (d a b : Code) (s : State) : Out := .next (s.long (.spush d.toNat a.toNat b.toNat))
/-- `CWAIT` (R343). -/
def execCwait (a : Code) (s : State) : Out := s.guarded [⟨.wSrc, a.toNat⟩] (fun s => s.long (.cwait a.toNat))
/-- `TWAITANY` (R344). -/
def execTwaitany (a : Code) (s : State) : Out := .next (s.long (.twait false a.toNat))
/-- `TWAITALL` (R344). -/
def execTwaitall (a : Code) (s : State) : Out := .next (s.long (.twait true a.toNat))
/-- `DWAIT` (R193). -/
def execDwait (a b : Code) (s : State) : Out := .next (s.long (.dwait a.toNat b.toNat))
/-- `GBAR` (R194). -/
def execGbar (s : State) : Out := .next (s.long .gbar)
/-- `LAUNCH` (R192). -/
def execLaunch (d a : Code) (s : State) : Out := .next (s.long (.launch d.toNat a.toNat))
/-- `AOPEN` (R302). -/
def execAopen (d a b : Code) (s : State) : Out :=
  s.guarded [⟨.wSrc, b.toNat⟩] (fun s => s.long (.aopen false d.toNat a.toNat b.toNat))
/-- `AOPENNB` (R302). -/
def execAopennb (d a b : Code) (s : State) : Out :=
  s.guarded [⟨.wSrc, b.toNat⟩] (fun s => s.long (.aopen true d.toNat a.toNat b.toNat))
/-- `ASEAL` (R304). -/
def execAseal (d a : Code) (s : State) : Out := s.guarded [⟨.wSrc, a.toNat⟩] (fun s => s.long (.aseal d.toNat a.toNat none))
/-- `FCALL` (R220). -/
def execFcall (d a b : Code) (s : State) : Out :=
  s.guarded [⟨.vDst, d.toNat⟩, ⟨.vRow, a.toNat⟩, ⟨.wSrc, b.toNat⟩] (fun s => s.long (.fcall d.toNat a.toNat b.toNat))
/-- `FENCE` (R254, R255). -/
def execFence (cls : BitVec 4) (sc : BitVec 3) (s : State) : Out := .next (s.long (.fence cls.toNat sc.toNat))

/-! ### Memory instructions -/

/-- A memory instruction issues (R170, R197, R241-R253). -/
def memIns (ops : List Opnd) (m : MemOp) (s : State) : Out :=
  s.guarded ops (fun s =>
    if s.w.det && !(LongOp.mem m).syncs then
      (if 63 ≤ s.w.ctr (memCtr m.kind m.uni) && !(s.w.accs m).isEmpty then s.atLimit (memCtr m.kind m.uni) else s.detMem m)
    else s.long (.mem m))

/-- A vector load or store: d, a and b (R244). -/
def vecMem (k : MemKind) (size : Nat) (dk : Kind) (d : Code) (a : BitVec 6) (b : Code) (sc : BitVec 3) (s : State) : Out :=
  memIns [⟨dk, d.toNat⟩, ⟨.vSrcP, 2 * a.toNat⟩, ⟨.vSrc, b.toNat⟩] ⟨k, size, false, d.toNat, 2 * a.toNat, b.toNat, sc.toNat⟩ s

/-- A uniform load or store (R244). -/
def uniMem (k : MemKind) (size : Nat) (dk : Kind) (d : Code) (a : BitVec 6) (b : Code) (sc : BitVec 3) (s : State) : Out :=
  memIns [⟨dk, d.toNat⟩, ⟨.wSrcP, 2 * a.toNat⟩, ⟨.wSrc, b.toNat⟩] ⟨k, size, true, d.toNat, 2 * a.toNat, b.toNat, sc.toNat⟩ s

/-- An atomic by its operation number; `amcas` reads d (R65, R250). -/
def amo (op : Nat) (d : Code) (a : BitVec 6) (b : Code) (sc : BitVec 3) (s : State) : Out :=
  let wide := amoSize op = 8
  memIns ([⟨if wide then .vDstZP else .vDstZ, d.toNat⟩, ⟨.vSrcP, 2 * a.toNat⟩, ⟨if wide then .vSrcP else .vSrc, b.toNat⟩]
      ++ (if op = 13 || op = 14 then [⟨if wide then .vSrcP else .vSrc, d.toNat⟩] else []))
    ⟨.atomic op, amoSize op, false, d.toNat, 2 * a.toNat, b.toNat, sc.toNat⟩ s
/-- `LD_N8` (R245). -/
def execLdN8 (d : Code) (a : BitVec 6) (b : Code) (sc : BitVec 3) (s : State) : Out :=
  vecMem (.load false) 1 .vDst d a b sc s
/-- `LD_S8` (R245). -/
def execLdS8 (d : Code) (a : BitVec 6) (b : Code) (sc : BitVec 3) (s : State) : Out :=
  vecMem (.load true) 1 .vDst d a b sc s
/-- `LD_N16` (R245). -/
def execLdN16 (d : Code) (a : BitVec 6) (b : Code) (sc : BitVec 3) (s : State) : Out :=
  vecMem (.load false) 2 .vDst d a b sc s
/-- `LD_S16` (R245). -/
def execLdS16 (d : Code) (a : BitVec 6) (b : Code) (sc : BitVec 3) (s : State) : Out :=
  vecMem (.load true) 2 .vDst d a b sc s
/-- `LD_32` (R245). -/
def execLd32 (d : Code) (a : BitVec 6) (b : Code) (sc : BitVec 3) (s : State) : Out :=
  vecMem (.load false) 4 .vDst d a b sc s
/-- `LD_64` (R245). -/
def execLd64 (d : Code) (a : BitVec 6) (b : Code) (sc : BitVec 3) (s : State) : Out :=
  vecMem (.load false) 8 .vDstP d a b sc s
/-- `LD_UNI_N8` (R245). -/
def execLdUniN8 (d : Code) (a : BitVec 6) (b : Code) (sc : BitVec 3) (s : State) : Out :=
  uniMem (.load false) 1 .wDst d a b sc s
/-- `LD_UNI_S8` (R245). -/
def execLdUniS8 (d : Code) (a : BitVec 6) (b : Code) (sc : BitVec 3) (s : State) : Out :=
  uniMem (.load true) 1 .wDst d a b sc s
/-- `LD_UNI_N16` (R245). -/
def execLdUniN16 (d : Code) (a : BitVec 6) (b : Code) (sc : BitVec 3) (s : State) : Out :=
  uniMem (.load false) 2 .wDst d a b sc s
/-- `LD_UNI_S16` (R245). -/
def execLdUniS16 (d : Code) (a : BitVec 6) (b : Code) (sc : BitVec 3) (s : State) : Out :=
  uniMem (.load true) 2 .wDst d a b sc s
/-- `LD_UNI_32` (R245). -/
def execLdUni32 (d : Code) (a : BitVec 6) (b : Code) (sc : BitVec 3) (s : State) : Out :=
  uniMem (.load false) 4 .wDst d a b sc s
/-- `LD_UNI_64` (R245). -/
def execLdUni64 (d : Code) (a : BitVec 6) (b : Code) (sc : BitVec 3) (s : State) : Out :=
  uniMem (.load false) 8 .wDstP d a b sc s
/-- `ST_8` (R246). -/
def execSt8 (d : Code) (a : BitVec 6) (b : Code) (sc : BitVec 3) (s : State) : Out :=
  vecMem .store 1 .vSrc d a b sc s
/-- `ST_16` (R246). -/
def execSt16 (d : Code) (a : BitVec 6) (b : Code) (sc : BitVec 3) (s : State) : Out :=
  vecMem .store 2 .vSrc d a b sc s
/-- `ST_32` (R246). -/
def execSt32 (d : Code) (a : BitVec 6) (b : Code) (sc : BitVec 3) (s : State) : Out :=
  vecMem .store 4 .vSrc d a b sc s
/-- `ST_64` (R246). -/
def execSt64 (d : Code) (a : BitVec 6) (b : Code) (sc : BitVec 3) (s : State) : Out :=
  vecMem .store 8 .vSrcP d a b sc s
/-- `ST_UNI_8` (R246). -/
def execStUni8 (d : Code) (a : BitVec 6) (b : Code) (sc : BitVec 3) (s : State) : Out :=
  uniMem .store 1 .wSrc d a b sc s
/-- `ST_UNI_16` (R246). -/
def execStUni16 (d : Code) (a : BitVec 6) (b : Code) (sc : BitVec 3) (s : State) : Out :=
  uniMem .store 2 .wSrc d a b sc s
/-- `ST_UNI_32` (R246). -/
def execStUni32 (d : Code) (a : BitVec 6) (b : Code) (sc : BitVec 3) (s : State) : Out :=
  uniMem .store 4 .wSrc d a b sc s
/-- `ST_UNI_64` (R246). -/
def execStUni64 (d : Code) (a : BitVec 6) (b : Code) (sc : BitVec 3) (s : State) : Out :=
  uniMem .store 8 .wSrcP d a b sc s
/-- `STC_N32` (R248, R249). -/
def execStcN32 (d : Code) (a : BitVec 6) (sc : BitVec 3) (s : State) : Out :=
  memIns [⟨.vSrc, d.toNat⟩] ⟨.stc, 4, false, d.toNat, 2 * a.toNat, 0, sc.toNat⟩ s
/-- `STC_N64` (R248, R249). -/
def execStcN64 (d : Code) (a : BitVec 6) (sc : BitVec 3) (s : State) : Out :=
  memIns [⟨.vSrcP, d.toNat⟩] ⟨.stc, 8, false, d.toNat, 2 * a.toNat, 0, sc.toNat⟩ s
/-- `AMADD_N32` (R251). -/
def execAmaddN32 (d : Code) (a : BitVec 6) (b : Code) (sc : BitVec 3) (s : State) : Out := amo 0 d a b sc s
/-- `AMADD_N64` (R251). -/
def execAmaddN64 (d : Code) (a : BitVec 6) (b : Code) (sc : BitVec 3) (s : State) : Out := amo 1 d a b sc s
/-- `AMADD_F32` (R252). -/
def execAmaddF32 (d : Code) (a : BitVec 6) (b : Code) (sc : BitVec 3) (s : State) : Out := amo 2 d a b sc s
/-- `AMADD_F64` (R252). -/
def execAmaddF64 (d : Code) (a : BitVec 6) (b : Code) (sc : BitVec 3) (s : State) : Out := amo 3 d a b sc s
/-- `AMMIN_S32` (R251). -/
def execAmminS32 (d : Code) (a : BitVec 6) (b : Code) (sc : BitVec 3) (s : State) : Out := amo 4 d a b sc s
/-- `AMMAX_S32` (R251). -/
def execAmmaxS32 (d : Code) (a : BitVec 6) (b : Code) (sc : BitVec 3) (s : State) : Out := amo 5 d a b sc s
/-- `AMMIN_N32` (R251). -/
def execAmminN32 (d : Code) (a : BitVec 6) (b : Code) (sc : BitVec 3) (s : State) : Out := amo 6 d a b sc s
/-- `AMMAX_N32` (R251). -/
def execAmmaxN32 (d : Code) (a : BitVec 6) (b : Code) (sc : BitVec 3) (s : State) : Out := amo 7 d a b sc s
/-- `AMAND_N32` (R251). -/
def execAmandN32 (d : Code) (a : BitVec 6) (b : Code) (sc : BitVec 3) (s : State) : Out := amo 8 d a b sc s
/-- `AMOR_N32` (R251). -/
def execAmorN32 (d : Code) (a : BitVec 6) (b : Code) (sc : BitVec 3) (s : State) : Out := amo 9 d a b sc s
/-- `AMXOR_N32` (R251). -/
def execAmxorN32 (d : Code) (a : BitVec 6) (b : Code) (sc : BitVec 3) (s : State) : Out := amo 10 d a b sc s
/-- `AMSWP_N32` (R251). -/
def execAmswpN32 (d : Code) (a : BitVec 6) (b : Code) (sc : BitVec 3) (s : State) : Out := amo 11 d a b sc s
/-- `AMSWP_N64` (R251). -/
def execAmswpN64 (d : Code) (a : BitVec 6) (b : Code) (sc : BitVec 3) (s : State) : Out := amo 12 d a b sc s
/-- `AMCAS_N32` (R251). -/
def execAmcasN32 (d : Code) (a : BitVec 6) (b : Code) (sc : BitVec 3) (s : State) : Out := amo 13 d a b sc s
/-- `AMCAS_N64` (R251). -/
def execAmcasN64 (d : Code) (a : BitVec 6) (b : Code) (sc : BitVec 3) (s : State) : Out := amo 14 d a b sc s

/-! ### Cache operations -/

/-- A cache operation that waits for the wave's earlier accesses, and for room on ST, which it is counted on until it is performed, at once (R170, R257,
R258); at `sy`, where it writes to owners of windows, until they have acknowledged that (R412). That of a deterministic grid takes effect in its round
(log 57). -/
def cacheIns (place : State → Nat → Except Trap (Option (Nat × Nat))) (eff : State → Nat → Nat → Nat → State) (a : BitVec 6) (b : Code)
    (sc : BitVec 3) (s : State) : Out :=
  s.guarded [⟨.vSrcP, 2 * a.toNat⟩, ⟨.vSrc, b.toNat⟩] (fun s =>
    if !s.w.quiet then s.wait (.again 5)
    else if 63 ≤ s.w.st && !s.w.actives.isEmpty then s.atLimit 2
    else
      let t := s.cacheOp (BitVec.ofNat 7 (2 * a.toNat)) b place eff
      if sc = 5 then t.countOwed s.openTxn.length s.cur else t)

/-- `CWB` (R258). -/
def execCwb (a : BitVec 6) (b : Code) (sc : BitVec 3) (s : State) : Out :=
  let lvl := levelOf sc.toNat
  cacheIns (fun s va => s.cleanPlace lvl va) (fun s core ln _ => s.cwbLine core ln lvl) a b sc s
/-- `CINV` (R258). -/
def execCinv (a : BitVec 6) (b : Code) (sc : BitVec 3) (s : State) : Out :=
  let lvl := levelOf sc.toNat
  cacheIns (fun s va => s.cleanPlace lvl va) (fun s core ln _ => s.cinvLine core ln lvl) a b sc s
/-- `CINVD` (R258). -/
def execCinvd (a : BitVec 6) (b : Code) (sc : BitVec 3) (s : State) : Out :=
  cacheIns State.discardPlace (fun s core ln _ => s.cinvdLine core ln (levelOf sc.toNat)) a b sc s
/-- `PREF` (R258): it never faults and never waits. -/
def execPref (a : BitVec 6) (b : Code) (sc : BitVec 3) (s : State) : Out :=
  s.guarded [⟨.vSrcP, 2 * a.toNat⟩, ⟨.vSrc, b.toNat⟩] (fun s =>
    s.cacheOp (BitVec.ofNat 7 (2 * a.toNat)) b State.fetchPlace (fun s core ln key => s.touch core (levelOf sc.toNat) ln key [0, 64]))

/-! ### Matrix instructions -/

/-- An `mma` or `mmaf` (R308-R312, R326-R328). -/
def mmaIns (minor : Nat) (d a b : Code) (s : State) : Out :=
  s.guarded ((if mmFolds minor then [] else [⟨.wSrc, d.toNat⟩]) ++ [⟨.wSrc, b.toNat⟩]) (fun s =>
    s.long (.mma ⟨minor, d.toNat, a.toNat, b.toNat⟩))
/-- `MMA_F64` (R317, R318). -/
def execMmaF64 (d a b : Code) (s : State) : Out := mmaIns 0x0 d a b s
/-- `MMA_F32` (R317, R318). -/
def execMmaF32 (d a b : Code) (s : State) : Out := mmaIns 0x1 d a b s
/-- `MMA_F16` (R317, R318). -/
def execMmaF16 (d a b : Code) (s : State) : Out := mmaIns 0x2 d a b s
/-- `MMA_BF16` (R317, R318). -/
def execMmaBf16 (d a b : Code) (s : State) : Out := mmaIns 0x3 d a b s
/-- `MMA_E4M3` (R319). -/
def execMmaE4m3 (d a b : Code) (s : State) : Out := mmaIns 0x4 d a b s
/-- `MMA_E5M2` (R319). -/
def execMmaE5m2 (d a b : Code) (s : State) : Out := mmaIns 0x5 d a b s
/-- `MMA_E3M2` (R319). -/
def execMmaE3m2 (d a b : Code) (s : State) : Out := mmaIns 0x6 d a b s
/-- `MMA_E2M3` (R319). -/
def execMmaE2m3 (d a b : Code) (s : State) : Out := mmaIns 0x7 d a b s
/-- `MMA_E2M1` (R319). -/
def execMmaE2m1 (d a b : Code) (s : State) : Out := mmaIns 0x8 d a b s
/-- `MMA_MXI8` (R319). -/
def execMmaMxi8 (d a b : Code) (s : State) : Out := mmaIns 0x9 d a b s
/-- `MMA_E4M3_E5M2` (R319). -/
def execMmaE4m3E5m2 (d a b : Code) (s : State) : Out := mmaIns 0xa d a b s
/-- `MMA_E5M2_E4M3` (R319). -/
def execMmaE5m2E4m3 (d a b : Code) (s : State) : Out := mmaIns 0xb d a b s
/-- `MMA_E3M2_E2M3` (R319). -/
def execMmaE3m2E2m3 (d a b : Code) (s : State) : Out := mmaIns 0xc d a b s
/-- `MMA_E2M3_E3M2` (R319). -/
def execMmaE2m3E3m2 (d a b : Code) (s : State) : Out := mmaIns 0xd d a b s
/-- `MMAF_F64` (R317, R318). -/
def execMmafF64 (d a b : Code) (s : State) : Out := mmaIns 0x10 d a b s
/-- `MMAF_F32` (R317, R318). -/
def execMmafF32 (d a b : Code) (s : State) : Out := mmaIns 0x11 d a b s
/-- `MMAF_F16` (R317, R318). -/
def execMmafF16 (d a b : Code) (s : State) : Out := mmaIns 0x12 d a b s
/-- `MMAF_BF16` (R317, R318). -/
def execMmafBf16 (d a b : Code) (s : State) : Out := mmaIns 0x13 d a b s
/-- `MMAF_E4M3` (R320). -/
def execMmafE4m3 (d a b : Code) (s : State) : Out := mmaIns 0x14 d a b s
/-- `MMAF_E5M2` (R320). -/
def execMmafE5m2 (d a b : Code) (s : State) : Out := mmaIns 0x15 d a b s
/-- `MMAF_E3M2` (R320). -/
def execMmafE3m2 (d a b : Code) (s : State) : Out := mmaIns 0x16 d a b s
/-- `MMAF_E2M3` (R320). -/
def execMmafE2m3 (d a b : Code) (s : State) : Out := mmaIns 0x17 d a b s
/-- `MMAF_E2M1` (R320). -/
def execMmafE2m1 (d a b : Code) (s : State) : Out := mmaIns 0x18 d a b s
/-- `MMAF_MXI8` (R320). -/
def execMmafMxi8 (d a b : Code) (s : State) : Out := mmaIns 0x19 d a b s
/-- `MMAF_E4M3_E5M2` (R320). -/
def execMmafE4m3E5m2 (d a b : Code) (s : State) : Out := mmaIns 0x1a d a b s
/-- `MMAF_E5M2_E4M3` (R320). -/
def execMmafE5m2E4m3 (d a b : Code) (s : State) : Out := mmaIns 0x1b d a b s
/-- `MMAF_E3M2_E2M3` (R320). -/
def execMmafE3m2E2m3 (d a b : Code) (s : State) : Out := mmaIns 0x1c d a b s
/-- `MMAF_E2M3_E3M2` (R320). -/
def execMmafE2m3E3m2 (d a b : Code) (s : State) : Out := mmaIns 0x1d d a b s

end Sys2Proof.Machine
end

