-- ==== Sys2Proof/Machine/Det.lean ====
section
/-! DEFINITION. Deterministic mode: the end of a quantum, the commit phase, the serial phase and the next round (R195-R199, R217, R328,
R350, R366). -/

namespace Sys2Proof.Machine

/-! ### The commit phase -/

/-- Command `grp` of a core's matrix queue runs to its end, as the engine takes it up; the answer is false where it may not go on now: a fault
holds it, it waits to regain leave, or the engine works at another command first (R326-R328, R377). The number bounds the steps. -/
def State.runMat (s : State) (core grp : Nat) : Nat → State × Bool
  | 0 => (s, true)
  | n + 1 =>
    match (s.coreOf core).mq.findIdx? (fun c => c.grp = grp && !c.over) with
    | none => (s, true)
    | some i => if s.matTurn core = some i then (s.matStep core i).runMat core grp n else (s, false)

/-- Steps or rows a command may take, with one retry. -/
def MatCmd.bound (c : MatCmd) : Nat := 3 * c.ksteps + 98

/-- The commands of a grid in a core's queue, oldest first, run to their end. -/
def State.runQueue (s : State) (core : Nat) : List MatCmd → State × Bool
  | [] => (s, true)
  | c :: cs => match s.runMat core c.grp c.bound with
    | (s, false) => (s, false)
    | (s, true) => s.runQueue core cs

/-- A transfer's units run in ascending order; the answer is false where a fault holds one (R350). -/
def State.runUnits (s : State) (c : CrewId) (uid : Nat) : List Nat → State × Bool
  | [] => (s, true)
  | k :: ks =>
    match (s.crewOf c).xfer uid with
    | none => (s, true)
    | some x => match x.units[k]? with
      | none => (s, true)
      | some u =>
        if u.st = 3 then s.runUnits c uid ks
        else
          let s := if x.job.isNone then s.copyChunk c x k else s.gridStep c x k
          match (s.crewOf c).xfer uid with
          | none => s.runUnits c uid ks
          | some y => match y.units[k]? with
            | some v => if v.st = 3 then s.runUnits c uid ks else (s, false)
            | none => s.runUnits c uid ks

/-- The transfers of a crew run, in the order they opened. -/
def State.runXfers (s : State) (c : CrewId) : List Xfer → State × Bool
  | [] => (s, true)
  | x :: xs =>
    if !x.started || x.stage ≠ 0 then s.runXfers c xs
    else match s.runUnits c x.uid (List.range x.units.length) with
      | (s, false) => (s, false)
      | (s, true) => (s.xferDone c x.uid).runXfers c xs

/-- The transfers of a list of crews. -/
def State.runCrews (s : State) : List CrewId → State × Bool
  | [] => (s, true)
  | c :: cs => match s.runXfers c (s.crewOf c).xfers with
    | (s, false) => (s, false)
    | (s, true) => s.runCrews cs

/-- The matrix commands of a grid in a core's queue run, and those that then find room in it; the last number bounds how often. -/
def State.runCore (s : State) (g core : Nat) : Nat → State × Bool
  | 0 => (s, true)
  | n + 1 =>
    let s := s.refill core
    match (s.coreOf core).mq.filter (fun m => m.wave.g = g && !m.over) with
    | [] => (s, true)
    | ms => match s.runQueue core ms with
      | (s, false) => (s, false)
      | (s, true) => s.runCore g core n

/-- The matrix commands of a grid on a list of cores. -/
def State.runCores (s : State) (g : Nat) : List Nat → State × Bool
  | [] => (s, true)
  | c :: cs => match s.runCore g c 64 with
    | (s, false) => (s, false)
    | (s, true) => s.runCores g cs

/-- The engine work of a grid that an earlier part of the phase left held goes on. -/
def State.runHeld (s : State) (g : Nat) : State × Bool :=
  match s.runCores g (s.cores.map (·.1)) with
  | (s, false) => (s, false)
  | (s, true) => s.runCrews (s.crewsOf g)

/-- The first held effect leaves its wave's buffer. -/
def State.dropHeld (s : State) (id : WaveId) : State := s.modWv id (fun w => { w with buf := w.buf.drop 1 })

/-- A held effect faults when it is performed: it stays, and the wave's commit stops for this phase, while the handler runs (R366, R377); in a
grid that is ending it is dropped (R182). -/
def State.commitFault (s : State) (id : WaveId) (origin kind va : Nat) : State :=
  if (s.gridOf id.g).ending then s.dropHeld id
  else (s.modWv id (fun w => { w with commitHeld := true })).postFault id ⟨0x07, origin * 32 + kind, va⟩

/-- A held `gstn` reads its weights (R366): a fault stops the wave's commit for this phase, and an open line is reported. -/
def State.commitGstn (s : State) (id : WaveId) (n va x y z : Nat) : State :=
  match engRead id va (4 * (x * y * z)) s with
  | .ok (bs, s) => (s.dropHeld id).modCrew (s.crewId id) (fun c => { c with wsets := setAt WSet.unit c.wsets n ⟨x, y, z, weightsOf bs (x * y * z)⟩ })
  | .error (.acc sub a) => (s.dropHeld id).postFault id ⟨0x05, 0x80 + sub, a⟩
  | .error (.xlat k a) => s.commitFault id 4 k a

/-- Held stores performed at the home slice; the accumulating state of their lines was checked at issue, and is not again (R243). -/
def State.commitStores (s : State) (id : WaveId) (ws : List (Place × List Byte)) : State :=
  ws.foldl (fun s p => s.writePlace (s.wv id).core 3 [id] p.1 p.2) s

/-- A held arrival applied (R198, R288). It is translated afresh, as any posted arrival is: a failure is a fault of ORIGIN 1, and a page without the
accumulate-permit rejects it (R296, R393). -/
def State.commitArrival (s : State) (id : WaveId) (a : Arrival) : State :=
  let gone := fun (s : State) =>
    let s := s.dropHeld id
    if (s.wv id).holdsArrival a.grp || s.arriving a.grp then s else s.modWv id (·.dn 3)
  let s := s.walked (s.wv id).core (s.ctxN id.g) a.va
  match s.translate (s.wv id).core (s.ctxN id.g) a.va .write with
  | .error k => if (s.gridOf id.g).ending then gone s else s.commitFault id 1 k a.va
  | .ok l =>
    if !l.ap then (gone s).postFault id ⟨0x05, 0x89, a.va⟩
    else match windowOf l.pa with
      | some d => (s.dropHeld id).sendArrival d { a with pa := l.pa }
      | none => (gone s).arriveAt { a with pa := l.pa }

/-- One held effect of a wave performed (R198), which its counter counts no more (R170); the answer is false where the engine command it began may not
go on now, or has to wait for room in the core's queue (R327). -/
def State.commitOp (s : State) (id : WaveId) (o : BufOp) : State × Bool :=
  let c := s.crewId id
  let core := (s.wv id).core
  let run := fun (s : State) => s.runXfers c (s.crewOf c).xfers
  match o with
  | .stores ws => (((s.dropHeld id).commitStores id ws).modWv id (·.dn 2), true)
  | .arrival a => (s.commitArrival id a, true)
  | .fs ops =>
    let s := ops.foldl State.fsWhole (s.dropHeld id)
    (if ops.any (fun o => o.kind.counted) then s.modWv id (·.dn 4) else s, true)
  | .matrix m =>
    if 16 ≤ s.queued core then (s, false)
    else
      let s := (s.dropHeld id).matEnter m
      s.runMat core s.nextUid m.bound
  | .copy r => run ((s.dropHeld id).postCopy r)
  | .grid k ctl fline nlines => run ((s.dropHeld id).postGrid id k ctl fline nlines)
  | .seal n => ((s.dropHeld id).sealBatch id n, true)
  | .barv n => ((s.dropHeld id).doBarv id n, true)
  | .bexp n x => ((s.dropHeld id).doBexp id n x, true)
  | .binit n x => ((s.dropHeld id).doBinit c n x, true)
  | .tagclr m => ((s.dropHeld id).modCrew c (fun k => { k with tags := k.tags &&& ~~~ (BitVec.ofNat 64 m) }), true)
  | .gview n v => ((s.dropHeld id).modCrew c (fun k => { k with views := setAt View.none_ k.views n v }), true)
  | .gstn n va x y z => (s.commitGstn id n va x y z, true)

/-- The held effects of a wave in program order; what stands behind one that faulted stays held (R366). -/
def State.commitWave (s : State) (id : WaveId) : List BufOp → State × Bool
  | [] => (s, true)
  | o :: os =>
    if (s.wv id).commitHeld then (s, true)
    else match s.commitOp id o with
      | (s, false) => (s, false)
      | (s, true) => s.commitWave id os

/-- The buffers of a list of waves. -/
def State.commitWaves (s : State) : List WaveId → State × Bool
  | [] => (s, true)
  | i :: is => match s.commitWave i (s.wv i).buf with
    | (s, false) => (s, false)
    | (s, true) => s.commitWaves is

/-- The copies of a grid's ended crews that the commit phase has left gathering are discarded (R338). -/
def State.dropGathering (s : State) (g : Nat) : State :=
  ((s.crewsOf g).filter (fun c => (s.crewOf c).ended)).foldl (fun s c =>
    s.modCrew c (fun x => { x with xfers := x.xfers.filter (·.started) })) s

/-! ### The serial phase -/

/-- A deferred fault can be delivered to a wave: one is queued, and the wave is in user mode (R375). -/
def Wave.owes (w : Wave) : Bool := !w.faults.isEmpty && !w.sup && !w.exited

/-- A list of waves in the order of a key, the smaller name first among equals. -/
def sortWaves (key : WaveId → Nat) (ids : List WaveId) : List WaveId :=
  ids.foldl (fun m i =>
    let lt := fun (j : WaveId) => key j < key i || (key j = key i && j.w ≤ i.w)
    m.takeWhile lt ++ i :: m.dropWhile lt) []

/-- The operation a wave has stopped before: the form its wait began with, once it has begun. -/
def Wave.syncOp (w : Wave) : Option LongOp :=
  match w.stopped with
  | some (.sync op) => some (match w.hold with | some h => h.op | none => op)
  | _ => none

/-- A wave after its synchronising instruction was performed: it rests until the phase ends, or, where it trapped, runs its handler. -/
def Wave.served (w : Wave) : Wave := { w with stopped := if w.sup then none else some .quantum, hold := none }

/-- A wave performs the instruction it stopped before, if its condition holds; else its wait begins (R198). One to which a fault is to be
delivered takes that first (R375). -/
def State.serve (s : State) (id : WaveId) : State :=
  match if (s.wv id).owes then none else (s.wv id).syncOp with
  | none => s
  | some op =>
    let s := { s with cur := id }
    let sup := s.w.sup
    match s.tryOp op with
    | some s => if (s.wv id).exited || (op.stages && (s.wv id).hold.isSome) then s
        else s.modWv id (fun w => if sup then { w with stopped := none, hold := none } else w.served)
    | none => s.begin_ op

/-- The waves of a phase that wait at `gbar`, tried again once one of them has passed (R198). -/
def State.serveGbars (s : State) (ids : List WaveId) : State :=
  ids.foldl (fun s i => if (s.wv i).syncOp = some .gbar && (s.wv i).gArrived then s.serve i else s) s

/-- The serial phase of a grid waits for other devices: the turn of a wave has passed in it. Its waves then take no other step. -/
def State.inSerial (s : State) (g : Nat) : Bool := s.waves.any (fun p => p.1.g = g && p.2.tried)

/-- After its turn a wave still waits for what other devices have to answer: a store, an atomic or a fence of scope `sy` for acknowledgements (R279),
or any instruction while arrivals of its grid are not answered (R412). -/
def State.awaitsPeers (s : State) (id : WaveId) : Bool :=
  if (s.wv id).owes then false
  else match (s.wv id).syncOp with
    | none => false
    | some op => s.openTxn.any (fun t => match t.arr with | some a => a.wave.g = id.g | none => false) || (match op with
      | .mem m => m.releases && { s with cur := id }.mustAck (levelOf m.sc)
      | .fence cls sc => s.fenceDone id cls && { s with cur := id }.fenceAcks cls sc
      | _ => false)

/-- The serial phase over the waves in their order, from the first whose turn has not passed; the answer is false where it stops at a wave that
waits for other devices, whose time must not change the order (R281): the phase goes on there at a later event. -/
def State.serial (s : State) (ids : List WaveId) : List WaveId → State × Bool
  | [] => (s, true)
  | i :: is =>
    if (s.wv i).tried then s.serial ids is
    else
      let bar := (s.wv i).syncOp = some .gbar
      let s := s.serve i
      let s := if bar && (s.wv i).syncOp.isNone then s.serveGbars ids else s
      if s.awaitsPeers i then (s, false) else (s.modWv i (fun w => { w with tried := true })).serial ids is

/-! ### Rounds -/

/-- A transfer of the grid has not completed its steps (R350). -/
def State.unfinished (s : State) (g : Nat) : Bool := (s.crewsOf g).any (fun c => (s.crewOf c).xfers.any (·.started))

/-- The next round begins: waves that do not wait run, what faulted in the commit phase may be tried again (R366), `fstat` sees the counters as
they stand (R217), and each core's active set takes the oldest waves (R195). -/
def State.nextRound (s : State) (g : Nat) : State :=
  let s := (s.live g).foldl (fun s i => s.modWv i (fun w =>
    { w with stopped := (match w.stopped with | some (.sync op) => some (.sync op) | _ => none), qDue := false })) s
  let s := (s.waves.filter (fun p => p.1.g = g && p.2.commitHeld)).foldl (fun s p => s.modWv p.1 (fun w => { w with commitHeld := false })) s
  let s := s.setGrid g { s.gridOf g with round := (s.gridOf g).round + 1, fsSeen := s.fsSnapshot (s.ctxN g) }
  let cores := ((s.live g).map (fun i => (s.wv i).core)).eraseDups
  cores.foldl (fun s c =>
    let all := s.onCore c
    let own := all.filter (fun i => i.g = g)
    let room := 8 - (all.filter (fun i => i.g ≠ g && (s.wv i).active)).length
    let run := (sortWaves (fun i => (s.wv i).age) (own.filter (fun i => (s.wv i).stopped.isNone))).take room
    own.foldl (fun s i =>
      if run.contains i then (if (s.wv i).active then s else s.activate i) else s.modWv i (fun w => { w with active := false })) s) s

/-- Every live wave of the grid has stopped, with no fault to deliver, and nothing keeps its work from going on (R195); or its serial phase waits. -/
def State.roundOver (s : State) (g : Nat) : Bool :=
  (s.live g).all (fun i => (s.inSerial g || ((s.wv i).stopped.isSome && !(s.wv i).owes)) && s.goes i)

/-- The serial phase of a grid is over: no turn has passed in the next one. -/
def State.serialEnd (s : State) (g : Nat) : State :=
  { s with waves := s.waves.map (fun (p : WaveId × Wave) => if p.1.g = g then (p.1, { p.2 with tried := false }) else p) }

/-- `DET_COMMIT_PHASE` (R198, R350): the buffers in ascending wave id, then the serial phase by retired-instruction count, then the next
round once every transfer is complete. Where a fault holds an engine command, or a wave's turn waits for another device, the phase stops there, and goes on at a later event. -/
def execDetCommitPhase (g : Nat) (s : State) : Out :=
  .next (if (aget s.grids g).isNone || !(s.gridOf g).det || (s.gridOf g).ended || !s.roundOver g then s
    else
      let ids := sortWaves (fun _ => 0) ((s.waves.map (·.1)).filter (fun i => i.g = g))
      match s.runHeld g with
      | (s, false) => s
      | (s, true) => match s.commitWaves ids with
        | (s, false) => s
        | (s, true) =>
          let turn := sortWaves (fun i => (s.wv i).count.toNat) (s.live g)
          match (s.dropGathering g).serial turn turn with
          | (s, false) => s
          | (s, true) =>
            let s := (s.crewsOf g).foldl State.pushAll (s.serialEnd g)
            if s.unfinished g then s else s.nextRound g)

/-- `QUANTUM_EXPIRY` (R195): a wave whose count reached a multiple of Q stops for the round. -/
def execQuantumExpiry (g wv : Nat) (s : State) : Out :=
  let id : WaveId := ⟨g, wv⟩
  let w := s.wv id
  .next (if !w.qDue || w.sup || w.exited || w.stopped.isSome then s
    else (s.modWv id (fun w => { w with stopped := some .quantum, qDue := false })).roundExchange id)

end Sys2Proof.Machine
end

