-- ==== Sys2Proof/Machine/Events.lean ====
section
/-! DEFINITION. Events of the memory system, the sessions, the power stewards and the rebalancer (R231, R234, R239, R245, R246, R253,
R286, R291, R295, R304, R391-R393, R404, R426, R427). -/

namespace Sys2Proof.Machine

/-! ### Accesses -/

/-- `LOAD_DATA_RETURN` (R245, R376). -/
def execLoadDataReturn (g wv k : Nat) (s : State) : Out :=
  .next (if s.goes ⟨g, wv⟩ then
      s.performFlight ⟨g, wv⟩ (fun m => match m with | .load _ => true | _ => false) k
    else s)
/-- `STORE_PERFORMED` (R246, R376). -/
def execStorePerformed (g wv k : Nat) (s : State) : Out :=
  .next (if s.goes ⟨g, wv⟩ then
      s.performFlight ⟨g, wv⟩ (fun m => match m with | .store | .stc => true | _ => false) k
    else s)
/-- `ATOMIC_PERFORMED` (R253, R376). -/
def execAtomicPerformed (g wv k : Nat) (s : State) : Out :=
  .next (if s.goes ⟨g, wv⟩ then
      s.performFlight ⟨g, wv⟩ (fun m => match m with | .atomic _ => true | _ => false) k
    else s)

/-- `CACHE_EVICTION` (R231): a line leaves L1 of core `unit` (level 0), the L2 of gang `unit` (1), the local copies of sector `unit` (2), or
the line's home slice (3), its dirty bytes written to the level below. -/
def execCacheEviction (level unit line : Nat) (s : State) : Out :=
  .next (match level with
    | 0 => (s.downL1 unit line).setL1 unit line none
    | 1 => (s.downL2 (4 * unit) line 2).setL2 (4 * unit) line none
    | 2 => match aget s.sc (unit, line) with
      | some _ => s.recallSC' line (fun sec _ => sec = unit)
      | none => s
    | _ => s.writeBack line)

/-- A list of at most `n` translations with one put first (R391). -/
def tlbPut (n : Nat) (e : TlbEntry) (l : List TlbEntry) : List TlbEntry :=
  (e :: l.filter (fun t => !(t.ctx = e.ctx && t.base = e.base))).take n

/-- The pointer entries of T3, T2 and T1 that a walk of an address reads (R386, R391). -/
def State.walkReads (s : State) (sec ctx tkey va : Nat) : List Nat → Nat → List WalkEntry
  | [], _ => []
  | lvl :: ls, base =>
    match (match s.walkHeld sec ctx va lvl with
      | some e => Except.ok e
      | none => s.entryAt tkey (base + 8 * (va / 2 ^ levelShift lvl % levelEntries lvl))) with
    | .error _ => []
    | .ok e =>
      if !bit e 0 || bit e 1 || badPointer lvl e then []
      else ⟨ctx, lvl, va / 2 ^ levelShift lvl, e⟩ :: s.walkReads sec ctx tkey va ls (bits e 51 8 * 256)

/-- `PAGE_WALK` (R391, R392): a core's translation of a page is filled at its three levels: 512 entries in the core, 8192 in its gang, and
the entries read in its sector's walker caches. -/
def execPageWalk (core ctx va : Nat) (s : State) : Out :=
  let read := s.walkRead (s.walkHeld (sectorOf core) ctx va) ctx va
  .next (match aget s.ctxs ctx, s.coreWalk core ctx va with
    | some c, .ok (l, size) =>
      let base := va - va % size
      let e : TlbEntry := ⟨ctx, base, size, { l with pa := l.pa - va % size }⟩
      let sec := sectorOf core
      let ws := s.walkReads sec ctx c.tkey va [3, 2, 1] c.root
      let old := ((aget s.walkTlb sec).getD []).filter (fun x => !ws.any (fun y => x.ctx = y.ctx && x.lvl = y.lvl && x.tag = y.tag))
      { read.modCore core (fun k => { k with tlb := tlbPut 512 e k.tlb }) with
        gangTlb := aput s.gangTlb (gangOf core) (tlbPut 8192 e ((aget s.gangTlb (gangOf core)).getD []))
        walkTlb := aput s.walkTlb sec (ws ++ old) }
    | _, _ => read)

/-! ### Power -/

/-- Charge of a class (R427). -/
def chargeOf (c : Nat) : Nat := if c = 2 then 5 else 6

/-- The charges held in a sector (R427). -/
def State.charges (s : State) (sector : Nat) : Nat :=
  (tab 32 (fun k => (List.range 6).foldl (fun n c => if c ≠ 0 && s.holdsClass (32 * sector + k) c then n + chargeOf c else n) 0)).sum

/-- The budget B of a sector (R427). -/
def Sector.budget (x : Sector) : Nat := if 95 ≤ x.temp then 96 else 192

/-- A request of a power steward's list still stands: of a wave, or, 8 above its class, of the engine for a wave (R326, R427). -/
def State.asks (s : State) (r : WaveId × Nat) : Bool :=
  let w := s.wv r.1
  !w.exited && (if r.2 < 8 then !w.lvGnt && w.lvCls = r.2 else !w.engGnt && w.engCls + 8 = r.2)

/-- `LEAVE_GRANT` (R427): the first request whose core already holds its class, else the oldest one if its charge fits. An `mma` that waited
for it waits no longer for leave, so its wave is not exchanged any more (R154, R327). -/
def execLeaveGrant (sector : Nat) (s : State) : Out :=
  let x := (aget s.sectors sector).getD {}
  let live := x.reqs.filter s.asks
  let grant := fun (r : WaveId × Nat) =>
    (s.modSector sector (fun x => { x with reqs := live.filter (fun q => q ≠ r) })).modWv r.1 (fun w =>
      if r.2 < 8 then { w with lvGnt := true, hold := w.hold.map (fun h => match h.op with | .mma _ => { h with op := w.mmaStall } | _ => h) }
      else { w with engGnt := true })
  .next (match live.find? (fun r => s.holdsClass (s.wv r.1).core (r.2 % 8)) with
    | some r => grant r
    | none => match live with
      | r :: _ => if s.charges sector + chargeOf (r.2 % 8) ≤ x.budget then grant r else s
      | [] => s)

/-- `TEMPERATURE_THRESHOLD` (R426): at 105 degrees C the module shuts down, its port reports the fault (as 0), and HBM is lost. -/
def execTemperatureThreshold (sector temp : Nat) (s : State) : Out :=
  let s := s.modSector sector (fun x => { x with temp := temp })
  .next (if 105 ≤ temp then { s with moduleUp := false, portFault := s.portFault ++ [0], hbm := [], lineKey := [] } else s)

/-! ### Sessions -/

/-- The last arrival of a group has been applied or rejected (R170, R303, R327, R338). -/
def State.arrived (s : State) (a : Arrival) : State :=
  match a.owner with
  | .lane => if s.arriving a.grp || (s.wv a.wave).holdsArrival a.grp then s else s.modWv a.wave (·.dn 3)
  | .matrix => s.matDone (s.wv a.wave).core a.grp
  | .copyOf c tag => if s.arriving a.grp then s else s.unitArrived c tag a.grp

/-- Arrival `k` of the list must wait: behind an earlier one of its channel; one that a fault held, for its handler, for the restore of a saved
crew (R384), and behind what its wave's replay record holds before it: for the lanes in program order, for an engine after all of the lanes' (R295,
R377). -/
def State.arrivalWaits (s : State) (k : Nat) (a : Arrival) : Bool :=
  let first := s.arrivals.take k
  if !a.held then first.any (fun e => !e.held && e.src = a.src && e.slice = a.slice)
  else !(s.gridOf a.wave.g).ending && (!s.goes a.wave || !s.handled a.wave
    || first.any (fun e => e.held && e.wave = a.wave && e.owner = a.owner)
    || (if a.owner = .lane then (s.wv a.wave).inflight.any (fun f => f.seq ≤ a.grp && f.accs.any (·.held)) else s.laneHeld a.wave))

/-- `ACCUMULATION_ARRIVAL` (R286, R288, R295, R296): an arrival reaches its slice, in the order of its channel; one at or below the
high-water mark is dropped. It is translated afresh: a failure holds it, with its number, until its handler has returned (R377, R393, log 18),
and a page without the accumulate-permit rejects it. -/
def execAccumulationArrival (k : Nat) (s : State) : Out :=
  .next (match s.arrivals[k]? with
    | none => s
    | some a =>
      let ch := (a.src, a.slice)
      if s.arrivalWaits k a then s
      else
        let gone := fun (s : State) => { s with arrivals := s.arrivals.eraseIdx k }
        if !a.held && a.num ≤ (aget s.hwm ch).getD 0 then (gone s).arrived a
        else
          let s := if a.held then s else { s with hwm := aput s.hwm ch a.num }
          let s := s.walked (a.src / 4) (s.ctxN a.wave.g) a.va
          match s.translate (a.src / 4) (s.ctxN a.wave.g) a.va .write with
          | .error kind =>
            if (s.gridOf a.wave.g).ending then (gone s).arrived a
            else { s with arrivals := s.arrivals.set k { a with held := true } }.postFault a.wave ⟨0x07, (a.src % 4 + 1) * 32 + kind, a.va⟩
          | .ok l =>
            if l.ap then ((gone s).arriveAt { a with pa := l.pa, held := false }).arrived a
            else ((gone s).postFault a.wave ⟨0x05, 0x89, a.va⟩).arrived a)

/-- `LINE_SEAL` (R283, R287, R304): line `k` of a session that is sealing. -/
def execLineSeal (ctx index k : Nat) (s : State) : Out :=
  let e := (s.ctxOf ctx).session index
  .next (if e.state ≠ 2 then s
    else match e.lines[k]? with
      | some l => s.sealLine ctx index l
      | none => s)

/-- A crew of the context is bound. -/
def State.ctxBound (s : State) (ctx : Nat) : Bool := s.crews.any (fun p => s.ctxN p.1.g = ctx && p.2.bound)

/-- Resident frames of a context. -/
def State.residents (s : State) (ctx : Nat) : List (Nat × Frame) := s.frames.filter (fun p => p.2.ctx = ctx && p.2.spilled.isNone)

/-- A wave waits at `aopen` for frames: its release is done, and its context's quota allows its lines (R290, R291, R302). -/
def State.awaitsFrames (s : State) (id : WaveId) : Bool :=
  let s := { s with cur := id }
  let w := s.w
  let ctx := s.ctxN id.g
  !w.exited && w.quiet && !s.ownsDirty && (match w.hold with
    | some ⟨.aopen _ _ a b, _, _⟩ =>
      (match s.openLines (w.wr2 a).toNat (bits (w.ws (BitVec.ofNat 7 b)).toNat 31 20) 0 with
       | .ok ls => !s.overQuota ctx ls.length && s.lacksFrames (ls.map (·.1))
       | .error _ => false)
    | _ => false)

/-- An `aopen` waits for frames (R291). -/
def State.opening (s : State) : Bool := s.waves.any (fun p => s.awaitsFrames p.1)

/-- The context may be spilled: no crew of it is bound, it has resident frames, and none that is unbound longer has (R291). -/
def State.spillable (s : State) (ctx : Nat) : Bool :=
  let idle := fun (c : Nat) => !s.ctxBound c && !(s.residents c).isEmpty
  idle ctx && !s.ctxs.any (fun p => idle p.1 && p.2.unboundAt < (s.ctxOf ctx).unboundAt)

/-- One frame spilled to the lowest free slot of its context's save area (R291, R292). -/
def State.spill (s : State) (ctx ln : Nat) : State :=
  let c := s.ctxOf ctx
  match aget s.frames ln, (List.range c.quota).find? (fun i => !c.slots.contains i) with
  | some f, some i =>
    State.mirrorFrame ({ s with frames := aput s.frames ln { f with spilled := some i } }.setCtx ctx { c with slots := c.slots ++ [i] }) ln
  | _, _ => s

/-- `FRAME_SPILL` (R291). -/
def execFrameSpill (ctx : Nat) (s : State) : Out :=
  .next (if s.opening && s.spillable ctx then (s.residents ctx).foldl (fun s p => s.spill ctx p.1) s else s)

/-- `FRAME_RELOAD` (R291): every spilled frame of a context with a bound crew, when the slices have room. -/
def execFrameReload (ctx : Nat) (s : State) : Out :=
  let out := s.frames.filter (fun p => p.2.ctx = ctx && p.2.spilled.isSome)
  let room := out.all (fun p =>
    (s.frames.filter (fun q => q.2.spilled.isNone && s.sliceOf q.1 = s.sliceOf p.1)).length
      + (out.filter (fun q => s.sliceOf q.1 = s.sliceOf p.1)).length ≤ sliceFrames)
  .next (if s.ctxBound ctx && room && !out.isEmpty then
      { s with frames := s.frames.map (fun (p : Nat × Frame) => if p.2.ctx = ctx then (p.1, { p.2 with spilled := none }) else p) }.setCtx ctx
        { s.ctxOf ctx with slots := [] }
    else s)

/-! ### Local-store images and buckets -/

/-- One dirty line of a crew's local store written to its image's home slice, to which every copy of the image line comes home first (R239,
R403, R408). -/
def State.imageLine (s : State) (c : CrewId) (line : Nat) : State :=
  let x := s.crewOf c
  if x.lsDirty.contains line && 128 * line < x.lsLen then
    let ln := x.image / 128 + line
    let s := ((s.disown ln).recallAll ln [0, 64]).roomSlice (s.sliceOf ln)
    let bs := (s.crewOf c).ls.read (128 * line) 128
    (s.slicePut ln (s.ctxOf (s.ctxN c.g)).tkey (tab 128 (fun i => (i, bs.getD i 0)))).modCrew c (fun x =>
      { x with lsDirty := x.lsDirty.filter (· ≠ line) })
  else s

/-- `LOCAL_IMAGE_WRITEBACK` (R239). -/
def execLocalImageWriteback (g cr line : Nat) (s : State) : Out :=
  .next (if (s.crewOf ⟨g, cr⟩).bound then s.imageLine ⟨g, cr⟩ line else s)

/-- What a directory entry keeps when its bucket moves: ACC, and the host's state, which stands elsewhere in this model (R404). -/
def movedEntry (d : BitVec 48) : BitVec 48 := d &&& 0x00000002000F#48

/-- A slice that holds more lines than it has room for gives up the excess (R228, log 59). -/
def State.trimSlice (s : State) (sl : Nat) : State :=
  let n := (s.llcKey.filter (fun p => s.sliceOf p.1 = sl)).length + (s.sc.filter (fun p => s.copySlice p.1.1 p.1.2 = sl)).length
  (List.range (n - sliceLines)).foldl (fun s _ => s.roomSlice sl) s

/-- `BUCKET_MOVE` (R298, R404): refused while arrivals for the bucket are in flight, or where the new slice lacks frames; otherwise
copies are recalled, the old slice writes its lines of device memory back and drops them, and the table names the new slice; what the device
holds of a host line keeps its bridge state (R405), as far as the new slice has room. -/
def execBucketMove (bucket slice : Nat) (s : State) : Out :=
  let mine := fun ln => bucketOf ln = bucket
  let frames := s.frames.filter (fun p => mine p.1 && p.2.spilled.isNone)
  let room := (s.frames.filter (fun p => p.2.spilled.isNone && s.sliceOf p.1 = slice)).length + frames.length ≤ sliceFrames
  .next (if 4096 ≤ bucket || 192 ≤ slice || s.sliceOfBucket bucket = slice || s.arrivals.any (fun a => mine (a.pa / 128)) || !room then s
    else
      let s := ((s.sc.map (·.1.2)).filter mine).foldl State.recallSC s
      let s := ((s.remoteX.map (·.1)).filter mine).foldl State.recallPeer s
      let s := ((s.llcKey.map (·.1)).filter (fun ln => mine ln && !isSysLine ln)).foldl State.writeBack s
      State.trimSlice { s with
        dirs := (s.dirs.map (fun p => if mine p.1 then (p.1, movedEntry p.2) else p)).filter (fun p => p.2 ≠ 0)
        sliceTab := aput s.sliceTab bucket (false, slice) } slice)

end Sys2Proof.Machine
end

