-- ==== Sys2Proof/Machine/Steward.lean ====
section
/-! DEFINITION. The steward: reading and writing through a context, launch queues and records (R179-R183), binding (R183-R188), pre-emption
(R187, R380-R384) and the end of a grid (R182, R277, R432). -/

namespace Sys2Proof.Machine

/-! ### Memory as the steward and the host see it -/

/-- A translation of the steward's, through a context's tables (R182, R183). -/
def State.ctxLeaf (s : State) (ctx va : Nat) (acc : Access) : Option Leaf :=
  if 2 ^ 49 ≤ va || inAperture va then none
  else match s.walk ctx va with
    | .error _ => none
    | .ok (l, _) => match (s.leafLive l).bind (fun l => l.permits acc) with
      | .error _ => none
      | .ok l => some l

/-- The state that a walk of the steward's leaves (R386, R403, R408). -/
def State.ctxWalked (s : State) (ctx va : Nat) : State :=
  if 2 ^ 49 ≤ va || inAperture va then s else s.walkRead (fun _ => none) ctx va

/-- Bytes of one line at the home; an open line gives its snapshot (R294). -/
def State.homeSee (s : State) (pa n key : Nat) : List Byte :=
  match aget s.frames (pa / 128) with
  | some f => let bs := f.bytes; tab n (fun j => bs.getD (pa % 128 + j) 0)
  | none => s.homeRead pa n key

/-- Bytes at a virtual address of a context, line by line; the first argument bounds the number of lines. -/
def State.ctxReadN (s : State) (ctx : Nat) : Nat → Nat → Nat → Option (List Byte)
  | 0, _, _ => some []
  | k + 1, va, n =>
    if n = 0 then some []
    else
      let m := min n (128 - va % 128)
      match s.ctxLeaf ctx va .load with
      | none => none
      | some l =>
        if s.rangeBad l.pa m then none
        else (s.ctxReadN ctx k (va + m) (n - m)).map (s.homeSee l.pa m l.key ++ ·)

/-- Bytes at a virtual address of a context. -/
def State.ctxRead (s : State) (ctx va n : Nat) : Option (List Byte) := s.ctxReadN ctx (n / 128 + 2) va n

/-- A little-endian number at a virtual address of a context. -/
def State.ctxNum (s : State) (ctx va n : Nat) : Option Nat := (s.ctxRead ctx va n).map leNat

/-- The same for a range of a context, with its walks; lines that it cannot read are left alone. -/
def State.ctxLook (s : State) (ctx va n : Nat) : State :=
  (linesOf va n).foldl (fun s l =>
    let a := max va (128 * l)
    let s := s.ctxWalked ctx a
    match s.ctxLeaf ctx a .load with
    | some x => s.homeLook x.pa (min (va + n) (128 * l + 128) - a) x.key
    | none => s) s

/-- Bytes written by the steward at the home slices, and on to host memory or the owner (R182). -/
def State.stewardWrite (s : State) (pa key : Nat) (bs : List Byte) : State :=
  (linesOf pa bs.length).foldl State.evictSys (s.homeWriteAt pa key bs)

/-- A write by the host: a session of the line is sealed first, marked BROKEN (R283, R294). In a half of the system range the device's own
bytes, those that caches own by atomics among them, go to host memory first, and its hold ends (R253, R409). -/
def State.foreignWrite (s : State) (pa key : Nat) (bs : List Byte) : State :=
  (linesOf pa bs.length).foldl (fun s ln =>
    let part := (List.range bs.length).filterMap (fun i => if (pa + i) / 128 = ln then some ((pa + i) % 128, bs.getD i 0) else none)
    let s := match aget s.frames ln with | some f => s.sealAll f.ctx f.idx true | none => s
    if isSysLine ln then
      let s := s.disown ln
      let s := (halvesOf (part.map (·.1))).foldl (fun s h => (s.halfBack (128 * ln + 64 * h)).markHalf ln [64 * h] 0) s
      { s with sysMem := part.foldl (fun m p => m.set (ln * 128 + p.1) p.2) s.sysMem }
    else s.homeWrite ln key part) s

/-- The host's access reaches a line of device memory: its GiB is open, and the key slot of the window's key id is LIVE (R396, R407). -/
def State.hostOpen (s : State) (pa : Nat) : Bool :=
  pa < deviceEnd && (match aget s.hostWin (pa / 2 ^ 30) with | some k => (s.keyInst (pa / 128) k).isSome | none => false)

/-- Key id of a host access (R407). -/
def State.hostKey (s : State) (pa : Nat) : Nat := winKey s.hostWin (pa / 128)

/-- A CXL.mem request of the host is answered: the data, whether with the error status, and whether poisoned (R407, R410). -/
def State.answer (s : State) (data : List Byte) (error poison : Bool) : State := { s with hostReply := (data, error, poison) :: s.hostReply }

/-- A write by the host to host memory, or through its window to device memory; where the GiB is closed it is discarded with the error status
(R407). -/
def State.hostStore (s : State) (pa : Nat) (bs : List Byte) : State :=
  if !s.portUp then s
  else if isSysLine (pa / 128) then s.foreignWrite pa 0 bs
  else if s.hostOpen pa then s.foreignWrite pa (s.hostKey pa) bs
  else s.answer [] true false

/-- Bytes written by the steward through a context (R182). -/
def State.ctxWrite (s : State) (ctx va : Nat) (bs : List Byte) : Option State :=
  (s.ctxLeaf ctx va .write).map (fun l => (s.ctxWalked ctx va).stewardWrite l.pa l.key bs)

/-! ### Launch records -/

/-- T (R146, R181). -/
def Grid.toksz (g : Grid) : Nat := g.fld 0x12 2
/-- PRIO. -/
def Grid.prio (g : Grid) : Nat := g.fld 0x02 1 % 4
/-- EARLY. -/
def Grid.early (g : Grid) : Bool := bit (g.fld 0x02 2) 4
/-- SIGOUT. -/
def Grid.sigout (g : Grid) : Nat := g.fld 0x28 8
/-- The dependences: signal address and threshold. -/
def Grid.deps (g : Grid) : List (Nat × Nat) := tab (g.fld 0x1C 1) (fun k => (g.fld (0x40 + 16 * k) 8, g.fld (0x48 + 16 * k) 8))
/-- Q of a deterministic grid, else 0. -/
def Grid.quant (g : Grid) : Nat := if g.det then g.fld 0x04 4 else 0
/-- Number of crews (R177). -/
def Grid.total (g : Grid) : Nat := g.spans * g.gangs * g.crews
/-- Local store of a crew: L + W·T (R146). -/
def Grid.lsNeed (g : Grid) : Nat := g.lsLen + g.nWaves * g.toksz

/-- The record alone is malformed (R181, R182). -/
def Grid.malformed (g : Grid) : Bool :=
  g.fld 0x00 2 ≠ 1 || 32 ≤ g.fld 0x02 2 || g.toksz % 32 ≠ 0 || 8192 < g.toksz || 32 < g.fld 0x14 1
    || g.crews = 0 || 4 < g.crews || g.gangs = 0 || 8 < g.gangs || 32 < g.fld 0x17 1 || g.spans = 0 || 2 ^ 20 < g.spans
    || 3 < g.fld 0x1C 1 || g.fld 0x1D 3 ≠ 0 || g.fld 0x78 8 ≠ 0 || g.fld 0x20 8 % 32 ≠ 0 || g.sigout % 8 ≠ 0 || g.fld 0x70 8 % 4 ≠ 0

/-- QUANT does not suit DET, or DET stands without COOP (R181, R182). -/
def Grid.badQuant (g : Grid) : Bool :=
  let q := g.fld 0x04 4
  if g.det then !g.coop || q < 1024 || 65536 < q else q ≠ 0

/-- The defect-map signature of a die (R429). -/
def Die.signature (d : Die) : List Byte :=
  if d.defects.all (· = 0) then List.replicate 32 0 else (Config.shake256 32 (tab 48 (fun i => d.defects.getD i 0))).take 32

/-- Core `cid` is disabled (R429). -/
def State.disabled (s : State) (cid : Nat) : Bool := ((s.dieOf (cid / 96)).defects.getD (cid / 8) 0).getLsbD (cid % 8)

/-- The image header at a virtual address, if it is valid (R34): its bytes. Ranges that overlap, or that run past 2^49, make no header invalid
(log 23). -/
def State.header (s : State) (ctx va : Nat) : Option (List Byte) :=
  match s.ctxRead ctx va 64 with
  | none => none
  | some h =>
    let f := fun (o n : Nat) => leNat ((h.drop o).take n)
    if f 0 4 ≠ 0x484C534B || f 4 2 ≠ 1 || f 6 2 = 0 || 4096 < f 6 2 || f 8 2 = 0 || f 0x0A 6 ≠ 0 || f 0x20 8 % 2 ^ 16 ≠ 0
      || f 0x28 8 % 2 ^ 16 ≠ 0 || f 0x30 8 % 4 ≠ 0 then none
    else some h

/-- The number of the first variant of an image that bears a signature (R35, R188); an entry that the context cannot read bears none
(log 23). -/
def State.variantOf (s : State) (ctx vtab n : Nat) (sig : List Byte) : Option Nat :=
  (List.range n).find? (fun i => s.ctxRead ctx (vtab + 64 * i) 32 == some sig)

/-- The variant that is bound: one with the part's signature, else one whose signature is zero (R188). -/
def State.variant (s : State) (ctx vtab n : Nat) (sig : List Byte) : Option Nat :=
  (s.variantOf ctx vtab n sig).or (s.variantOf ctx vtab n (List.replicate 32 0))

/-- What a kernel-table entry gives a grid (R35, R184): its entry address in the code section, rows, W and local store. The entry is no valid
one where it cannot be read, where REGS is 0 or above 512, or where its other ranges do not hold; a REGS of 1 to 31 is rounded up as any
other, CREW is not looked at where the record gives WAVES, and the entry's reserved bytes are not looked at (log 23). -/
def State.kernel (s : State) (g : Grid) (f : Nat → Nat → Nat) : Option Grid :=
  match s.ctxRead g.ctx (g.fld 0x08 8 + f 0x10 8 + 32 * g.fld 0x10 2) 32 with
  | none => none
  | some k =>
    let e := fun (o n : Nat) => leNat ((k.drop o).take n)
    let regs := e 0x10 2
    let w := if g.fld 0x14 1 = 0 then e 0x12 1 else g.fld 0x14 1
    if regs = 0 || 512 < regs || e 0x08 8 % 4 ≠ 0 || f 0x30 8 ≤ e 0x08 8 || w = 0 || 32 < w || e 0x14 4 % 128 ≠ 0 then none
    else some { g with entry := f 0x20 8 + e 0x08 8, rows := (regs + 31) / 32 * 32, nWaves := w, lsLen := e 0x14 4 }

/-- The largest number of groups, each of `n` distinct places, that places of these capacities can take. -/
def packs (caps : List Nat) (n : Nat) : Nat :=
  (List.range (caps.sum / max 1 n + 1)).foldl (fun m t => if n * t ≤ (caps.map (min t)).sum then max m t else m) 0

/-- Crews of a grid that one empty core holds (R183, R238). -/
def Grid.perCore (g : Grid) : Nat :=
  let m := min (32 / max 1 g.nWaves) (2048 / max 1 (g.nWaves * g.rows))
  let m := if g.lsNeed = 0 then m else min m (262144 / ((g.lsNeed + 127) / 128 * 128))
  if g.lsLen = 0 then m else min m 16

/-- Spans of a grid that the empty device holds (R177, R185). -/
def State.holds (s : State) (g : Grid) : Nat :=
  let core := fun (c : Nat) => if s.disabled c then 0 else g.perCore
  let gang := fun (h : Nat) => packs (tab 4 (fun i => core (4 * h + i))) g.crews
  (tab 12 (fun x => packs (tab 8 (fun i => gang (8 * x + i))) g.gangs)).sum

/-- The checks of a copied record in their order (R182): the STATUS of the first that fails, or the grid with what its image gives. A failing
kernel-table entry counts as an invalid image header; the reserved bytes of a variant entry are not looked at, and an offset in it that the
context cannot read counts as 0 (log 23). -/
def State.vet (s : State) (g : Grid) : Except Nat Grid :=
  if g.malformed then .error 0x0101
  else if g.badQuant then .error 0x0107
  else
    let im := g.fld 0x08 8
    match s.header g.ctx im with
    | none => .error 0x0102
    | some h =>
      let f := fun (o n : Nat) => leNat ((h.drop o).take n)
      if f 6 2 ≤ g.fld 0x10 2 then .error 0x0103
      else match s.kernel g f with
        | none => .error 0x0102
        | some g =>
          let vt := im + f 0x18 8
          match s.variant g.ctx vt (f 8 2) (s.dieOf g.die).signature with
          | none => .error 0x0104
          | some v =>
            let at_ := fun (o : Nat) => im + ((s.ctxNum g.ctx (vt + 64 * v + o) 8).getD 0)
            let g := { g with variant := v, codeAt := at_ 0x20, dataAt := at_ 0x28 }
            if 2048 < g.nWaves * g.rows || 262144 < g.lsNeed then .error 0x0105
            else if g.deps.any (fun d => s.failed.contains (g.ctx, d.1)) then .error 0x0108
            else if g.coop && s.holds g < g.spans then .error 0x0106
            else .ok g

/-- The image's header and tables read for a record's checks. -/
def State.lookImage (s : State) (g : Grid) : State :=
  let im := g.fld 0x08 8
  let s := s.ctxLook g.ctx im 64
  match s.header g.ctx im with
  | none => s
  | some h =>
    let f := fun (o n : Nat) => leNat ((h.drop o).take n)
    (s.ctxLook g.ctx (im + f 0x10 8 + 32 * g.fld 0x10 2) 32).ctxLook g.ctx (im + f 0x18 8) (64 * f 8 2)

/-- A record is copied and checked: its grid waits to be bound, or is refused (R182, R183). -/
def State.admitRecord (s : State) (die ctx : Nat) (queue : Option Nat) (bytes : List Byte) : State :=
  let n := s.nextGrid
  let g : Grid := { ctx := ctx, die := die, queue := queue, lrec := bytes, order := n }
  let s := s.lookImage g
  { s with nextGrid := n + 1 }.setGrid n (match s.vet g with
    | .ok g => g
    | .error st => { g with status := st, ending := true })

/-! ### Launch queues -/

/-- The key id under which a queue in device memory is read: that of the host's window, through which the driver writes it, or the
context's table key where the window is closed (log 24). -/
def State.queueKey (s : State) (ctx pa : Nat) : Nat :=
  match aget s.hostWin (pa / 2 ^ 30) with
  | some k => k
  | none => (s.ctxOf ctx).tkey

/-- A queue of a die. -/
def State.queueOf (s : State) (die q : Nat) : Option LQueue := aget (s.dieOf die).queues q
/-- The state with a queue replaced. -/
def State.setQueue (s : State) (die q : Nat) (x : LQueue) : State := s.modDie die (fun d => { d with queues := aput d.queues q x })

/-- Records from HEAD on are copied in count order, HEAD rising after each (R179). -/
def State.copyRecords (s : State) (die q : Nat) : Nat → State
  | 0 => s
  | n + 1 =>
    match s.queueOf die q with
    | none => s
    | some x =>
      if x.head = x.tail then s
      else
        let at_ := x.ring + 256 * (x.head % x.size)
        let s := s.homeLook at_ 256 (s.queueKey x.ctx at_)
        let bs := s.homeSee at_ 128 (s.queueKey x.ctx at_) ++ s.homeSee (at_ + 128) 128 (s.queueKey x.ctx at_)
        let s := s.admitRecord die x.ctx (some q) bs
        let h := (x.head + 1) % 2 ^ 64
        let s := (s.setQueue die q { x with head := h }).stewardWrite x.headAt (s.queueKey x.ctx x.headAt) (leBytes 8 h)
        s.copyRecords die q n

/-- The steward stops a queue and raises its error interrupt (R179). -/
def State.stopQueue (s : State) (die q : Nat) (x : LQueue) : State :=
  { s.setQueue die q { x with stopped := true } with errIrqs := s.errIrqs ++ [(die, q)] }

/-- The steward looks at a queue's TAIL (R179, R180). -/
def State.serveQueue (s : State) (die q : Nat) : State :=
  match s.queueOf die q with
  | none => s
  | some x =>
    if x.stopped then s
    else
      let s := s.homeLook x.tailAt 8 (s.queueKey x.ctx x.tailAt)
      let t := leNat (s.homeSee x.tailAt 8 (s.queueKey x.ctx x.tailAt))
      if t < x.tail || t < x.head || x.size < t - x.head then s.stopQueue die q x
      else (s.setQueue die q { x with tail := t }).copyRecords die q x.size

/-- The stewards look at every queue whose TAIL has been written since they read it, by whichever agent (R180). -/
def State.serveAll (s : State) : State :=
  (s.dies.flatMap (fun d => d.2.queues.map (fun q => (d.1, q.1, q.2)))).foldl (fun s p =>
    if p.2.2.stopped || leNat (s.homeSee p.2.2.tailAt 8 (s.queueKey p.2.2.ctx p.2.2.tailAt)) = p.2.2.tail then s
    else s.serveQueue p.1 p.2.1) s

/-- A dependence is met (R181, R183). -/
def State.depMet (s : State) (g : Grid) (d : Nat × Nat) : Bool :=
  match s.ctxNum g.ctx d.1 8 with
  | some v => d.2 ≤ v
  | none => false

/-- The dependences of a grid that are not met yet, by number (R183). -/
def Grid.unmet (g : Grid) : List Nat := (List.range g.deps.length).filter (fun i => !g.metDeps.contains i)

/-- The stewards read the dependences that waiting grids have not met (R183). -/
def State.lookDeps (s : State) : State :=
  (s.grids.filter (fun p => !p.2.ending && !p.2.ended)).foldl (fun s p =>
    p.2.unmet.foldl (fun s i =>
      match p.2.deps[i]? with
      | none => s
      | some d =>
        let s := s.ctxLook p.2.ctx d.1 8
        let g := s.gridOf p.1
        if s.depMet g d then s.setGrid p.1 { g with metDeps := g.metDeps ++ [i] } else s) s) s

/-- What the stewards find when they look at the words they keep cached: TAILs and dependences (R180, R183). They look at every event of
theirs and at every write of the host; a write by a wave is found at the next of these (log 24). -/
def State.look (s : State) : State := s.serveAll.lookDeps

/-- `LAUNCH_QUEUE_REGISTER` (R179, R428): one of 16 queues of a booted die. A registration that R179 does not allow changes nothing (log 24). -/
def execLaunchQueueRegister (die q ctx ring size headAt tailAt : Nat) (s : State) : Out :=
  let pow := (List.range 17).any (fun k => 1 ≤ k && size = 2 ^ k)
  .next (if 16 ≤ q || !s.portUp || !(s.dieOf die).booted || !pow || ring % 256 ≠ 0 || headAt % 64 ≠ 0 || tailAt % 64 ≠ 0 || headAt = tailAt
      || (aget s.ctxs ctx).isNone then s
    else
      let s := s.homeLook headAt 8 (s.queueKey ctx headAt)
      let h := leNat (s.homeSee headAt 8 (s.queueKey ctx headAt))
      (s.setQueue die q { ctx := ctx, ring := ring, size := size, headAt := headAt, tailAt := tailAt, head := h, tail := h }).serveQueue die q)

/-- `TAIL_WRITE` (R180, R407): the host writes TAIL, and the steward wakes. -/
def execTailWrite (die q value : Nat) (s : State) : Out :=
  .next (match s.queueOf die q with
    | none => s
    | some x => (s.hostStore x.tailAt (leBytes 8 value)).look)

/-- `DEVICE_QUEUE_RECORD` (R192): the steward of a die takes the oldest posted record. -/
def execDeviceQueueRecord (die : Nat) (s : State) : Out :=
  .next (match (s.dieOf die).devq with
    | [] => s.look
    | (ctx, bs) :: rest => ((s.modDie die (fun d => { d with devq := rest })).admitRecord die ctx none bs).look)

/-- `DEPENDENCE_SIGNAL_WRITE` (R183, R407): the host writes the signal word of a dependence, and the steward reads it. -/
def execDependenceSignalWrite (g dep value : Nat) (s : State) : Out :=
  let x := s.gridOf g
  .next (match x.deps[dep]? with
    | none => s
    | some d => match s.ctxLeaf x.ctx d.1 .load with
      | none => s
      | some l => (s.hostStore l.pa (leBytes 8 value)).look)

/-! ### Binding -/

/-- The grid may be bound: it is EARLY, or each of its dependences has been met (R183). -/
def Grid.eligible (g : Grid) : Bool := !g.ending && !g.ended && (g.early || g.unmet.isEmpty)

/-- The next crew to bind (R183): the lowest that is saved or was never bound. -/
def Grid.next (g : Grid) : Option Nat :=
  (g.saved ++ (if g.nextCrew < g.total then [g.nextCrew] else [])).foldl (fun m n =>
    match m with | none => some n | some k => some (min k n)) none

/-- Where a crew is bound: core, first wave slot, first row, local-store base and image (R184). -/
structure Spot where
  core : Nat
  slot : Nat
  row : Nat
  lsBase : Nat
  image : Nat
  deriving DecidableEq, Repr

/-- The crews resident on a core. -/
def State.residentOn (s : State) (core : Nat) : List (CrewId × Crew) := s.crews.filter (fun p => p.2.bound && p.2.core = core)

/-- A run of `n` from `a` meets none of the runs in a list. -/
def clear_ (runs : List (Nat × Nat)) (a n : Nat) : Bool := runs.all (fun r => r.2 = 0 || n = 0 || a + n ≤ r.1 || r.1 + r.2 ≤ a)

/-- The waves whose slot and rows on a core are not free: those of its crews that have not exited, and those that have and whose commit
buffer is not yet performed (R127). -/
def State.keeping (s : State) (core : Nat) : List (WaveId × Wave) :=
  s.waves.filter (fun p => p.2.core = core && !(p.2.exited && p.2.buf.isEmpty)
    && (let x := s.crewOf (s.crewId p.1); x.bound || x.ended))

/-- Wave slots, rows and local-store bytes that are held on a core. -/
def State.runs (s : State) (core : Nat) : List (Nat × Nat) × List (Nat × Nat) × List (Nat × Nat) :=
  let ws := s.keeping core
  (ws.map (fun p => (p.2.slot, 1)),
   ws.map (fun p => let x := s.crewOf (s.crewId p.1); (x.firstRow + (p.2.slot - x.firstSlot) * p.2.alloc, p.2.alloc)),
   (s.residentOn core).map (fun p => (p.2.lsBase, p.2.lsLen + p.2.waves * p.2.tokLen)))

/-- Bytes of a crew's image (R239). -/
def imageSize (lsLen : Nat) : Nat := (lsLen + 65535) / 65536 * 65536

/-- The frame slots of a context's save area (R290, R291). -/
def Ctx.slotArea (c : Ctx) : Nat × Nat := (c.saveArea, 768 * c.quota)

/-- Where no image of a crew may stand: in the images of the crews that have not ended, below the end of the frame slots of its context's save area,
after which its images stand, or in the frame slots of another context (R239, log 25). -/
def State.images (s : State) (c : CrewId) : List (Nat × Nat) :=
  let own := (s.ctxOf (s.ctxN c.g)).slotArea
  (s.crews.filter (fun p => p.1 ≠ c && !p.2.ended && p.2.lsLen ≠ 0)).map (fun p => (p.2.image, imageSize p.2.lsLen))
    ++ (0, own.1 + own.2) :: s.ctxs.map (fun p => p.2.slotArea)

/-- R177 permits a crew on a core, beside the crews of its gang and span bound before. -/
def State.permitted (s : State) (c : CrewId) (core : Nat) : Bool :=
  let g := s.gridOf c.g
  let gang := fun (n : Nat) => n / max 1 g.crews
  let span := fun (n : Nat) => gang n / max 1 g.gangs
  s.crews.all (fun p =>
    p.1.g ≠ c.g || p.1 = c || span p.1.n ≠ span c.n ||
      (if gang p.1.n = gang c.n then gangOf p.2.core = gangOf core && (p.2.core ≠ core || !(p.2.bound || p.2.ended))
       else sectorOf p.2.core = sectorOf core && gangOf p.2.core ≠ gangOf core))
  && (match aget s.crews c with | some x => gangOf x.core = gangOf core | none => true)

/-- A crew fits at a spot (R177, R183, R184, R238, R239, R429). -/
def State.fits (s : State) (c : CrewId) (p : Spot) : Bool :=
  let g := s.gridOf c.g
  let r := s.runs p.core
  p.core < 384 && (s.dieOf (p.core / 96)).booted && !s.disabled p.core && !(s.coreOf p.core).halted && s.permitted c p.core
    && p.slot + g.nWaves ≤ 32 && clear_ r.1 p.slot g.nWaves
    && p.row + g.nWaves * g.rows ≤ 2048 && clear_ r.2.1 p.row (g.nWaves * g.rows)
    && p.lsBase + g.lsNeed ≤ 262144 && p.lsBase % 128 = 0 && clear_ r.2.2 p.lsBase g.lsNeed
    && (g.lsLen = 0 || ((s.coreOf p.core).map.length < 16 && p.image % 65536 = 0 && p.image + imageSize g.lsLen ≤ deviceEnd
          && clear_ (s.images c) p.image (imageSize g.lsLen)))

/-- The lowest start of a free run among runs that are held, at a multiple of `al`. -/
def gap (runs : List (Nat × Nat)) (n limit al : Nat) : Option Nat :=
  let ends := 0 :: runs.map (fun r => (r.1 + r.2 + al - 1) / al * al)
  (ends.filter (fun a => a + n ≤ limit && clear_ runs a n)).foldl (fun m a => match m with | none => some a | some b => some (min a b)) none

/-- The first spot for a crew on a core; its image takes the lowest multiple of 64 KiB that is clear of the other images (log 25). -/
def State.spotOn (s : State) (c : CrewId) (core : Nat) : Option Spot :=
  let g := s.gridOf c.g
  let r := s.runs core
  match gap r.1 g.nWaves 32 1, gap r.2.1 (g.nWaves * g.rows) 2048 1, gap r.2.2 g.lsNeed 262144 128,
      gap (s.images c) (imageSize g.lsLen) deviceEnd 65536 with
  | some a, some b, some d, some e =>
    let p : Spot := ⟨core, a, b, d, match aget s.crews c with | some x => x.image | none => e⟩
    if s.fits c p then some p else none
  | _, _, _, _ => none

/-- The starts of a free run at the edges of what is free: those that leave the most of it in one piece. -/
def edges (runs : List (Nat × Nat)) (n limit al : Nat) : List Nat :=
  ((0 :: runs.map (fun r => (r.1 + r.2 + al - 1) / al * al)) ++ ((limit :: runs.map (·.1)).filter (n ≤ ·)).map (fun a => (a - n) / al * al)).eraseDups.filter
    (fun a => a + n ≤ limit && clear_ runs a n)

/-- The spots for a crew on a core that matter for what else fits there: each of its runs at an edge of what is free. -/
def State.spotsOn (s : State) (c : CrewId) (core : Nat) : List Spot :=
  let g := s.gridOf c.g
  let r := s.runs core
  match s.spotOn c core with
  | none => []
  | some p => (edges r.1 g.nWaves 32 1).flatMap (fun a => (edges r.2.1 (g.nWaves * g.rows) 2048 1).flatMap (fun b =>
      (edges r.2.2 g.lsNeed 262144 128).flatMap (fun d => (edges (s.images c) (imageSize g.lsLen) deviceEnd 65536).map (fun e =>
        { p with slot := a, row := b, lsBase := d, image := match aget s.crews c with | some x => x.image | none => e }))))

/-- Some core can take a crew. -/
def State.canTake (s : State) (c : CrewId) : Bool := (List.range 384).any (fun k => (s.spotOn c k).isSome)

/-- A wave of a new crew (R6, R7, R184); of TVEC the register keeps 49 bits (R131), and PC takes the low 49 bits of the kernel's entry
(log 23). -/
def newWave (g : Grid) (core slot wid age : Nat) : Wave :=
  let args := tab 64 (fun i => if i < g.fld 0x17 1 then BitVec.ofNat 32 (g.fld (0x80 + 4 * i) 4)
    else if 61 ≤ i then BitVec.ofNat 32 (g.fld (0x34 + 4 * (i - 61)) 4) else 0)
  let zeros := List.replicate 8 zeroRow
  { pc := BitVec.ofNat 49 g.entry, alloc := g.rows, v := List.replicate g.rows zeroRow, w := args, fsr := zeroRow, q := zeros, qSaved := zeros
    tvecl := BitVec.ofNat 32 (g.fld 0x70 4), tvech := BitVec.ofNat 32 (g.fld 0x74 4 % 2 ^ 17), age := age, core := core, slot := slot
    wid := wid, quant := g.quant }

/-- The waves of a crew that may run enter its core's active set in age order while it holds fewer than 8 (R190). -/
def State.enlist (s : State) (ids : List WaveId) : State :=
  ids.foldl (fun s i =>
    let w := s.wv i
    if w.exited || w.stopped.isSome || 8 ≤ ((s.onCore w.core).filter (fun j => (s.wv j).active)).length then s else s.activate i) s

/-- The names of a crew's waves, in slot order (R178). -/
def Grid.waveIds (g : Grid) (c : CrewId) : List WaveId := tab g.nWaves (fun k => ⟨c.g, g.nWaves * c.n + k⟩)

/-- Matrix commands that a halt stopped: the oldest `mma` or `mmaf` of each live wave waits to regain leave, if none stands in a list before
them (R326, R384); a `scacc` needs none (R321). -/
def State.mark (s : State) (before cmds : List MatCmd) : List MatCmd :=
  let needs := fun (c : MatCmd) => !c.over && !mmScacc c.minor
  (List.range cmds.length).filterMap (fun i => cmds[i]?.map (fun c =>
    { c with relv := needs c && !(s.wv c.wave).exited && !(before ++ cmds.take i).any (fun e => e.wave = c.wave && needs e) }))

/-- The engine asks for leave for the commands that wait to regain it. -/
def State.regain (s : State) (cmds : List MatCmd) : State :=
  (cmds.filter (·.relv)).foldl (fun s c => s.askEngine c.wave (mmClass c.minor)) s

/-- A crew never bound is bound at a spot: its bind record and its waves, whose start is an acquire (R184, R190, R263). -/
def State.bindNew (s : State) (c : CrewId) (p : Spot) : State :=
  let s := s.acquire p.core 4
  let g := s.gridOf c.g
  let age := (s.coreOf p.core).nextAge
  let ids := g.waveIds c
  let x : Crew := {
    bars := ⟨0, false, 0, g.nWaves, 0⟩ :: List.replicate 15 ⟨0, false, 0, 0, 0⟩
    streams := List.replicate 4 ⟨0, []⟩
    views := List.replicate 16 View.none_, wsets := List.replicate 8 WSet.unit
    core := p.core, waves := g.nWaves, lsLen := g.lsLen, tokLen := g.toksz, lsBase := p.lsBase, firstSlot := p.slot, firstRow := p.row
    image := p.image, bound := true, order := s.nextUid, lsDirty := List.range (g.lsLen / 128) }
  let s := (List.range g.nWaves).foldl (fun s k => s.setWv ⟨c.g, g.nWaves * c.n + k⟩
    (newWave g p.core (p.slot + k) (g.nWaves * c.n + k) (age + k))) s
  let s := { s with nextUid := s.nextUid + 1 }.setCrew c x
  let s := s.setGrid c.g { g with nextCrew := c.n + 1, fsSeen := if c.n = 0 then s.fsSnapshot g.ctx else g.fsSeen }
  s.enlist ids

/-- The image of a saved crew is read back into its local store, with the errors that stand in it (R240, R379). -/
def State.readImage (s : State) (c : CrewId) : State :=
  let x := s.crewOf c
  let s := s.homeLook x.image x.lsLen (s.ctxOf (s.ctxN c.g)).tkey
  let mine := fun (a : Nat) => x.image ≤ a && a < x.image + x.lsLen
  State.modCrew { s with bad := s.bad.filter (fun a => !mine a) } c (fun x => { x with
    ls := x.ls.write 0 (s.homeRead x.image x.lsLen (s.ctxOf (s.ctxN c.g)).tkey), lsDirty := []
    lsBad := x.lsBad.filter (x.lsLen ≤ ·) ++ (s.bad.filter mine).map (· - x.image) })

/-- A saved crew is bound again: its waves go on from what was saved, after an acquire of their core (R278, R384), with its image read back
(R240). Its matrix commands enter the core's queue as that has room (R327). -/
def State.bindSaved (s : State) (c : CrewId) (p : Spot) : State :=
  let g := s.gridOf c.g
  let s := s.readImage c
  let x := s.crewOf c
  let age := (s.coreOf p.core).nextAge
  let k := s.coreOf p.core
  let ids := g.waveIds c
  let s := (List.range g.nWaves).foldl (fun s i => s.modWv ⟨c.g, g.nWaves * c.n + i⟩ (fun w =>
    { w with core := p.core, slot := p.slot + i, age := age + i,
             hold := w.hold.map (fun h => { h with since := k.clock }) })) s
  let cmds := s.mark [] x.cmds
  let s := { s with nextUid := s.nextUid + 1 }.setCrew c { x with
    core := p.core, lsBase := p.lsBase, firstSlot := p.slot, firstRow := p.row, bound := true, order := s.nextUid, cmds := cmds }
  let s := s.setGrid c.g { g with saved := g.saved.filter (· ≠ c.n) }
  (((s.acquire p.core 4).regain cmds).refill p.core).enlist ids

/-- A crew is bound at a spot. -/
def State.bindAt (s : State) (c : CrewId) (p : Spot) : State :=
  let g := s.gridOf c.g
  let p := match aget s.crews c with | some x => { p with image := x.image } | none => p
  let e : MapEntry := ⟨1, c.n % max 1 g.crews, g.lsLen / 128, p.lsBase / 128, p.image / 65536, c⟩
  let s := s.setGrid c.g { g with cores := if g.cores.contains p.core then g.cores else g.cores ++ [p.core] }
  let s := if g.saved.contains c.n then s.bindSaved c p else s.bindNew c p
  s.modCore p.core (fun k => { k with nextAge := k.nextAge + g.nWaves, map := if g.lsLen = 0 then k.map else k.map ++ [e] })

/-- How many runs of `n` find room one after another; the last argument bounds them. -/
def fitCount (runs : List (Nat × Nat)) (n limit al : Nat) : Nat → Nat
  | 0 => 0
  | k + 1 => match gap runs n limit al with
    | none => 0
    | some a => 1 + fitCount ((a, n) :: runs) n limit al k

/-- How many crews of a grid a core can take now, whatever R177 says of their cores (R183, R238). -/
def State.capacity (s : State) (g : Grid) (core : Nat) : Nat :=
  if 384 ≤ core || !(s.dieOf (core / 96)).booted || s.disabled core || (s.coreOf core).halted then 0
  else
    let r := s.runs core
    let m := min (fitCount r.1 g.nWaves 32 1 32) (min (fitCount r.2.1 (g.nWaves * g.rows) 2048 1 32) (fitCount r.2.2 g.lsNeed 262144 128 32))
    if g.lsLen = 0 then m else min m (16 - (s.coreOf core).map.length)

/-- `t` groups of `n` distinct places each, for `t` up to `packs caps n`: the uses of the places stand in a row, those of one place beside each
other and at most `t`, and a group takes every t-th. -/
def groups (caps : List Nat) (n t : Nat) : List (List Nat) :=
  let row := (List.range caps.length).flatMap (fun i => List.replicate (min (caps.getD i 0) t) i)
  tab t (fun j => tab n (fun k => row.getD (j + k * t) 0))

/-- The cores on which a sector can take spans of a grid now, span by span, each in crew order (R177, R178). -/
def State.sectorPlan (s : State) (g : Grid) (x : Nat) : List (List Nat) :=
  let caps := tab 8 (fun h => tab 4 (fun i => s.capacity g (32 * x + 4 * h + i)))
  let gangs := tab 8 (fun h => groups (caps.getD h []) g.crews (packs (caps.getD h []) g.crews))
  let spans := groups (gangs.map (·.length)) g.gangs (packs (gangs.map (·.length)) g.gangs)
  tab spans.length (fun j => (spans.getD j []).flatMap (fun h =>
    let before := (spans.take j).foldl (fun n sp => n + sp.count h) 0
    ((gangs.getD h []).getD before []).map (fun i => 32 * x + 4 * h + i)))

/-- A placement of a whole cooperative grid, when the device has room for one: the core of each crew (R185). -/
def State.plan (s : State) (g : Grid) : Option (List Nat) :=
  let spans := (List.range 12).flatMap (s.sectorPlan g)
  if spans.length < g.spans then none else some (spans.take g.spans).flatten

/-- The crews still unbound of a grid bound one after another on given cores, each at its first spot; none where one has no spot. -/
def State.bindOn (s : State) (g : Nat) : List Nat → Option State
  | [] => some s
  | k :: ks =>
    match (s.gridOf g).next with
    | none => some s
    | some n => match s.spotOn ⟨g, n⟩ k with
      | none => none
      | some p => (s.bindAt ⟨g, n⟩ p).bindOn g ks

/-- The crews still unbound of a cooperative grid bound together (R185): on cores of a free choice, or, where those do not do, each on the
first core that takes it (log 25). -/
def State.bindRest (s : State) (g : Nat) : Option State :=
  let x := s.gridOf g
  let left := x.saved.length + (x.total - x.nextCrew)
  match s.bindOn g (tab (min left 12288) (fun i => Config.placing (s.nextUid + i) % 384)) with
  | some t => if (t.gridOf g).next.isNone then some t else none
  | none =>
    (List.range (min left 12288)).foldl (fun m _ => match m with
      | none => none
      | some t => match (t.gridOf g).next with
        | none => some t
        | some n => ((List.range 384).findSome? (t.spotOn ⟨g, n⟩)).map (t.bindAt ⟨g, n⟩)) (some s)

/-- A cooperative grid never bound, bound whole by the placement that `plan` finds (R185). -/
def State.bindWhole (s : State) (g : Nat) : Option State :=
  (s.plan (s.gridOf g)).bind (s.bindOn g)

/-- The next crew of a grid, and for a cooperative grid every crew, bound from a spot on. Where no placement of a cooperative grid that has
begun there is found, the steward takes one that `plan` finds (log 25). -/
def State.bindFrom (s : State) (g n : Nat) (p : Spot) : Option State :=
  if !s.fits ⟨g, n⟩ p then none
  else
    let x := s.gridOf g
    let t := s.bindAt ⟨g, n⟩ p
    if !x.coop then some t
    else (t.bindRest g).or (if x.nextCrew = 0 then s.bindWhole g else none)

/-- Grid `p` is a producer of another grid (R186): one of the same context, in which both addresses are virtual (log 25). -/
def Grid.feeds (p h : Grid) : Bool := p.ctx = h.ctx && p.sigout ≠ 0 && !h.ending && !h.ended && h.deps.any (fun d => d.1 = p.sigout)

/-- The producers that have unbound crews (R186): handle and next crew, the one for which room is looked for (log 25). -/
def State.producers (s : State) : List (Nat × Nat) :=
  s.grids.filterMap (fun p =>
    if p.2.ending || p.2.ended || !(s.grids.any (fun h => p.2.feeds h.2)) then none else p.2.next.map (fun n => (p.1, n)))

/-- Every producer but one grid that has unbound crews can still fit one (R186). -/
def State.reserved (s : State) (g : Nat) : Bool := s.producers.all (fun p => p.1 = g || s.canTake ⟨p.1, p.2⟩)

/-- The next `k` crews of a grid can be bound one after another, the producer reserve kept then (R185, R186): a search over every placement. -/
def State.canBind (s : State) (g : Nat) : Nat → Bool
  | 0 => s.reserved g
  | k + 1 => match (s.gridOf g).next with
    | none => s.reserved g
    | some n => (List.range 384).any (fun c => (s.spotsOn ⟨g, n⟩ c).any (fun p => (s.bindAt ⟨g, n⟩ p).canBind g k))

/-- A grid can be bound, or its next crew, somewhere now, under the producer reserve (R183, R185, R186). -/
def State.couldBind (s : State) (g : Nat) : Bool :=
  let x := s.gridOf g
  x.eligible && (match x.next with
    | none => false
    | some _ =>
      if !x.coop then s.canBind g 1
      else if x.nextCrew = 0 then (match s.bindWhole g with | some t => t.reserved g || s.canBind g x.total | none => false)
      else s.canBind g (x.saved.length + (x.total - x.nextCrew)))

/-- A grid comes before another in the order of binding (R183). -/
def Grid.before (a b : Grid) : Bool := b.prio < a.prio || (a.prio = b.prio && a.order < b.order)

/-- `BIND_CREW` (R183-R186): the next crew of an eligible grid is bound at a spot, where no grid before it could be bound, and the producer
reserve is kept. -/
def execBindCrew (g cr core slot row lsBase image : Nat) (s : State) : Out :=
  let s := s.look
  let x := s.gridOf g
  let p : Spot := ⟨core, slot, row, lsBase, match aget s.crews ⟨g, cr⟩ with | some c => c.image | none => image⟩
  .next (if !x.eligible || x.next ≠ some cr || s.grids.any (fun h => h.2.before x && s.couldBind h.1) then s
    else match s.bindFrom g cr p with
      | none => s
      | some t => if t.reserved g then t else s)

/-! ### Pre-emption -/

/-- Every live wave of a crew waits at a `dwait` (R187). -/
def State.parked (s : State) (c : CrewId) : Bool :=
  let ws := s.liveCrew c
  !ws.isEmpty && ws.all (fun i => match (s.wv i).hold with
    | some h => (match h.op with | .dwait a b => ({ s with cur := i }.tryDwait a b).isNone | _ => false)
    | none => false)

/-- The state as it will be once the crews chosen for pre-emption are saved. -/
def State.without (s : State) : State :=
  { s with crews := s.crews.map (fun (p : CrewId × Crew) => if s.preempting.contains p.1 then (p.1, { p.2 with bound := false }) else p),
           cores := s.cores.map (fun (p : Nat × Core) => (p.1, { p.2 with map := p.2.map.filter (fun e => !s.preempting.contains e.crew) })) }

/-- The most recently bound of the crews that satisfy a condition and are not chosen yet (R187). -/
def State.latest (s : State) (ok : CrewId → Crew → Bool) : Option CrewId :=
  ((s.crews.filter (fun p => p.2.bound && !s.preempting.contains p.1 && ok p.1 p.2)).foldl (fun m p =>
    match m with
    | none => some p
    | some q => if q.2.order < p.2.order then some p else some q) (none : Option (CrewId × Crew))).map (·.1)

/-- The crew that the steward may pre-empt next (R187): a parked crew of a consumer of a starved producer, or, for a grid of class 3 whose
next crew fits no core, a crew of the lowest class below 3 that is bound. -/
def State.victim (s : State) (c : CrewId) : Bool :=
  let t := s.without
  let starved := s.producers.filter (fun p => !t.canTake ⟨p.1, p.2⟩)
  let forProducer := starved.any (fun p => s.latest (fun k _ => (s.gridOf p.1).feeds (s.gridOf k.g) && s.parked k) = some c)
  let urgent := s.grids.any (fun p => p.2.prio = 3 && p.2.eligible && (match p.2.next with | some n => !t.canTake ⟨p.1, n⟩ | none => false))
  let low := (s.crews.filter (fun p => p.2.bound && !s.preempting.contains p.1)).foldl (fun m p => min m (s.gridOf p.1.g).prio) 3
  forProducer || (urgent && low < 3 && s.latest (fun k _ => (s.gridOf k.g).prio = low) = some c)

/-- `PARKED_CREW_PREEMPTION` (R187): the steward chooses a crew for pre-emption. -/
def execParkedCrewPreemption (g cr : Nat) (s : State) : Out :=
  .next (if s.cores.any (·.2.halted) || !s.victim ⟨g, cr⟩ then s else { s with preempting := s.preempting ++ [⟨g, cr⟩] })

/-- For each flight of a wave, whether it is performed before a halt: every store, and what a store must come after (R247, R381). -/
def mustDrain : List Flight → List Bool
  | [] => []
  | f :: fs =>
    let r := mustDrain fs
    (f.stores || (fs.zip r).any (fun p => p.2 && f.before p.1)) :: r

/-- The flights of a wave from the k-th on that are performed before a halt, oldest first (R381); the last argument bounds them. -/
def State.drainFrom (s : State) (id : WaveId) (k : Nat) : Nat → State
  | 0 => s
  | n + 1 =>
    let fl := (s.wv id).inflight
    if (mustDrain fl).getD k false then
      let t := s.performFlight id (fun _ => true) k
      t.drainFrom id (if (t.wv id).inflight.length < fl.length then k else k + 1) n
    else s.drainFrom id (k + 1) n

/-- Leave of a wave lapses, and its request is withdrawn (R138, R383); an `mma` that waits for it is left to issue again (R381). -/
def State.lapse (s : State) (id : WaveId) : State :=
  (s.modSector (sectorOf (s.wv id).core) (fun x => { x with reqs := x.reqs.filter (fun p => p.1 ≠ id) })).modWv id (fun w =>
    { w.dropLeave with hold := w.hold.bind (fun h => match h.op with | .mma _ => none | _ => some h) })

/-- `PREEMPTION_REQUEST` (R380, R381): every core of the device halts, issued stores are performed, and the leave of every wave lapses (R138,
log 12). The crews are ones chosen under R187. A wave that waits at `fcall` on a crew that is not saved keeps the searches answered to it, where R215
does not say whether they are made afresh (log 12). -/
def execPreemptionRequest (crews : List (Nat × Nat)) (s : State) : Out :=
  let cs := (crews.map (fun p => CrewId.mk p.1 p.2)).filter (fun c => s.preempting.contains c && (s.crewOf c).bound)
  .next (if cs.isEmpty || s.cores.any (·.2.halted) then s
    else
      let s := (s.waves.filter (fun p => !p.2.inflight.isEmpty && s.goes p.1)).foldl (fun s p => s.drainFrom p.1 0 p.2.inflight.length) s
      let s := { s with preempting := cs, cores := tab 384 (fun k => (k, { s.coreOf k with halted := true })) }
      (s.waves.map (·.1)).foldl State.lapse s)

/-- A wave as its crew is saved (R381-R383): out of the active set, its searches abandoned. -/
def Wave.saved (w : Wave) : Wave := { w with active := false, search := none }

/-- The cores resume after the last save: matrix commands that wait in their queues, or for room in one, regain leave (R326, R380). -/
def State.resume (s : State) : State :=
  let cores := s.cores.map (fun (p : Nat × Core) => if p.2.halted then (p.1, { p.2 with halted := false, mq := s.mark [] p.2.mq }) else p)
  let queue := fun (n : Nat) => ((aget cores n).getD {}).mq
  let crews := s.crews.map (fun (p : CrewId × Crew) =>
    if p.2.bound && !p.2.cmds.isEmpty then (p.1, { p.2 with cmds := s.mark (queue p.2.core) p.2.cmds }) else p)
  State.regain { s with cores := cores, crews := crews } (cores.flatMap (·.2.mq) ++ (crews.filter (·.2.bound)).flatMap (·.2.cmds))

/-- What a save writes down of a crew: every dirty line of its core at scope `sy`, whatever its page has become (R231, R278), and its image, with
the errors that stand in its local store (R239, R379). -/
def State.saveDown (s : State) (c : CrewId) : State :=
  let s := s.writeAll (s.crewOf c).core 4
  let s := (s.crewOf c).lsDirty.foldl (fun s l => s.imageLine c l) s
  let x := s.crewOf c
  { s with bad := s.bad ++ ((x.lsBad.filter (· < x.lsLen)).map (x.image + ·)).filter (fun a => !s.bad.contains a) }

/-- A crew leaves its core, its waves and its matrix commands saved (R383). -/
def State.unbind (s : State) (c : CrewId) : State :=
  let x := s.crewOf c
  let mine := fun (m : MatCmd) => s.crewId m.wave = c
  let s' := s.modCore x.core (fun k => { k with mq := k.mq.filter (fun m => !mine m), map := k.map.filter (fun e => e.crew ≠ c) })
  let s' := (s.liveCrew c).foldl (fun s i => s.modWv i Wave.saved) s'
  let s' := (s'.modCrew c (fun x => { x with bound := false, cmds := (s.coreOf x.core).mq.filter mine ++ x.cmds })).stampCtx c.g
  s'.setGrid c.g { s'.gridOf c.g with saved := (s'.gridOf c.g).saved ++ [c.n] }

/-- `CREW_SAVE` (R240, R278, R383): a crew named by the request is saved, as a `fence.sy.mem` of its waves, once the owners of what it wrote have
acknowledged; after the last crew the cores resume. -/
def execCrewSave (g cr : Nat) (s : State) : Out :=
  let c : CrewId := ⟨g, cr⟩
  .next (if !s.preempting.contains c || !(s.coreOf (s.crewOf c).core).halted then s
    else
      let bound := (s.crewOf c).bound
      let s := if bound then s.saveDown c else s
      if bound && s.unacked then s
      else
        let s := if bound then s.unbind c else s
        let left := s.preempting.filter (· ≠ c)
        let s := { s with preempting := left }
        if left.isEmpty then s.resume else s)

/-! ### The end of a grid -/

/-- Work that a grid has issued is not complete (R182, R277). -/
def State.busy (s : State) (g : Nat) : Bool :=
  s.waves.any (fun p => p.1.g = g && (!p.2.inflight.isEmpty || !p.2.buf.isEmpty))
    || s.cores.any (fun p => p.2.mq.any (fun m => m.wave.g = g))
    || s.crews.any (fun p => p.1.g = g && (!p.2.xfers.isEmpty || !p.2.cmds.isEmpty))
    || s.posted.any (fun a => a.wave.g = g) || s.fsOps.any (fun o => o.wave.g = g)

/-- Every wave of a grid has exited, or the grid was refused or terminated (R182). -/
def State.over (s : State) (g : Nat) : Bool :=
  let x := s.gridOf g
  (s.live g).isEmpty && (x.ending || (x.saved.isEmpty && x.nextCrew = x.total))

/-- Every dirty byte in the L1 and the L2 of a core goes down to the home slice, whatever its page has become (R277). -/
def State.settleCore (s : State) (core : Nat) : State :=
  let s := ((s.coreOf core).l1.map (·.1)).foldl (fun s ln => s.down core ln 3) s
  ((s.l2.filter (fun p => p.1.1 = gangOf core)).map (·.1.2)).foldl (fun s ln => s.downL2 core ln 3) s

/-- The same for every core that ran a grid's crews, for the exclusive copies of their sectors, and on to host memory and to the owners of windows
(R269, R277). -/
def State.settleGrid (s : State) (g : Nat) : State :=
  let cores := (s.gridOf g).cores
  let s := cores.foldl State.settleCore s
  let mine := fun (sec : Nat) (c : CLine) => (cores.map sectorOf).contains sec && !c.dirt.isEmpty
  let s := ((s.sc.filter (fun p => mine p.1.1 p.2)).map (·.1.2)).foldl (fun s ln => s.recallSC' ln mine) s
  (s.llcKey.map (·.1)).foldl State.evictSys s

/-- Every session that a grid opened without KEEP and that is still OPEN is sealed (R277, R299). -/
def State.sealGrid (s : State) (g : Nat) : State :=
  let ctx := s.ctxN g
  ((s.ctxOf ctx).sessions.filter (fun p => p.2.opener = g && p.2.state = 1 && !bit p.2.ctrl 6)).foldl (fun s p => s.sealAll ctx p.1 false) s

/-- The 32 bytes of a completion record (R182). -/
def Grid.completion (x : Grid) : List Byte :=
  leBytes 4 x.status ++ leBytes 4 x.cause.toNat ++ leBytes 8 x.tpc ++ leBytes 4 x.wid ++ List.replicate 12 0

/-- The signal of a grid is added to its word, or could not be: an atomic of scope `sy`, so what caches hold of the line comes home first
(R182, R253, R268); one in a peer's window is performed at its owner (R412). -/
def State.signal (s : State) (x : Grid) : Option State :=
  let inc := x.fld 0x30 4
  let cleared := fun (s : State) => { s with failed := s.failed.filter (· ≠ (x.ctx, x.sigout)) }
  if x.sigout = 0 then some s
  else match s.ctxLeaf x.ctx x.sigout .load, s.ctxLeaf x.ctx x.sigout .write with
    | some l, some _ =>
      let s := (s.ctxWalked x.ctx x.sigout).flushLine (l.pa / 128)
      match windowOf l.pa with
      | some d => some (cleared (((s.writeBack (l.pa / 128)).markHalf (l.pa / 128) [0] 0).sendTxn d (8 + 1) (l.pa % 2 ^ 44) (leBytes 8 inc ++ leBytes 8 0)))
      | none => match s.ctxNum x.ctx x.sigout 8 with
        | none => none
        | some v => (s.ctxWrite x.ctx x.sigout (leBytes 8 (v + inc))).map cleared
    | _, _ => none

/-- A grid ends with a nonzero STATUS, or without its record or signal: its SIGOUT is marked failed, and its dependents end with 0x0108
(R182). -/
def State.failGrid (s : State) (g : Nat) : State :=
  let x := s.gridOf g
  if x.sigout = 0 then s
  else
    let key := (x.ctx, x.sigout)
    let s := { s with failed := if s.failed.contains key then s.failed else s.failed ++ [key] }
    (s.grids.filter (fun p => p.1 ≠ g && x.feeds p.2)).foldl (fun s p => s.terminate p.1 0x0108 0 0 0) s

/-- The error interrupt of the queue a grid came through; 16 stands for the device queue. -/
def State.raise (s : State) (x : Grid) : State := { s with errIrqs := s.errIrqs ++ [(x.die, x.queue.getD 16)] }

/-- `GRID_COMPLETION` (R182, R277): once nothing of the grid is outstanding, its sessions are sealed, its dirty bytes written down, and, when
the owners of windows have acknowledged, its record and signal written. A grid refused for a misaligned COMPL has its record written at that
address, where it translates (log 23). -/
def execGridCompletion (g : Nat) (s : State) : Out :=
  let x := s.gridOf g
  .next (if (aget s.grids g).isNone || x.ended || !s.over g || s.busy g then s
    else
      let s := (s.settleGrid g).sealGrid g
      if s.unacked then s
      else
      let s := s.setGrid g { x with ended := true }
      match s.ctxWrite x.ctx (x.fld 0x20 8) x.completion with
      | none => (s.raise x).failGrid g
      | some s =>
        if x.status ≠ 0 then s.failGrid g
        else match s.signal x with
          | some s => s
          | none => (s.raise x).failGrid g)

/-- `GRID_TERMINATION_REQUEST` (R432): the handler of a wave asks the steward to end the grid, for the trap as it was taken. -/
def execGridTerminationRequest (g wv : Nat) (s : State) : Out :=
  let w := s.wv ⟨g, wv⟩
  .next (if w.sup && !w.exited && s.goes ⟨g, wv⟩ then s.terminate g 0x0001 w.trapCause w.trapPc wv else s)

/-- `HOST_DRIVER_TERMINATION` (R432). -/
def execHostDriverTermination (g : Nat) (s : State) : Out :=
  .next (if (aget s.grids g).isNone then s else s.terminate g 0x0002 0 0 0)

end Sys2Proof.Machine
end

