-- ==== Sys2Proof/Machine/Device.lean ====
section
/-! DEFINITION. The host port, the other devices of the fabric, contexts, page-table changes, boot and attestation (R386, R393, R397,
R401-R419, R421, R428-R431). -/

namespace Sys2Proof.Machine

/-! ### The host -/

/-- The host's state of a half of device memory (R408): 0 I, 1 S, 2 E, 3 M. -/
def State.holdOf (s : State) (half : Nat) : Nat := match aget s.hostHalf half with | some (st, _) => st | none => 0

/-- A half that the host holds in E or M is written back, where M, under its window's key id, and gets another state (R407, R408, R421); to an
accumulating line that is a write, which seals its session first, marked BROKEN (R294). -/
def State.hostYield (s : State) (half : Nat) (st : Nat) (data : List Byte) : State :=
  let ln := half / 2
  match aget s.hostHalf half with
  | none => s
  | some (h, d) =>
    let d := if data.isEmpty then d else data
    let s := { s with hostHalf := adel s.hostHalf half }
    let s :=
      if h < 2 || (h = 2 && data.isEmpty) then s
      else
        let s := match aget s.frames ln with | some f => s.sealAll f.ctx f.idx true | none => s
        s.homePut ln (winKey s.hostWin ln) (tab 64 (fun j => (64 * (half % 2) + j, d.getD j 0)))
    if st = 0 then s else s.setHold half st

/-- The half at an address answered to the host as it stands: the snapshot of an accumulating line, else the bytes of the home, poisoned where
one is bad (R294, R410, R421). -/
def State.answerHalf (s : State) (pa : Nat) : State :=
  let ln := pa / 128
  let poison := (aget s.frames ln).isNone && (halfBytes (pa / 64 % 2)).any (s.homeBad ln)
  s.answer (s.homeSee (pa / 64 * 64) 64 (s.hostKey pa)) false poison

/-- A host read of device memory: all ones with the error status where the GiB is closed (R407); else the half's hold is obtained first, and of an
accumulating line the snapshot is answered (R294, R421). -/
def State.hostRead (s : State) (pa : Nat) (obtain_ : State → State) : State :=
  if deviceEnd ≤ pa || !s.portUp then s
  else if !s.hostOpen pa then s.answer (List.replicate 64 0xFF) true false
  else (obtain_ s).answerHalf pa

/-- `HOST_MEM_READ_OWNERSHIP` (R403, R421): every local and remote copy goes, an exclusive one merged, and the half becomes E; the L1 and L2 copies
stay. Of an open line the host holds the snapshot that it is answered (R294). -/
def execHostMemReadOwnership (pa : Nat) (s : State) : Out :=
  let ln := pa / 128
  .next (s.hostRead pa (fun s =>
    let s := ((s.recallSC ln).recallPeer ln).noPeers ln
    if 2 ≤ s.holdOf (pa / 64) then s
    else if (aget s.frames ln).isNone then s.setHold (pa / 64) 2
    else { s with hostHalf := aput s.hostHalf (pa / 64) (2, s.homeSee (pa / 64 * 64) 64 (s.hostKey pa)) }))

/-- `HOST_MEM_READ_SHARED` (R421): exclusive copies are recalled and merged, and the half becomes S. -/
def execHostMemReadShared (pa : Nat) (s : State) : Out :=
  let ln := pa / 128
  .next (s.hostRead pa (fun s => ((s.homeTouch ln (s.hostKey pa) [pa % 128]).setHold (pa / 64) 1)))

/-- `HOST_MEM_WRITE` (R294, R407, R409, R421): a write to a closed GiB is discarded with the error status; a half that the host holds in E or M takes
the bytes in the host's own copy, which is then M; every other byte of device memory is merged at home, a session of the line sealed as BROKEN
first, and one of host memory is written there. -/
def execHostMemWrite (pa : Nat) (data : List Byte) (s : State) : Out :=
  let half := pa / 64
  .next (if 64 < pa % 64 + data.length || data.isEmpty || !s.portUp then s
    else if isSysLine (pa / 128) then (if (windowOf pa).isSome || 2 ^ 52 ≤ pa then s else (s.foreignWrite pa 0 data).look)
    else if deviceEnd ≤ pa then s
    else if !s.hostOpen pa then s.answer [] true false
    else
      let held := (aget s.hostHalf half).getD (0, [])
      if held.1 < 2 then (s.foreignWrite pa (s.hostKey pa) data).look
      else
        let base := if held.1 = 3 || !held.2.isEmpty then held.2 else tab 64 (fun j => s.homeByte (pa / 128) (s.hostKey pa) (64 * (half % 2) + j))
        { s with hostHalf := aput s.hostHalf half (3, tab 64 (fun j =>
            if pa % 64 ≤ j && j < pa % 64 + data.length then data.getD (j - pa % 64) 0 else base.getD j 0)) })

/-- `BISNP_RESPONSE` (R421): the host answers a back-invalidate snoop of a half, with data where its copy is M. -/
def execBisnpResponse (pa : Nat) (inv : Bool) (data : List Byte) (s : State) : Out :=
  .next (if s.portUp && s.hostOpen pa && (data.isEmpty || data.length = 64) then s.hostYield (pa / 64) (if inv then 0 else 1) data else s)

/-- The address is in a host line: the system range outside every window (R229, R411). -/
def isHostLine (pa : Nat) : Bool := isSysLine (pa / 128) && (windowOf pa).isNone

/-- `HOST_SNOOP_INVALIDATE` (R409): an M half is written back, and the half becomes I. -/
def execHostSnoopInvalidate (pa : Nat) (s : State) : Out :=
  .next (if s.portUp && isHostLine pa then
      let s := s.halfBack pa
      { s with hostHalf := adel s.hostHalf (pa / 64) }
    else s)

/-- `HOST_SNOOP_DATA` (R409): an M half is written back, and the half becomes S. -/
def execHostSnoopData (pa : Nat) (s : State) : Out :=
  .next (if s.portUp && isHostLine pa && (aget s.hostHalf (pa / 64)).isSome then
      let s := s.halfBack pa
      { s with hostHalf := aput s.hostHalf (pa / 64) (1, []) }
    else s)

/-! ### Device links -/

/-- A device link. -/
def State.linkOf (s : State) (k : Nat) : Link := (aget s.links k).getD {}
/-- The state with a link replaced. -/
def State.setLink (s : State) (k : Nat) (x : Link) : State := { s with links := aput s.links k x }

/-- The link leads to a device that is fenced (R417). -/
def State.fenced (s : State) (x : Link) : Bool := match aget s.peers x.dev with | some p => p.dead | none => false

/-- A link takes no flit: it is none of the eight, no boot has brought it up, it is down or retrains, or its device is fenced (R414, R417,
R428). -/
def State.deaf (s : State) (k : Nat) : Bool := 8 ≤ k || !s.portUp || !(s.linkOf k).up || (s.linkOf k).training || s.fenced (s.linkOf k)

/-- The sender resends from a SEQ that it is asked for: what stands before it was received in order; after 16 failed resends of one SEQ the link
retrains (R414). -/
def Link.resend (x : Link) (seq : Nat) : Link :=
  if !x.sent.any (fun f => f.seq = seq) then x
  else
    let n := if x.again = some seq then x.resends + 1 else 0
    { x with sent := x.sent.dropWhile (fun f => f.seq ≠ seq), again := some seq, resends := n, training := 16 ≤ n }

/-- An acknowledged SEQ and all before it are kept no longer (R414). -/
def Link.acked (x : Link) (ack : Nat) : Link :=
  if x.sent.any (fun f => f.seq = ack) then
    { x with sent := (x.sent.dropWhile (fun f => f.seq ≠ ack)).drop 1, again := none, resends := 0 }
  else x

/-- A retry request carries the SEQ that the receiver expects (R414). -/
def Link.askAgain (x : Link) : Link := { x with request := some (mkFlit x.expect x.lastSeq 2 0 []) }

/-- Open writes and arrivals are open no more: ST counts the stores they carried no longer (R170, R246). -/
def State.dropTxns (s : State) (p : OpenTxn → Bool) : State :=
  State.acked { s with openTxn := s.openTxn.filter (fun t => !p t) } (s.openTxn.filter p)

/-- An arrival that its owner refused is held again among the posted ones, in its place on its channel (R296, R377, R411). -/
def State.heldAgain (s : State) (a : Arrival) : State :=
  let first := fun (e : Arrival) => !(e.src = a.src && e.slice = a.slice && a.num < e.num)
  { s with arrivals := s.arrivals.takeWhile first ++ { a with held := true } :: s.arrivals.dropWhile first }

/-- The owner of a window has performed a write or an arrival, or rejected it, with the code of its accumulation fault (R294, R296, R412, log 26). -/
def State.answeredTxn (s : State) (t : OpenTxn) (code : Option Nat) : State :=
  let s := s.dropTxns (fun x => x.dev = t.dev && x.num = t.num)
  match t.arr with
  | some a => (match code with | some e => s.postFault a.wave ⟨0x05, 0x80 + e, a.va⟩ | none => s).arrived a
  | none => match code with
    | some e => t.writers.foldl (fun s w => s.postFault w.1 ⟨0x05, 0x80 + e, w.2.2⟩) s
    | none => s

/-- The owner of a window refuses a write or an arrival (R411): its writers get the not-present fault, each with its access's origin, once for a
line; an arrival is held for its replay, or, in a grid that is ending, dropped (R182, R296). -/
def State.refusedTxn (s : State) (t : OpenTxn) : State :=
  let s := s.dropTxns (fun x => x.dev = t.dev && x.num = t.num)
  match t.arr with
  | some a =>
    if (s.gridOf a.wave.g).ending then s.arrived a
    else (s.heldAgain a).postFault a.wave ⟨0x07, (a.src % 4 + 1) * 32 + 0x01, a.va⟩
  | none =>
    let left := s.openTxn.map (fun x =>
      if x.dev = t.dev && x.pa = t.pa then { x with writers := x.writers.filter (fun w => !t.writers.contains w) } else x)
    t.writers.foldl (fun s w => s.postFault w.1 ⟨0x07, w.2.1 * 32 + 0x01, w.2.2⟩) { s with openTxn := left }

/-- What the transaction layer does with a transaction that is no request to this device's memory: an answer closes the write or arrival it
acknowledges, one byte of it being the code of a rejection, or refuses it (R411); a recall of a remote copy of this device writes its dirty bytes to
their owner and leaves the copy shared, or ends it (R412, log 26). -/
def State.takeTxn (s : State) (pay : List Byte) : State :=
  let f := fun (o n : Nat) => leNat ((pay.drop o).take n)
  let ln := (0xC * 2 ^ 48 + f 8 1 * 2 ^ 44 + f 11 8) / 128
  let open_ := s.openTxn.find? (fun t => t.dev = f 8 1 && t.num = f 0 8)
  match f 10 1 with
  | 0x80 => match open_ with
    | some t => s.answeredTxn t (if f 19 2 = 1 then some (f 21 1) else none)
    | none => s
  | 0x81 => match open_ with
    | some t => s.refusedTxn t
    | none => s
  | 0x82 => if (aget s.hostHalf (2 * ln)).isSome then (s.writeBack ln).setHold (2 * ln) 1 else s
  | 0x83 => (s.writeBack ln).markHalf ln [0] 0
  | _ => s

/-- `LINK_FLIT_RECEIVE` (R413, R414): a flit in order is taken, and its ACK drops what the sender keeps; a CRC error or another SEQ discards it and
sends a retry request; a retry request, which takes no SEQ of its own, is answered by a resend (log 26).
`flit` is the payload and the CRC. -/
def execLinkFlitReceive (link hdr : Nat) (flit : List Byte × Nat) (s : State) : Out :=
  let x := s.linkOf link
  let body := tab 244 (fun i => flit.1.getD i 0)
  .next (if s.deaf link then s
    else if flit.2 ≠ Config.crc64 (leBytes 4 hdr ++ body) then s.setLink link x.askAgain
    else if bits hdr 27 24 = 2 then s.setLink link ((x.acked (bits hdr 23 12)).resend (bits hdr 11 0))
    else if bits hdr 11 0 ≠ x.expect then s.setLink link x.askAgain
    else
      let data := bits hdr 27 24 = 1
      let y := x.acked (bits hdr 23 12)
      let s := s.setLink link { y with expect := (x.expect + 1) % 4096, request := none, taken := if data then x.taken + 1 else x.taken }
      if data then s.takeTxn body else s)

/-- `LINK_RETRY_REQUEST` (R414). -/
def execLinkRetryRequest (link seq : Nat) (s : State) : Out :=
  .next (if s.deaf link then s else s.setLink link ((s.linkOf link).resend seq))

/-- The flit carries a transaction other than a write or an arrival. -/
def Flit.noWrite (f : Flit) : Bool := f.ty = 1 && (let k := leNat ((f.payload.drop 10).take 1); k < 2 || 8 ≤ k)

/-- A write or an arrival that is not acknowledged by its owner is sent again, end to end, on the link that leads there now (R412, R414). -/
def State.sendAgain (s : State) (t : OpenTxn) : State :=
  State.sendPayload { s with openTxn := s.openTxn.map (fun x => if x.num = t.num then { x with link := (s.route t.dev).getD 8 } else x) } t.dev t.payload

/-- `LINK_RETRAIN` (R414): the link comes back; or it goes down, and its open transactions are sent again on other links, as far as one leads to
their device: the writes and arrivals whose owner has not acknowledged them, whatever became of their flits, and the others that stand in the link. -/
def execLinkRetrain (link : Nat) (ok : Bool) (s : State) : Out :=
  let x := s.linkOf link
  let y := { x with training := false, again := none, resends := 0, up := ok }
  .next (if !x.training then s
    else if ok then s.setLink link y
    else
      let s := s.setLink link y
      let writes := s.openTxn.filter (fun t => t.link = link && (s.route t.dev).isSome)
      let s := writes.foldl State.sendAgain s
      if (s.route x.dev).isNone then s
      else (x.sent.filter Flit.noWrite).foldl (fun s f => s.sendPayload x.dev f.payload) (s.setLink link { y with sent := [] }))

/-! ### Other devices -/

/-- A transaction is answered to the device that sent it (R412). -/
def State.reply (s : State) (src txn kind pa : Nat) (bs : List Byte) : State := s.sendPayload src (txnBytes txn s.self src kind pa bs)

/-- A device holds a line exclusively (R402). -/
def State.heldBy (s : State) (dev ln : Nat) : Bool := let d := (aget s.dirs ln).getD 0; d.getLsbD 31 && d.getLsbD (32 + dev)

/-- A remote copy of a line given to a device, shared or exclusively (R402, R412). It is of the whole line, so both of the host's halves are touched,
and every exclusive copy is merged first; an exclusive one ends every other copy, and what caches own by atomics (R253). -/
def State.lend (s : State) (src ln : Nat) (excl : Bool) : State :=
  let bit := 1#48 <<< (32 + src)
  if excl then
    let s := ((((s.disown ln).recallSC ln).recallPeer ln).recallHost ln [0, 64]).noPeers ln
    { s with dirs := aput s.dirs ln ((aget s.dirs ln).getD 0 ||| bit ||| (1#48 <<< 31)), remoteX := aput s.remoteX ln s.nextUid, nextUid := s.nextUid + 1 }
  else
    let s := s.homeTouch ln (winKey s.fabWin ln) [0, 64]
    { s with dirs := aput s.dirs ln (((aget s.dirs ln).getD 0 &&& 0xFFFF7FFFFFFF#48) ||| bit) }

/-- A write by another device performed at the home slice: one of the device that holds the line exclusively is merged there and leaves its hold
(R403). -/
def State.remoteWrite (s : State) (src pa key : Nat) (bs : List Byte) : State :=
  if s.heldBy src (pa / 128) then s.homePut (pa / 128) key (tab bs.length (fun i => (pa % 128 + i, bs.getD i 0))) else s.homeWriteAt pa key bs

/-- The value of an arrival of another device, by its kind and its bytes as one number (R412, log 26; see `AVal.payload`). -/
def arrivalOf (kind data : Nat) : AVal :=
  if kind = 7 then .real ⟨data % 2 = 1, data / 2 ^ 32, (data / 2 % 2 ^ 31 : Nat) - (2 ^ 15 : Nat)⟩ else .code (kind - 3) data

/-- A transaction of another device at this device's home slice, of kind 0 a shared and 1 an ownership read, 2 a write, 3 to 6 an arrival
of type 0 to 3, 7 one of an exact real, 8 and above the atomic of R65 with that number less 8, whose operand and compare value are the low and the
high 64 bits of the datum (R412). Each is answered; what an open line rejects is answered with the code of the accumulation fault, and not
performed (R294, R296, log 26). -/
def State.remote (s : State) (src txn kind pa size data key : Nat) : State :=
  let ln := pa / 128
  let p := (aget s.peers src).getD {}
  let fr := aget s.frames ln
  let ack := fun (s : State) => s.reply src txn 0x80 pa []
  let done := fun (s : State) => ack { s with peers := aput s.peers src { p with doneTxn := p.doneTxn ++ [txn] } }
  if kind < 2 then
    let s := if fr.isSome then s else s.lend src ln (kind = 1)
    s.reply src txn 0x80 pa (s.homeSee (ln * 128) 128 key)
  else if kind < 8 then
    if p.doneTxn.contains txn then ack s
    else if kind = 2 then
      if fr.isSome then s.reply src txn 0x80 pa [0x01] else done (s.remoteWrite src pa key (leBytes size data))
    else match s.takeArrival pa (arrivalOf kind data) with
      | .error e => s.reply src txn 0x80 pa (leBytes 1 e)
      | .ok t => done t
  else
    let op := kind - 8
    let n := amoSize op
    let keep := fun (old : Nat) (s : State) (code : List Byte) => State.reply
      { s with peers := aput s.peers src { p with atomics := ((txn, old) :: p.atomics).take 1024 } } src txn 0x80 pa (leBytes n old ++ code)
    match p.atomics.find? (fun a => a.1 = txn) with
    | some a => s.reply src txn 0x80 pa (leBytes n a.2)
    | none =>
      match fr with
      | some f =>
        let (old, s) := s.foldOld 0 4 op pa key f.tgt
        if 4 ≤ op then keep old s [0x01]
        else match s.takeArrival pa (.code (amoTy op) (data % 2 ^ 64)) with
          | .error e => keep old s (leBytes 1 e)
          | .ok t => keep old t []
      | none =>
        let s := ((s.flushLine ln).recallPeer ln).recallHost ln (tab n (pa % 128 + ·))
        let old := leNat (s.homeSee pa n key)
        keep old (s.homeWriteAt pa key (leBytes n (amoNew op old (data % 2 ^ 64) (data / 2 ^ 64)))) []

/-- `PEER_REMOTE_TRANSACTION` (R411, R412): performed at the home slice and answered; refused, and nothing performed, where the GiB is closed or the key
slot is EMPTY. -/
def execPeerRemoteTransaction (src txn kind pa size data : Nat) (s : State) : Out :=
  let key := winKey s.fabWin (pa / 128)
  let size := if kind = 7 then 4 else if kind < 8 then size else amoSize (kind - 8)
  .next (if !s.portUp || !s.reachable src || deviceEnd ≤ pa || size = 0 || 128 < pa % 128 + size || 23 ≤ kind then s
    else if key = 0 || (s.keyInst (pa / 128) key).isNone then s.reply src txn 0x81 pa []
    else s.remote src txn kind pa size data key)

/-- `FABRIC_DOMAIN_FORMATION` (R411): this device's number, the others with the device at the end of each link, and the fabric window table. -/
def execFabricDomainFormation (self : Nat) (devs : List Nat × List Nat) (keyIds : List (Nat × Nat)) (s : State) : Out :=
  .next { s with
    self := self
    peers := (devs.1.filter (fun d => d < 16 && d ≠ self)).eraseDups.map (fun d => (d, { inDomain := true }))
    links := tab 8 (fun k => (k, { s.linkOf k with dev := devs.2.getD k ((s.linkOf k).dev) }))
    fabWin := keyIds.filter (fun p => p.1 < 768 && 1 ≤ p.2 && p.2 < 256) }

/-- A period of 10 microseconds ends for a peer: a heartbeat that has not come is missed (R417). -/
def Peer.period (p : Peer) : Peer :=
  if p.inDomain && !p.dead then { p with missed := if p.beatSeen then 0 else p.missed + 1, beatSeen := false } else p

/-- `HEARTBEAT_SEND` (R417): a period ends with this device's own heartbeat. -/
def execHeartbeatSend (s : State) : Out :=
  .next { s with beats := s.beats + 1, peers := s.peers.map (fun (p : Nat × Peer) => (p.1, p.2.period)) }

/-- `HEARTBEAT_RECEIVE` (R417). -/
def execHeartbeatReceive (dev : Nat) (s : State) : Out :=
  .next (match aget s.peers dev with
    | some p => if p.dead then s else { s with peers := aput s.peers dev { p with missed := 0, beatSeen := true } }
    | none => s)

/-- An access of a wave lies in a device's window. -/
def State.accTo (s : State) (id : WaveId) (dev : Nat) (f : Flight) (a : Acc1) : Bool :=
  a.got.isNone && f.sc ≠ 6 && (match s.walk (s.ctxN id.g) a.addr with
    | .ok (l, _) => windowOf l.pa == some dev
    | .error _ => false)

/-- The accesses of a flight to a dead device (R418): a store's are lost; a load's and an atomic's raise the data-error fault of ORIGIN 1 and are
held. -/
def State.bereaveFlight (s : State) (dev : Nat) (id : WaveId) (r : State × List Flight) (f : Flight) : State × List Flight :=
  let mine := s.accTo id dev f
  if f.stores then
    let left := f.accs.filter (fun a => !mine a)
    if left.isEmpty && !f.accs.isEmpty then (r.1.modWv id (·.dn 2), r.2) else (r.1, r.2 ++ [{ f with accs := left }])
  else
    let s' := (f.accs.filter (fun a => mine a && !a.held)).foldl (fun (t : State) a => t.postFault id ⟨0x07, 1 * 32 + 0x06, a.addr⟩) r.1
    (s', r.2 ++ [{ f with accs := f.accs.map (fun a => if mine a then { a with held := true } else a) }])

/-- A wave waits at a release at `sy` for acknowledgements only (R279, R418); one of a deterministic grid at its turn in the serial phase. -/
def State.awaitsAck (s : State) (id : WaveId) : Bool :=
  let w := s.wv id
  !w.exited && w.quiet && (match w.hold with
    | some h => (match h.op with
      | .fence cls sc => bit cls 0 && sc = 5
      | .mem m => m.releases && m.sc = 5
      | .again 8 => true
      | _ => false)
    | none => false)

/-- The open operations of a wave on a dead device end (R418): its accesses, and, where a write to the device was never acknowledged, the release
that waits for it, which takes the data-error fault of ORIGIN 5 at its own PC, with the lowest such address (log 26). -/
def State.bereave (s : State) (dev : Nat) (id : WaveId) : State :=
  let waits := s.awaitsAck id
  let (t, fl) := (s.wv id).inflight.foldl (s.bereaveFlight dev id) (s, [])
  let t := t.modWv id (fun w => { w with inflight := fl })
  match (s.openTxn.filter (fun x => x.dev = dev)).foldl (fun m x => match m with | none => some x.pa | some a => some (min a x.pa)) none with
  | some a =>
    if waits then (State.trap { t with cur := id } (.release (0x06, a))).modWv id (fun w => { w with stopped := if w.det then none else w.stopped }) else t
  | none => t

/-- A link to a fenced device sends nothing more (R417). -/
def Link.fence (x : Link) (dev : Nat) : Link := if x.dev = dev then { x with sent := [], request := none } else x

/-- `DEVICE_DEAD` (R417-R419): after 8 missed heartbeats the links to the device are fenced, and what was open toward it ends; what it held
exclusively and had written is lost, and so are the writes and arrivals that it never acknowledged (log 26). -/
def execDeviceDead (dev : Nat) (s : State) : Out :=
  .next (match aget s.peers dev with
    | none => s
    | some p =>
      if p.dead || p.missed < 8 then s
      else
        let s := (s.waves.map (·.1)).foldl (fun s i => s.bereave dev i) s
        let theirs := fun (ln : Nat) => windowOf (ln * 128) == some dev
        let lost := (s.openTxn.filter (fun t => t.dev = dev)).filterMap (·.arr)
        let s := lost.foldl State.arrived (s.dropTxns (fun t => t.dev = dev))
        { s with
          peers := aput s.peers dev { p with dead := true }
          links := s.links.map (fun (q : Nat × Link) => (q.1, q.2.fence dev))
          remoteX := s.remoteX.filter (fun q => !s.heldBy dev q.1)
          llc := s.llc.filter (fun q => !theirs (q.1 / 128))
          llcKey := s.llcKey.filter (fun q => !theirs q.1)
          hostHalf := s.hostHalf.filter (fun q => !theirs (q.1 / 2)) })

/-- `DEAD_DEVICE_SCRUB` (R419): the dead device leaves every directory entry, and the replica sets it created go to the surviving device
with the lowest number. -/
def execDeadDeviceScrub (dev : Nat) (s : State) : Out :=
  .next (match aget s.peers dev with
    | none => s
    | some p =>
      if !p.dead then s
      else
        let heir := (s.peers.filter (fun q => q.2.inDomain && !q.2.dead)).foldl (fun m q => min m q.1) s.self
        let clean := fun (d : BitVec 48) =>
          if d.getLsbD (32 + dev) then
            let e := d &&& ~~~ (1#48 <<< (32 + dev))
            if d.getLsbD 31 then e &&& ~~~ (1#48 <<< 31) else e
          else d
        { s with
          dirs := (s.dirs.map (fun q => (q.1, clean q.2))).filter (fun q => q.2 ≠ 0)
          creators := s.creators.map (fun q => if q.2.1 = dev then (q.1, heir, q.2.2) else q) })

/-! ### Page tables and contexts -/

/-- The steward's reply to the runtime's fault path, an 8-byte word at an address of the context, 0 for none, written once the change is complete
(R393, R395, log 49): `reply` is the address and the word. -/
def State.replyWord (s : State) (ctx : Nat) (reply : Nat × Nat) : State :=
  if reply.1 = 0 || reply.1 % 8 ≠ 0 then s else (s.ctxWrite ctx reply.1 (leBytes 8 reply.2)).getD s

/-- The tables of the next level to which the entries of a table of a level point (R386). -/
def State.nextTables (s : State) (tkey lvl base : Nat) : List Nat :=
  (List.range (levelEntries lvl)).filterMap (fun i =>
    let e := leNat (s.homeRead (base + 8 * i) 8 tkey)
    if bit e 0 && !bit e 1 && !badPointer lvl e then some (bits e 51 8 * 256) else none)

/-- The level of the table of a context in which an entry stands; none where no table leads there yet (R386). -/
def State.entryLevel (s : State) (c : Ctx) (pa : Nat) : Option Nat :=
  let stands := fun (lvl : Nat) (ts : List Nat) => ts.any (fun b => b ≤ pa && pa < b + 8 * levelEntries lvl)
  let t2 := s.nextTables c.tkey 3 c.root
  let t1 := t2.flatMap (s.nextTables c.tkey 2)
  let t0 := t1.flatMap (s.nextTables c.tkey 1)
  if stands 3 [c.root] then some 3 else if stands 2 t2 then some 2 else if stands 1 t1 then some 1 else if stands 0 t0 then some 0 else none

/-- The page of a leaf of a level is read-duplicated anew: its blocks have no owner, and its set a creator (R415, R416, log 49). -/
def State.newReplica (s : State) (ctx base dev lvl : Nat) : State :=
  let outside := fun (a : Nat) => a < base || base + 2 ^ levelShift lvl ≤ a
  { s with replicas := s.replicas.filter (fun p => outside p.1), creators := aput (s.creators.filter (fun p => outside p.1)) base (dev, ctx) }

/-- A read-duplicated leaf is written at an address: a new set of its page, whose size its table's level gives. Where no table leads there yet, the
first block's owner goes, and the others' once one does (R395, R415, log 49). -/
def State.newLeaf (s : State) (ctx : Nat) (c : Ctx) (pa base dev : Nat) : State :=
  match if s.replicas.isEmpty && s.creators.isEmpty then some 0 else s.entryLevel c pa with
  | some lvl => s.newReplica ctx base dev lvl
  | none => { s.newReplica ctx base dev 0 with newSets := s.newSets ++ [(pa, base, dev, ctx)] }

/-- The sets of a context whose leaves a table now leads to are those of their whole pages (R395, R415, log 49). -/
def State.linkSets (s : State) (ctx : Nat) (c : Ctx) : State :=
  (s.newSets.filter (fun n => n.2.2.2 = ctx)).foldl (fun s n =>
    match s.entryLevel c n.1 with
    | some lvl => State.newReplica { s with newSets := s.newSets.filter (· ≠ n) } ctx n.2.1 n.2.2.1 lvl
    | none => s) s

/-- `PTE_CHANGE` (R393, R415): one 8-byte write of an entry (its address and its word) under the table key id, then the shootdown, then the
reply. For a read-duplicated leaf, `dev` is the device that created the set. -/
def execPteChange (ctx : Nat) (entry : Nat × Nat) (dev : Nat) (reply : Nat × Nat) (s : State) : Out :=
  let pa := entry.1
  let value := entry.2
  .next (match aget s.ctxs ctx with
    | none => s
    | some c =>
      if pa % 8 ≠ 0 || deviceEnd < pa + 8 then s
      else
        let s := (s.homeWriteAt pa c.tkey (leBytes 8 value)).shoot ctx
        let s := { s with newSets := s.newSets.filter (fun n => n.1 ≠ pa) }
        let s := if bit value 0 && bit value 1 && bit value 7 then s.newLeaf ctx c pa (bits value 51 16 * 2 ^ 16) dev else s
        (s.linkSets ctx c).replyWord ctx reply)

/-- The leaf entry for an address: its level, where it stands, and its word (R386). -/
def State.leafAt (s : State) (tkey va : Nat) : List Nat → Nat → Option (Nat × Nat × Nat)
  | [], _ => none
  | lvl :: ls, base =>
    let at_ := base + 8 * (va / 2 ^ levelShift lvl % levelEntries lvl)
    let e := leNat (s.homeRead at_ 8 tkey)
    if !bit e 0 then none
    else if bit e 1 then (if badLeaf lvl e then none else some (lvl, at_, e))
    else if badPointer lvl e then none
    else s.leafAt tkey va ls (bits e 51 8 * 256)

/-- A leaf of a level replaced by a table of leaves of the next level that map the same, at a free place `table` (R395, R415); each is of the
same replica set's creator (R416). -/
def State.splitLeaf (s : State) (tkey lvl at_ e table : Nat) (made : Nat × Nat) : State :=
  let n := levelEntries (lvl - 1)
  let size := 2 ^ levelShift (lvl - 1)
  let s := s.homeWriteAt table tkey ((tab n (fun i => leBytes 8 (e + i * size))).flatten)
  let s := { s with creators := (List.range n).foldl (fun m i => aput m (bits e 51 16 * 2 ^ 16 + i * size) made) s.creators }
  s.homeWriteAt at_ tkey (leBytes 8 (table / 256 * 256 + 1))

/-- The leaf word of a collapsed block: writable, no replica; at the owner its own page, elsewhere the owner's window (R395, R411, R415). -/
def ownedLeaf (e self dev pa : Nat) : Nat :=
  let attrs := bits e 9 8 * 256 + bits e 6 6 * 64 + 0x33
  if dev = self then bits e 63 16 * 2 ^ 16 + attrs
  else (0xC * 2 ^ 48 + dev * 2 ^ 44 + pa / 2 ^ 16 * 2 ^ 16) + attrs

/-- `REPLICA_COLLAPSE` (R395, R415, R416): the 64 KiB block of an address gets one owner, the first device that asked for that block of the replica
set, by whatever address; a larger page is split, with new tables of level 1 and 0 at `tables`. `pa` is the block's address in the memory of the
device that asks. The steward's reply comes last. -/
def execReplicaCollapse (ctx va dev pa : Nat) (tables reply : Nat × Nat) (s : State) : Out :=
  let t1 := tables.1
  let t0 := tables.2
  .next (match aget s.ctxs ctx with
    | none => s
    | some c =>
      let free := fun (t n : Nat) => t % n = 0 && t + n ≤ deviceEnd
      if !free t1 4096 || !free t0 256 || !(dev = s.self || s.reachable dev) || deviceEnd < pa + 2 ^ 16 then s
      else
        let at_ := fun (s : State) => s.leafAt c.tkey va [3, 2, 1, 0] c.root
        match at_ s with
        | none => s
        | some (lvl, _, e) =>
          let blk := ((leafOf lvl e va).pa) / 2 ^ 16 * 2 ^ 16
          let made := (aget s.creators (bits e 51 16 * 2 ^ 16)).getD (s.self, ctx)
          let (owner, opa, _) := (aget s.replicas blk).getD (dev, pa, ctx)
          if !bit e 7 || !(made.1 = s.self || s.reachable made.1) then s
          else
            let s := s.ctxWalked ctx va
            let s := match at_ s with | some (2, a, e) => s.splitLeaf c.tkey 2 a e t1 made | _ => s
            let s := match at_ s with | some (1, a, e) => s.splitLeaf c.tkey 1 a e t0 made | _ => s
            match at_ s with
            | some (0, a, e) =>
              (State.shoot { s.homeWriteAt a c.tkey (leBytes 8 (ownedLeaf e s.self owner opa)) with
                replicas := aput s.replicas blk (owner, opa, ctx) } ctx).replyWord ctx reply
            | _ => s)

/-- The key slots of these ids that are EMPTY get new keys, on every stack (R396). -/
def State.fillKeys (s : State) (ids : List Nat) : State :=
  ids.foldl (fun s k =>
    if k = 0 || 256 ≤ k then s
    else (List.range 12).foldl (fun s st =>
      match aget s.keys (st * 256 + k) with
      | some _ => s
      | none => { s with keys := aput s.keys (st * 256 + k) s.nextUid, nextUid := s.nextUid + 1 }) s) s

/-- `CONTEXT_CREATE` (R386, R396, R407, R428): a context with its T3 table, its table key id and the key ids of its pages; their slots are filled,
and the host windows it opens are written. -/
def execContextCreate (ctx root key quota saveArea : Nat) (keyIds : List Nat) (win : List (Nat × Nat)) (s : State) : Out :=
  .next (if !s.portUp || (aget s.ctxs ctx).isSome || key = 0 || 256 ≤ key || root % 8192 ≠ 0 || deviceEnd < root + 8192 then s
    else
      let s := s.fillKeys (key :: keyIds)
      let wins := win.filter (fun p => p.1 < 768 && 1 ≤ p.2 && p.2 < 256)
      { s.setCtx ctx { root := root, tkey := key, quota := quota, saveArea := saveArea, keyIds := keyIds } with
        hostWin := wins.foldl (fun m p => aput m p.1 p.2) s.hostWin })

/-- The lines that caches hold under some key ids. -/
def State.linesUnder (s : State) (ids : List Nat) : List Nat :=
  let has := fun (k : Nat) => ids.contains k
  ((s.cores.flatMap (fun p => (p.2.l1.filter (fun q => has q.2.key)).map (·.1)))
    ++ (s.l2.filter (fun p => has p.2.key)).map (·.1.2) ++ (s.sc.filter (fun p => has p.2.key)).map (·.1.2)
    ++ (s.llcKey.filter (fun p => has p.2)).map (·.1)).eraseDups

/-- The table key id of a live context other than one (R386). -/
def State.othersTable (s : State) (ctx k : Nat) : Bool := s.ctxs.any (fun p => p.1 ≠ ctx && p.2.tkey = k)

/-- What the host holds of device memory in windows under some key ids is recalled (R397, R408). -/
def State.recallWindows (s : State) (ids : List Nat) : State :=
  (s.hostHalf.filter (fun p => !isSysLine (p.1 / 2) && ids.contains (winKey s.hostWin (p.1 / 2)))).foldl (fun s p =>
    s.recallHost (p.1 / 2) [64 * (p.1 % 2)]) s

/-- What other devices hold of device memory in windows under some key ids is recalled (R397, R403, R411). -/
def State.recallFabric (s : State) (ids : List Nat) : State :=
  ((s.remoteX.map (·.1) ++ s.dirs.map (·.1)).filter (fun ln => ids.contains (winKey s.fabWin ln))).foldl (fun s ln => (s.recallPeer ln).noPeers ln) s

/-- `CONTEXT_TEARDOWN` (R299, R386, R397): once every grid of the context has ended, its sessions are sealed, the lines under its key ids written
back and dropped, the key slots emptied, but for another context's table key, and its state on the device is gone. -/
def execContextTeardown (ctx : Nat) (s : State) : Out :=
  .next (match aget s.ctxs ctx with
    | none => s
    | some c =>
      if s.grids.any (fun p => p.2.ctx = ctx && !p.2.ended) then s
      else
        let s := (c.sessions.filter (fun p => p.2.state = 1 || p.2.state = 2)).foldl (fun s p => s.sealAll ctx p.1 false) s
        let ids := c.tkey :: c.keyIds
        let s := (s.recallWindows ids).recallFabric ids
        let s := (s.linesUnder ids).foldl (fun s ln => (s.flushLine ln).writeBack ln) s
        let gone := ids.filter (fun k => !s.othersTable ctx k)
        { s.shoot ctx with
          keys := s.keys.filter (fun p => !gone.contains (p.1 % 256))
          hostWin := s.hostWin.filter (fun p => !gone.contains p.2)
          fabWin := s.fabWin.filter (fun p => !gone.contains p.2)
          buckets := s.buckets.filter (fun p => p.1.1 ≠ ctx)
          storeGen := s.storeGen.filter (fun p => p.1.1 ≠ ctx)
          failed := s.failed.filter (fun p => p.1 ≠ ctx)
          replicas := s.replicas.filter (fun p => p.2.2.2 ≠ ctx)
          creators := s.creators.filter (fun p => p.2.2 ≠ ctx)
          newSets := s.newSets.filter (fun n => n.2.2.2 ≠ ctx)
          ctxs := adel s.ctxs ctx })

/-! ### Boot and attestation -/

/-- Step 2 of the boot: the firmware image is good (R428). -/
def imageGood (fuseHash fuseVersion image : List Byte) : Bool :=
  Config.imageSigned image && Config.shake256 32 (Config.imageKey image) == fuseHash && leNat fuseVersion ≤ Config.imageVersion image

/-- What step 3 of the boot of a die clears: the key tables of its stacks, but for the table keys of live contexts (R386), the frames of its
slices, its function stores. -/
def State.clearDie (s : State) (die : Nat) : State :=
  { s with
    keys := s.keys.filter (fun p => p.1 / 256 / 3 ≠ die || s.ctxs.any (fun c => c.2.tkey = p.1 % 256))
    frames := s.frames.filter (fun p => s.homeSector p.1 / 3 ≠ die)
    buckets := s.buckets.filter (fun p => storeOf p.1.2.2 / 3 ≠ die)
    storeGen := s.storeGen.filter (fun p => p.1.2.2 / 3 ≠ die)
    fsCount := s.fsCount.filter (fun p => p.1 / 3 ≠ die) }

/-- `POWER_ON` (R428-R431): the boot ROM of a die that is not running. A module that has shut down starts from its state after reset. -/
def execPowerOn (die : Nat) (fuseMap fuseHash fuseVersion secret image : List Byte) (s : State) : Out :=
  let s := if s.moduleUp then s else { State.reset with agenda := s.agenda, tick := s.tick, nextUid := s.nextUid, sysMem := s.sysMem }
  .next (if 4 ≤ die || (s.dieOf die).booted then s
    else if !imageGood fuseHash fuseVersion image then
      { s.modDie die (fun d => { d with defects := fuseMap, bootStep := 2, halted := true }) with portFault := s.portFault ++ [2] }
    else
      let s := (s.clearDie die).modDie die (fun d => { d with defects := fuseMap, bootStep := 4, halted := false, booted := true })
      if die ≠ 0 then s
      else { s with
        identity := Config.mlDsaPublic (Config.shake256 32 (secret ++ leBytes 8 (Config.imageVersion image)))
        identityKey := Config.mlDsaPrivate (Config.shake256 32 (secret ++ leBytes 8 (Config.imageVersion image)))
        measured := [Config.bootRom, image, fuseMap, fuseVersion]
        links := tab 8 (fun k => (k, { s.linkOf k with up := true })), keyExchange := none, spdm := [], attested := [], secure := [] })

/-- A request is served (R406, R431, log 52): one for measurements (kind 0) is answered, the answer signed with the identity key; one that begins a
key exchange (1) begins it, if none is in progress; one that ends it (2) ends that of its session, whose IDE key is then set. -/
def State.spdmServe (s : State) (kind session : Nat) : State :=
  match kind with
  | 0 => { s with attested := (session, s.measured, Config.mlDsaSign s.identityKey s.measured.flatten) :: s.attested }
  | 1 => if s.keyExchange.isNone then { s with keyExchange := some session } else s
  | 2 =>
    if s.keyExchange ≠ some session then s
    else { s with keyExchange := none, nextUid := s.nextUid + 1
                  secure := s.secure.filter (·.1 ≠ session) ++ [(session, Config.ideKey session s.nextUid)] }
  | _ => s

/-- The requests that waited are served in the order they came in, while one need not wait for another session's key exchange to end (R431); the
number bounds how many. -/
def State.spdmDrain (s : State) : Nat → State
  | 0 => s
  | n + 1 =>
    match s.spdm.find? (fun r => match s.keyExchange with | some x => x = r.2 | none => true) with
    | none => s
    | some r => (State.spdmServe { s with spdm := s.spdm.erase r } r.1 r.2).spdmDrain n

/-- `SPDM_REQUEST` (R431): a request of a kind that `spdmServe` names waits while another session's key exchange is in progress, and is served
otherwise; those that waited follow the end of one. The port's links are up. -/
def execSpdmRequest (kind session : Nat) (s : State) : Out :=
  .next (if !s.portUp || 3 ≤ kind then s
    else match s.keyExchange with
      | none => s.spdmServe kind session
      | some x =>
        if x ≠ session then { s with spdm := s.spdm ++ [(kind, session)] }
        else let t := s.spdmServe kind session; if kind = 2 then t.spdmDrain t.spdm.length else t)

end Sys2Proof.Machine
end

