-- ==== Sys2Proof/Machine/Integer.lean ====
section
/-! DEFINITION. Integer instructions: majors 0x01, 0x02, 0x03, 0x08 and 0x09 (R97-R102). The result functions take the operands
A, B and the third source D. -/

namespace Sys2Proof.Machine

/-- (sA × sB)[63:32]. -/
def iMulhiS (x y : Word) : Word := BitVec.ofInt 32 (x.toInt * y.toInt / 2 ^ 32)
/-- (A × B)[63:32]. -/
def iMulhiN (x y : Word) : Word := BitVec.ofNat 32 (x.toNat * y.toNat / 2 ^ 32)
/-- A × 2^B, or 0 when B ≥ 32. -/
def iShl (x y : Word) : Word := if 32 ≤ y.toNat then 0 else x <<< y.toNat
/-- floor(A / 2^B), or 0 when B ≥ 32. -/
def iShr (x y : Word) : Word := if 32 ≤ y.toNat then 0 else x >>> y.toNat
/-- floor(sA / 2^min(B, 31)). -/
def iSar (x y : Word) : Word := x.sshiftRight (min y.toNat 31)
/-- 1 or 0. -/
def iBool (p : Bool) : Word := if p then 1 else 0
/-- Number of one bits. -/
def iPop (x : Word) : Word := BitVec.ofNat 32 ((List.range 32).countP x.getLsbD)
/-- Number of zero bits above the highest one bit; 32 for 0. -/
def iClz (x : Word) : Word := BitVec.ofNat 32 (if x = 0 then 32 else 31 - x.toNat.log2)
/-- Bit i of the result is bit 31 − i. -/
def iBrev (x : Word) : Word :=
  BitVec.ofNat 32 ((List.range 32).foldl (fun n i => if x.getLsbD i then n + 2 ^ (31 - i) else n) 0)
/-- An exact integer clamped to the signed range. -/
def iSatS (n : Int) : Word := BitVec.ofInt 32 (if n < -(2 ^ 31) then -(2 ^ 31) else if 2 ^ 31 - 1 < n then 2 ^ 31 - 1 else n)
/-- An exact integer clamped to the unsigned range. -/
def iSatN (n : Int) : Word := BitVec.ofInt 32 (if n < 0 then 0 else if 2 ^ 32 - 1 < n then 2 ^ 32 - 1 else n)
/-- p of the bit-field instructions. -/
def iFieldP (y : Word) : Nat := y.toNat % 32
/-- n of the bit-field instructions. -/
def iFieldN (y : Word) : Nat := min (y.toNat / 256 % 64) (32 - iFieldP y)
/-- floor(A / 2^p) mod 2^n. -/
def iBfx (x y : Word) : Word := BitVec.ofNat 32 (x.toNat / 2 ^ iFieldP y % 2 ^ iFieldN y)
/-- (D AND NOT M) OR ((A × 2^p) AND M). -/
def iBfi (x y d : Word) : Word :=
  let m : Word := BitVec.ofNat 32 ((2 ^ iFieldN y - 1) * 2 ^ iFieldP y)
  (d &&& ~~~ m) ||| ((x <<< iFieldP y) &&& m)
/-- The third source where the entry reads d, else nothing. -/
def fThird (third : Bool) (d : Code) : List Opnd := if third then [⟨.vSrc, d.toNat⟩] else []

/-- A 32-bit vector instruction of two sources; `third` when the entry reads d as well (R95, R98). -/
def vec3 (third : Bool) (f : Word → Word → Word → Word) (d a b : Code) (nw : Bool) (s : State) : Out :=
  s.guarded (fVVV d a b ++ fThird third d) (fun s => s.modW (fun w =>
    (w.out32 d nw (fun t => f (w.vr a t) (w.vr b t) (w.vr d t))).retire))

/-- A 32-bit vector instruction of one source (R97). -/
def vec2 (f : Word → Word) (d a : Code) (nw : Bool) (s : State) : Out :=
  s.guarded (fVV d a) (fun s => s.modW (fun w => (w.out32 d nw (fun t => f (w.vr a t))).retire))

/-- A wave instruction of two sources and d (R96, R102). -/
def wav3 (f : Word → Word → Word → Word) (d a b : Code) (nw : Bool) (s : State) : Out :=
  s.guarded [⟨.wSrc, a.toNat⟩, ⟨.wSrc, b.toNat⟩] (fun s => s.modW (fun w =>
    (w.outW d nw (f (w.ws a) (w.ws b) (w.ws d))).retire))

/-- A wave instruction of one source (R96, R102). -/
def wav2 (f : Word → Word) (d a : Code) (nw : Bool) (s : State) : Out :=
  s.guarded [⟨.wSrc, a.toNat⟩] (fun s => s.modW (fun w => (w.outW d nw (f (w.ws a))).retire))

/-- A pair instruction of two pair sources (R101). -/
def pair3 (f : BitVec 64 → BitVec 64 → BitVec 64) (d a b : Code) (s : State) : Out :=
  s.guarded (fPPP d a b) (fun s => s.modW (fun w => (w.out64 d (fun t => f (w.vr2 a t) (w.vr2 b t))).retire))

/-- A pair instruction whose b is a 32-bit position (R101). -/
def pairV (f : BitVec 64 → Word → BitVec 64) (d a b : Code) (s : State) : Out :=
  s.guarded [⟨.vDstP, d.toNat⟩, ⟨.vSrcP, a.toNat⟩, ⟨.vSrc, b.toNat⟩] (fun s => s.modW (fun w =>
    (w.out64 d (fun t => f (w.vr2 a t) (w.vr b t))).retire))

/-- A compare of pairs into a 32-bit destination (R101). -/
def pairCmp (f : BitVec 64 → BitVec 64 → Bool) (d a b : Code) (nw : Bool) (s : State) : Out :=
  s.guarded (fVPP d a b) (fun s => s.modW (fun w =>
    (w.out32 d nw (fun t => iBool (f (w.vr2 a t) (w.vr2 b t)))).retire))

/-- A widening multiply (R101). -/
def mulWide (f : Word → Word → BitVec 64) (d a b : Code) (s : State) : Out :=
  s.guarded [⟨.vDstP, d.toNat⟩, ⟨.vSrc, a.toNat⟩, ⟨.vSrc, b.toNat⟩] (fun s => s.modW (fun w =>
    (w.out64 d (fun t => f (w.vr a t) (w.vr b t))).retire))

/-- A wave pair instruction (R102). -/
def wavPair (f : BitVec 64 → BitVec 64 → BitVec 64) (d a b : Code) (s : State) : Out :=
  s.guarded [⟨.wSrcP, a.toNat⟩, ⟨.wSrcP, b.toNat⟩] (fun s => s.modW (fun w =>
    (w.outW2 d (f (w.ws2 a) (w.ws2 b))).retire))

/-- A left shift of a pair; 0 for a count of 64 or more. -/
def lShl (x : BitVec 64) (y : Word) : BitVec 64 := if 64 ≤ y.toNat then 0 else x <<< y.toNat
/-- A logical right shift of a pair; 0 for a count of 64 or more. -/
def lShr (x : BitVec 64) (y : Word) : BitVec 64 := if 64 ≤ y.toNat then 0 else x >>> y.toNat
/-- floor(sA / 2^min(B, 63)). -/
def lSar (x : BitVec 64) (y : Word) : BitVec 64 := x.sshiftRight (min y.toNat 63)

/-- The immediate of an I-form word alone: SignExt(imm12, 12) (R54). -/
def immShort (imm : BitVec 12) : Word := imm.signExtend 32
/-- The immediate after a LIT prefix: payload[19:0] × 2^12 + imm12 (R54). -/
def immLong (pay : BitVec 27) (imm : BitVec 12) : Word := BitVec.ofNat 32 (pay.toNat % 2 ^ 20 * 2 ^ 12 + imm.toNat)

/-- The vector add of an immediate; the instruction is `len` bytes long with its prefix (R17, R100). -/
def addImmV (len : Nat) (x : Word) (d a : Code) (nw : Bool) (s : State) : Out :=
  s.guarded (fVV d a) (fun s => s.modW (fun w => (w.out32 d nw (fun t => w.vr a t + x)).retire len))

/-- The wave add of an immediate (R17, R100). -/
def addImmW (len : Nat) (x : Word) (d a : Code) (nw : Bool) (s : State) : Out :=
  s.guarded [⟨.wSrc, a.toNat⟩] (fun s => s.modW (fun w => (w.outW d nw (w.ws a + x)).retire len))

/-- `ADD_N32` (R98). -/
def execAddN32 (d a b : Code) (nw : Bool) (s : State) : Out :=
  vec3 false (fun x y _ => x + y) d a b nw s
/-- `SUB_N32` (R98). -/
def execSubN32 (d a b : Code) (nw : Bool) (s : State) : Out :=
  vec3 false (fun x y _ => x - y) d a b nw s
/-- `MUL_N32` (R98). -/
def execMulN32 (d a b : Code) (nw : Bool) (s : State) : Out :=
  vec3 false (fun x y _ => x * y) d a b nw s
/-- `MULHI_S32` (R98). -/
def execMulhiS32 (d a b : Code) (nw : Bool) (s : State) : Out :=
  vec3 false (fun x y _ => iMulhiS x y) d a b nw s
/-- `MULHI_N32` (R98). -/
def execMulhiN32 (d a b : Code) (nw : Bool) (s : State) : Out :=
  vec3 false (fun x y _ => iMulhiN x y) d a b nw s
/-- `MAD_N32` (R98). -/
def execMadN32 (d a b : Code) (nw : Bool) (s : State) : Out :=
  vec3 true (fun x y z => x * y + z) d a b nw s
/-- `AND_N32` (R98). -/
def execAndN32 (d a b : Code) (nw : Bool) (s : State) : Out :=
  vec3 false (fun x y _ => x &&& y) d a b nw s
/-- `OR_N32` (R98). -/
def execOrN32 (d a b : Code) (nw : Bool) (s : State) : Out :=
  vec3 false (fun x y _ => x ||| y) d a b nw s
/-- `XOR_N32` (R98). -/
def execXorN32 (d a b : Code) (nw : Bool) (s : State) : Out :=
  vec3 false (fun x y _ => x ^^^ y) d a b nw s
/-- `SHL_N32` (R98). -/
def execShlN32 (d a b : Code) (nw : Bool) (s : State) : Out :=
  vec3 false (fun x y _ => iShl x y) d a b nw s
/-- `SHR_N32` (R98). -/
def execShrN32 (d a b : Code) (nw : Bool) (s : State) : Out :=
  vec3 false (fun x y _ => iShr x y) d a b nw s
/-- `SHR_S32` (R98). -/
def execShrS32 (d a b : Code) (nw : Bool) (s : State) : Out :=
  vec3 false (fun x y _ => iSar x y) d a b nw s
/-- `MIN_S32` (R98). -/
def execMinS32 (d a b : Code) (nw : Bool) (s : State) : Out :=
  vec3 false (fun x y _ => if x.slt y then x else y) d a b nw s
/-- `MIN_N32` (R98). -/
def execMinN32 (d a b : Code) (nw : Bool) (s : State) : Out :=
  vec3 false (fun x y _ => if x.ult y then x else y) d a b nw s
/-- `MAX_S32` (R98). -/
def execMaxS32 (d a b : Code) (nw : Bool) (s : State) : Out :=
  vec3 false (fun x y _ => if x.slt y then y else x) d a b nw s
/-- `MAX_N32` (R98). -/
def execMaxN32 (d a b : Code) (nw : Bool) (s : State) : Out :=
  vec3 false (fun x y _ => if x.ult y then y else x) d a b nw s
/-- `SEQ_N32` (R98). -/
def execSeqN32 (d a b : Code) (nw : Bool) (s : State) : Out :=
  vec3 false (fun x y _ => iBool (x == y)) d a b nw s
/-- `SLT_S32` (R98). -/
def execSltS32 (d a b : Code) (nw : Bool) (s : State) : Out :=
  vec3 false (fun x y _ => iBool (x.slt y)) d a b nw s
/-- `SLT_N32` (R98). -/
def execSltN32 (d a b : Code) (nw : Bool) (s : State) : Out :=
  vec3 false (fun x y _ => iBool (x.ult y)) d a b nw s
/-- `SEL_N32` (R98). -/
def execSelN32 (d a b : Code) (nw : Bool) (s : State) : Out :=
  vec3 true (fun x y z => if z = 0 then y else x) d a b nw s
/-- `POP_N32` (R98). -/
def execPopN32 (d a : Code) (nw : Bool) (s : State) : Out :=
  vec2 iPop d a nw s
/-- `CLZ_N32` (R98). -/
def execClzN32 (d a : Code) (nw : Bool) (s : State) : Out :=
  vec2 iClz d a nw s
/-- `BREV_N32` (R98). -/
def execBrevN32 (d a : Code) (nw : Bool) (s : State) : Out :=
  vec2 iBrev d a nw s
/-- `ADDS_S32` (R98). -/
def execAddsS32 (d a b : Code) (nw : Bool) (s : State) : Out :=
  vec3 false (fun x y _ => iSatS (x.toInt + y.toInt)) d a b nw s
/-- `SUBS_S32` (R98). -/
def execSubsS32 (d a b : Code) (nw : Bool) (s : State) : Out :=
  vec3 false (fun x y _ => iSatS (x.toInt - y.toInt)) d a b nw s
/-- `ADDS_N32` (R98). -/
def execAddsN32 (d a b : Code) (nw : Bool) (s : State) : Out :=
  vec3 false (fun x y _ => iSatN ((x.toNat : Int) + y.toNat)) d a b nw s
/-- `SUBS_N32` (R98). -/
def execSubsN32 (d a b : Code) (nw : Bool) (s : State) : Out :=
  vec3 false (fun x y _ => iSatN ((x.toNat : Int) - y.toNat)) d a b nw s
/-- `BFX_N32` (R98). -/
def execBfxN32 (d a b : Code) (nw : Bool) (s : State) : Out :=
  vec3 false (fun x y _ => iBfx x y) d a b nw s
/-- `BFI_N32` (R98). -/
def execBfiN32 (d a b : Code) (nw : Bool) (s : State) : Out :=
  vec3 true (iBfi) d a b nw s
/-- `ADD_IMM_N32` without a prefix (R54, R100). -/
def execAddImmN32 (d a : Code) (nw : Bool) (imm : BitVec 12) (s : State) : Out :=
  addImmV 4 (immShort imm) d a nw s
/-- `WAVE_ADD_IMM_N32` without a prefix (R54, R100). -/
def execWaveAddImmN32 (d a : Code) (nw : Bool) (imm : BitVec 12) (s : State) : Out :=
  addImmW 4 (immShort imm) d a nw s
/-- `ADD_N64` (R101). -/
def execAddN64 (d a b : Code) (s : State) : Out :=
  pair3 (fun x y => x + y) d a b s
/-- `SUB_N64` (R101). -/
def execSubN64 (d a b : Code) (s : State) : Out :=
  pair3 (fun x y => x - y) d a b s
/-- `ADDX_N64` (R101). -/
def execAddxN64 (d a b : Code) (s : State) : Out :=
  pairV (fun x y => x + y.setWidth 64) d a b s
/-- `ADDX_S64` (R101). -/
def execAddxS64 (d a b : Code) (s : State) : Out :=
  pairV (fun x y => x + y.signExtend 64) d a b s
/-- `SHL_N64` (R101). -/
def execShlN64 (d a b : Code) (s : State) : Out :=
  pairV lShl d a b s
/-- `SHR_N64` (R101). -/
def execShrN64 (d a b : Code) (s : State) : Out :=
  pairV lShr d a b s
/-- `SHR_S64` (R101). -/
def execShrS64 (d a b : Code) (s : State) : Out :=
  pairV lSar d a b s
/-- `AND_N64` (R101). -/
def execAndN64 (d a b : Code) (s : State) : Out :=
  pair3 (fun x y => x &&& y) d a b s
/-- `OR_N64` (R101). -/
def execOrN64 (d a b : Code) (s : State) : Out :=
  pair3 (fun x y => x ||| y) d a b s
/-- `XOR_N64` (R101). -/
def execXorN64 (d a b : Code) (s : State) : Out :=
  pair3 (fun x y => x ^^^ y) d a b s
/-- `SEQ_N64` (R101). -/
def execSeqN64 (d a b : Code) (nw : Bool) (s : State) : Out :=
  pairCmp (fun x y => x == y) d a b nw s
/-- `SLT_S64` (R101). -/
def execSltS64 (d a b : Code) (nw : Bool) (s : State) : Out :=
  pairCmp BitVec.slt d a b nw s
/-- `SLT_N64` (R101). -/
def execSltN64 (d a b : Code) (nw : Bool) (s : State) : Out :=
  pairCmp BitVec.ult d a b nw s
/-- `MULW_N32` (R101). -/
def execMulwN32 (d a b : Code) (s : State) : Out :=
  mulWide (fun x y => x.setWidth 64 * y.setWidth 64) d a b s
/-- `MULW_S32` (R101). -/
def execMulwS32 (d a b : Code) (s : State) : Out :=
  mulWide (fun x y => x.signExtend 64 * y.signExtend 64) d a b s
/-- `WAVE_ADD_N32` (R102). -/
def execWaveAddN32 (d a b : Code) (nw : Bool) (s : State) : Out :=
  wav3 (fun x y _ => x + y) d a b nw s
/-- `WAVE_SUB_N32` (R102). -/
def execWaveSubN32 (d a b : Code) (nw : Bool) (s : State) : Out :=
  wav3 (fun x y _ => x - y) d a b nw s
/-- `WAVE_MUL_N32` (R102). -/
def execWaveMulN32 (d a b : Code) (nw : Bool) (s : State) : Out :=
  wav3 (fun x y _ => x * y) d a b nw s
/-- `WAVE_MULHI_S32` (R102). -/
def execWaveMulhiS32 (d a b : Code) (nw : Bool) (s : State) : Out :=
  wav3 (fun x y _ => iMulhiS x y) d a b nw s
/-- `WAVE_MULHI_N32` (R102). -/
def execWaveMulhiN32 (d a b : Code) (nw : Bool) (s : State) : Out :=
  wav3 (fun x y _ => iMulhiN x y) d a b nw s
/-- `WAVE_MAD_N32` (R102). -/
def execWaveMadN32 (d a b : Code) (nw : Bool) (s : State) : Out :=
  wav3 (fun x y z => x * y + z) d a b nw s
/-- `WAVE_AND_N32` (R102). -/
def execWaveAndN32 (d a b : Code) (nw : Bool) (s : State) : Out :=
  wav3 (fun x y _ => x &&& y) d a b nw s
/-- `WAVE_OR_N32` (R102). -/
def execWaveOrN32 (d a b : Code) (nw : Bool) (s : State) : Out :=
  wav3 (fun x y _ => x ||| y) d a b nw s
/-- `WAVE_XOR_N32` (R102). -/
def execWaveXorN32 (d a b : Code) (nw : Bool) (s : State) : Out :=
  wav3 (fun x y _ => x ^^^ y) d a b nw s
/-- `WAVE_SHL_N32` (R102). -/
def execWaveShlN32 (d a b : Code) (nw : Bool) (s : State) : Out :=
  wav3 (fun x y _ => iShl x y) d a b nw s
/-- `WAVE_SHR_N32` (R102). -/
def execWaveShrN32 (d a b : Code) (nw : Bool) (s : State) : Out :=
  wav3 (fun x y _ => iShr x y) d a b nw s
/-- `WAVE_SHR_S32` (R102). -/
def execWaveShrS32 (d a b : Code) (nw : Bool) (s : State) : Out :=
  wav3 (fun x y _ => iSar x y) d a b nw s
/-- `WAVE_MIN_S32` (R102). -/
def execWaveMinS32 (d a b : Code) (nw : Bool) (s : State) : Out :=
  wav3 (fun x y _ => if x.slt y then x else y) d a b nw s
/-- `WAVE_MIN_N32` (R102). -/
def execWaveMinN32 (d a b : Code) (nw : Bool) (s : State) : Out :=
  wav3 (fun x y _ => if x.ult y then x else y) d a b nw s
/-- `WAVE_MAX_S32` (R102). -/
def execWaveMaxS32 (d a b : Code) (nw : Bool) (s : State) : Out :=
  wav3 (fun x y _ => if x.slt y then y else x) d a b nw s
/-- `WAVE_MAX_N32` (R102). -/
def execWaveMaxN32 (d a b : Code) (nw : Bool) (s : State) : Out :=
  wav3 (fun x y _ => if x.ult y then y else x) d a b nw s
/-- `WAVE_SEQ_N32` (R102). -/
def execWaveSeqN32 (d a b : Code) (nw : Bool) (s : State) : Out :=
  wav3 (fun x y _ => iBool (x == y)) d a b nw s
/-- `WAVE_SLT_S32` (R102). -/
def execWaveSltS32 (d a b : Code) (nw : Bool) (s : State) : Out :=
  wav3 (fun x y _ => iBool (x.slt y)) d a b nw s
/-- `WAVE_SLT_N32` (R102). -/
def execWaveSltN32 (d a b : Code) (nw : Bool) (s : State) : Out :=
  wav3 (fun x y _ => iBool (x.ult y)) d a b nw s
/-- `WAVE_SEL_N32` (R102). -/
def execWaveSelN32 (d a b : Code) (nw : Bool) (s : State) : Out :=
  wav3 (fun x y z => if z = 0 then y else x) d a b nw s
/-- `WAVE_POP_N32` (R102). -/
def execWavePopN32 (d a : Code) (nw : Bool) (s : State) : Out :=
  wav2 iPop d a nw s
/-- `WAVE_CLZ_N32` (R102). -/
def execWaveClzN32 (d a : Code) (nw : Bool) (s : State) : Out :=
  wav2 iClz d a nw s
/-- `WAVE_BREV_N32` (R102). -/
def execWaveBrevN32 (d a : Code) (nw : Bool) (s : State) : Out :=
  wav2 iBrev d a nw s
/-- `WAVE_ADDS_S32` (R102). -/
def execWaveAddsS32 (d a b : Code) (nw : Bool) (s : State) : Out :=
  wav3 (fun x y _ => iSatS (x.toInt + y.toInt)) d a b nw s
/-- `WAVE_SUBS_S32` (R102). -/
def execWaveSubsS32 (d a b : Code) (nw : Bool) (s : State) : Out :=
  wav3 (fun x y _ => iSatS (x.toInt - y.toInt)) d a b nw s
/-- `WAVE_ADDS_N32` (R102). -/
def execWaveAddsN32 (d a b : Code) (nw : Bool) (s : State) : Out :=
  wav3 (fun x y _ => iSatN ((x.toNat : Int) + y.toNat)) d a b nw s
/-- `WAVE_SUBS_N32` (R102). -/
def execWaveSubsN32 (d a b : Code) (nw : Bool) (s : State) : Out :=
  wav3 (fun x y _ => iSatN ((x.toNat : Int) - y.toNat)) d a b nw s
/-- `WAVE_BFX_N32` (R102). -/
def execWaveBfxN32 (d a b : Code) (nw : Bool) (s : State) : Out :=
  wav3 (fun x y _ => iBfx x y) d a b nw s
/-- `WAVE_BFI_N32` (R102). -/
def execWaveBfiN32 (d a b : Code) (nw : Bool) (s : State) : Out :=
  wav3 (iBfi) d a b nw s
/-- `WAVE_ADD_N64` (R102). -/
def execWaveAddN64 (d a b : Code) (s : State) : Out :=
  wavPair (fun x y => x + y) d a b s
/-- `WAVE_SUB_N64` (R102). -/
def execWaveSubN64 (d a b : Code) (s : State) : Out :=
  wavPair (fun x y => x - y) d a b s
/-- `WAVE_SLT_N64` (R102). -/
def execWaveSltN64 (d a b : Code) (nw : Bool) (s : State) : Out :=
  s.guarded [⟨.wSrcP, a.toNat⟩, ⟨.wSrcP, b.toNat⟩] (fun s => s.modW (fun w =>
    (w.outW d nw (iBool ((w.ws2 a).ult (w.ws2 b)))).retire))

end Sys2Proof.Machine
end

