-- ==== Sys2Proof/WellFormed.lean ====
section
/-! DEFINITION. Well-formed instructions: every encoded field holds a code its position allows (R46-R50, R61, R64-R66
and the limits of the entries). What depends on register values is checked when the instruction runs. -/

namespace Sys2Proof

/-- Every field of the instruction is legal, so that its word does not trap under R66. -/
def Instr.wellFormed (i : Instr) : Bool := i.operands.all Opnd.ok

end Sys2Proof
end

