-- ==== Sys2Proof/Decode.lean ====
section
/-! DEFINITION. The decoder (R44-R66), total on any 32-bit word, and the encoder written from the same tables.
The functions that build an `Instr` are marked `noncomputable`: Lean's compiler builds no value whose constructor's
number is above 244, and the table has 424 rows. The kernel evaluates them. -/

namespace Sys2Proof

/-- Bits [31:27], the major opcode (R44). -/
abbrev fMajor (w : Word) : BitVec 5 := w.extractLsb' 27 5
/-- Bits [26:20], the d field. -/
abbrev fD (w : Word) : Code := w.extractLsb' 20 7
/-- Bits [19:13], the a field of R-form and I-form. -/
abbrev fA (w : Word) : Code := w.extractLsb' 13 7
/-- Bits [12:6], the b field. -/
abbrev fB (w : Word) : Code := w.extractLsb' 6 7
/-- Bit 5, NW in R-form. -/
abbrev fNW (w : Word) : Bool := w.getLsbD 5
/-- Bits [4:0], the minor opcode of R-form. -/
abbrev fMinor (w : Word) : BitVec 5 := w.extractLsb' 0 5
/-- Bit 12, NW in I-form. -/
abbrev fINW (w : Word) : Bool := w.getLsbD 12
/-- Bits [11:0], the immediate of I-form. -/
abbrev fImm (w : Word) : BitVec 12 := w.extractLsb' 0 12
/-- Bits [26:24], the kind of B-form. -/
abbrev fKind (w : Word) : BitVec 3 := w.extractLsb' 24 3
/-- Bits [23:0], the offset of B-form. -/
abbrev fOff (w : Word) : BitVec 24 := w.extractLsb' 0 24
/-- Bits [19:14], the address pair of M-form. -/
abbrev fMA (w : Word) : BitVec 6 := w.extractLsb' 14 6
/-- Bit 13, X in M-form. -/
abbrev fX (w : Word) : BitVec 1 := w.extractLsb' 13 1
/-- Bits [5:3], the scope of M-form. -/
abbrev fScope (w : Word) : BitVec 3 := w.extractLsb' 3 3
/-- Bits [2:0], the size of M-form. -/
abbrev fSize (w : Word) : BitVec 3 := w.extractLsb' 0 3
/-- Bits [26:0], the payload of X-form. -/
abbrev fPay (w : Word) : BitVec 27 := w.extractLsb' 0 27

/-- An R-form word (R44). -/
def rWord (maj : BitVec 5) (d a b : Code) (nw : Bool) (mi : BitVec 5) : Word :=
  BitVec.ofNat 32 (maj.toNat * 2 ^ 27 + d.toNat * 2 ^ 20 + a.toNat * 2 ^ 13 + b.toNat * 2 ^ 6 + nw.toNat * 2 ^ 5 + mi.toNat)
/-- An I-form word (R44). -/
def iWord (maj : BitVec 5) (d a : Code) (nw : Bool) (imm : BitVec 12) : Word :=
  BitVec.ofNat 32 (maj.toNat * 2 ^ 27 + d.toNat * 2 ^ 20 + a.toNat * 2 ^ 13 + nw.toNat * 2 ^ 12 + imm.toNat)
/-- A B-form word (R44). -/
def bWord (k : BitVec 3) (off : BitVec 24) : Word :=
  BitVec.ofNat 32 (0x0B * 2 ^ 27 + k.toNat * 2 ^ 24 + off.toNat)
/-- An M-form word (R44). -/
def mWord (maj : BitVec 5) (d : Code) (a : BitVec 6) (x : BitVec 1) (b : Code) (sc sz : BitVec 3) : Word :=
  BitVec.ofNat 32 (maj.toNat * 2 ^ 27 + d.toNat * 2 ^ 20 + a.toNat * 2 ^ 14 + x.toNat * 2 ^ 13 + b.toNat * 2 ^ 6 +
    sc.toNat * 2 ^ 3 + sz.toNat)
/-- An X-form word (R44). -/
def xWord (pay : BitVec 27) : Word := BitVec.ofNat 32 (0x1F * 2 ^ 27 + pay.toNat)
/-- The word of `waitc` (R61). -/
def waitcWord (tv tw ts te tf : BitVec 4) : Word :=
  BitVec.ofNat 32 (0x0C * 2 ^ 27 + tv.toNat * 2 ^ 23 + tw.toNat * 2 ^ 19 + ts.toNat * 2 ^ 15 + te.toNat * 2 ^ 11 +
    tf.toNat * 2 ^ 7 + 0x04)

/-- Why a word is no instruction (R66). -/
inductive Reject where
  /-- Major 0x00 or 0x1A-0x1E, or an unallocated minor, kind, size or operation. -/
  | unallocated
  /-- A field the entry does not use is not zero (R46). -/
  | reservedField
  /-- A field holds a code or number that its position forbids (R47-R50, R61-R64). -/
  | operand
  deriving DecidableEq, Repr

/-- What a word decodes to: an instruction, or a rejection that says why. -/
inductive Decoded where
  | instr (i : Instr)
  | reject (r : Reject)
  deriving DecidableEq, Repr

/-- The instruction `i`, if the fields it leaves unused are zero (R46). -/
def need (c : Bool) (i : Instr) : Decoded := if c then .instr i else .reject .reservedField

/-- Major 0x01, vector integer (R60, R62, R64, R65). -/
def decodeMajor01 (w : Word) : Decoded :=
  match (fMinor w).toNat with
  | 0x00 => .instr (.addN32 (fD w) (fA w) (fB w) (fNW w))
  | 0x01 => .instr (.subN32 (fD w) (fA w) (fB w) (fNW w))
  | 0x02 => .instr (.mulN32 (fD w) (fA w) (fB w) (fNW w))
  | 0x03 => .instr (.mulhiS32 (fD w) (fA w) (fB w) (fNW w))
  | 0x04 => .instr (.mulhiN32 (fD w) (fA w) (fB w) (fNW w))
  | 0x05 => .instr (.madN32 (fD w) (fA w) (fB w) (fNW w))
  | 0x06 => .instr (.andN32 (fD w) (fA w) (fB w) (fNW w))
  | 0x07 => .instr (.orN32 (fD w) (fA w) (fB w) (fNW w))
  | 0x08 => .instr (.xorN32 (fD w) (fA w) (fB w) (fNW w))
  | 0x09 => .instr (.shlN32 (fD w) (fA w) (fB w) (fNW w))
  | 0x0A => .instr (.shrN32 (fD w) (fA w) (fB w) (fNW w))
  | 0x0B => .instr (.shrS32 (fD w) (fA w) (fB w) (fNW w))
  | 0x0C => .instr (.minS32 (fD w) (fA w) (fB w) (fNW w))
  | 0x0D => .instr (.minN32 (fD w) (fA w) (fB w) (fNW w))
  | 0x0E => .instr (.maxS32 (fD w) (fA w) (fB w) (fNW w))
  | 0x0F => .instr (.maxN32 (fD w) (fA w) (fB w) (fNW w))
  | 0x10 => .instr (.seqN32 (fD w) (fA w) (fB w) (fNW w))
  | 0x11 => .instr (.sltS32 (fD w) (fA w) (fB w) (fNW w))
  | 0x12 => .instr (.sltN32 (fD w) (fA w) (fB w) (fNW w))
  | 0x13 => .instr (.selN32 (fD w) (fA w) (fB w) (fNW w))
  | 0x14 => need (fB w == 0#7) (.popN32 (fD w) (fA w) (fNW w))
  | 0x15 => need (fB w == 0#7) (.clzN32 (fD w) (fA w) (fNW w))
  | 0x16 => need (fB w == 0#7) (.brevN32 (fD w) (fA w) (fNW w))
  | 0x17 => .instr (.addsS32 (fD w) (fA w) (fB w) (fNW w))
  | 0x18 => .instr (.subsS32 (fD w) (fA w) (fB w) (fNW w))
  | 0x19 => .instr (.addsN32 (fD w) (fA w) (fB w) (fNW w))
  | 0x1A => .instr (.subsN32 (fD w) (fA w) (fB w) (fNW w))
  | 0x1B => .instr (.bfxN32 (fD w) (fA w) (fB w) (fNW w))
  | 0x1C => .instr (.bfiN32 (fD w) (fA w) (fB w) (fNW w))
  | _ => .reject .unallocated

/-- Major 0x03, vector pair integer (R60, R62, R64, R65). -/
def decodeMajor03 (w : Word) : Decoded :=
  match (fMinor w).toNat with
  | 0x00 => .instr (.addN64 (fD w) (fA w) (fB w) (fNW w))
  | 0x01 => .instr (.subN64 (fD w) (fA w) (fB w) (fNW w))
  | 0x02 => .instr (.addxN64 (fD w) (fA w) (fB w) (fNW w))
  | 0x03 => .instr (.addxS64 (fD w) (fA w) (fB w) (fNW w))
  | 0x04 => .instr (.shlN64 (fD w) (fA w) (fB w) (fNW w))
  | 0x05 => .instr (.shrN64 (fD w) (fA w) (fB w) (fNW w))
  | 0x06 => .instr (.shrS64 (fD w) (fA w) (fB w) (fNW w))
  | 0x07 => .instr (.andN64 (fD w) (fA w) (fB w) (fNW w))
  | 0x08 => .instr (.orN64 (fD w) (fA w) (fB w) (fNW w))
  | 0x09 => .instr (.xorN64 (fD w) (fA w) (fB w) (fNW w))
  | 0x0A => .instr (.seqN64 (fD w) (fA w) (fB w) (fNW w))
  | 0x0B => .instr (.sltS64 (fD w) (fA w) (fB w) (fNW w))
  | 0x0C => .instr (.sltN64 (fD w) (fA w) (fB w) (fNW w))
  | 0x0D => .instr (.mulwN32 (fD w) (fA w) (fB w) (fNW w))
  | 0x0E => .instr (.mulwS32 (fD w) (fA w) (fB w) (fNW w))
  | _ => .reject .unallocated

/-- Major 0x08, wave integer (R60, R62, R64, R65). -/
def decodeMajor08 (w : Word) : Decoded :=
  match (fMinor w).toNat with
  | 0x00 => .instr (.waveAddN32 (fD w) (fA w) (fB w) (fNW w))
  | 0x01 => .instr (.waveSubN32 (fD w) (fA w) (fB w) (fNW w))
  | 0x02 => .instr (.waveMulN32 (fD w) (fA w) (fB w) (fNW w))
  | 0x03 => .instr (.waveMulhiS32 (fD w) (fA w) (fB w) (fNW w))
  | 0x04 => .instr (.waveMulhiN32 (fD w) (fA w) (fB w) (fNW w))
  | 0x05 => .instr (.waveMadN32 (fD w) (fA w) (fB w) (fNW w))
  | 0x06 => .instr (.waveAndN32 (fD w) (fA w) (fB w) (fNW w))
  | 0x07 => .instr (.waveOrN32 (fD w) (fA w) (fB w) (fNW w))
  | 0x08 => .instr (.waveXorN32 (fD w) (fA w) (fB w) (fNW w))
  | 0x09 => .instr (.waveShlN32 (fD w) (fA w) (fB w) (fNW w))
  | 0x0A => .instr (.waveShrN32 (fD w) (fA w) (fB w) (fNW w))
  | 0x0B => .instr (.waveShrS32 (fD w) (fA w) (fB w) (fNW w))
  | 0x0C => .instr (.waveMinS32 (fD w) (fA w) (fB w) (fNW w))
  | 0x0D => .instr (.waveMinN32 (fD w) (fA w) (fB w) (fNW w))
  | 0x0E => .instr (.waveMaxS32 (fD w) (fA w) (fB w) (fNW w))
  | 0x0F => .instr (.waveMaxN32 (fD w) (fA w) (fB w) (fNW w))
  | 0x10 => .instr (.waveSeqN32 (fD w) (fA w) (fB w) (fNW w))
  | 0x11 => .instr (.waveSltS32 (fD w) (fA w) (fB w) (fNW w))
  | 0x12 => .instr (.waveSltN32 (fD w) (fA w) (fB w) (fNW w))
  | 0x13 => .instr (.waveSelN32 (fD w) (fA w) (fB w) (fNW w))
  | 0x14 => need (fB w == 0#7) (.wavePopN32 (fD w) (fA w) (fNW w))
  | 0x15 => need (fB w == 0#7) (.waveClzN32 (fD w) (fA w) (fNW w))
  | 0x16 => need (fB w == 0#7) (.waveBrevN32 (fD w) (fA w) (fNW w))
  | 0x17 => .instr (.waveAddsS32 (fD w) (fA w) (fB w) (fNW w))
  | 0x18 => .instr (.waveSubsS32 (fD w) (fA w) (fB w) (fNW w))
  | 0x19 => .instr (.waveAddsN32 (fD w) (fA w) (fB w) (fNW w))
  | 0x1A => .instr (.waveSubsN32 (fD w) (fA w) (fB w) (fNW w))
  | 0x1B => .instr (.waveBfxN32 (fD w) (fA w) (fB w) (fNW w))
  | 0x1C => .instr (.waveBfiN32 (fD w) (fA w) (fB w) (fNW w))
  | 0x1D => .instr (.waveAddN64 (fD w) (fA w) (fB w) (fNW w))
  | 0x1E => .instr (.waveSubN64 (fD w) (fA w) (fB w) (fNW w))
  | 0x1F => .instr (.waveSltN64 (fD w) (fA w) (fB w) (fNW w))
  | _ => .reject .unallocated

/-- Major 0x04, vector f32, f16 and bf16 (R60, R62, R64, R65). -/
def decodeMajor04 (w : Word) : Decoded :=
  match (fMinor w).toNat with
  | 0x00 => .instr (.addF32 (fD w) (fA w) (fB w) (fNW w))
  | 0x01 => .instr (.addF32Rne (fD w) (fA w) (fB w) (fNW w))
  | 0x02 => .instr (.addF32Rtz (fD w) (fA w) (fB w) (fNW w))
  | 0x03 => .instr (.addF32Rup (fD w) (fA w) (fB w) (fNW w))
  | 0x04 => .instr (.addF32Rdn (fD w) (fA w) (fB w) (fNW w))
  | 0x05 => .instr (.subF32 (fD w) (fA w) (fB w) (fNW w))
  | 0x06 => .instr (.subF32Rne (fD w) (fA w) (fB w) (fNW w))
  | 0x07 => .instr (.subF32Rtz (fD w) (fA w) (fB w) (fNW w))
  | 0x08 => .instr (.subF32Rup (fD w) (fA w) (fB w) (fNW w))
  | 0x09 => .instr (.subF32Rdn (fD w) (fA w) (fB w) (fNW w))
  | 0x0A => .instr (.mulF32 (fD w) (fA w) (fB w) (fNW w))
  | 0x0B => .instr (.mulF32Rne (fD w) (fA w) (fB w) (fNW w))
  | 0x0C => .instr (.mulF32Rtz (fD w) (fA w) (fB w) (fNW w))
  | 0x0D => .instr (.mulF32Rup (fD w) (fA w) (fB w) (fNW w))
  | 0x0E => .instr (.mulF32Rdn (fD w) (fA w) (fB w) (fNW w))
  | 0x0F => .instr (.fmaF32 (fD w) (fA w) (fB w) (fNW w))
  | 0x10 => .instr (.fmaF32Rne (fD w) (fA w) (fB w) (fNW w))
  | 0x11 => .instr (.fmaF32Rtz (fD w) (fA w) (fB w) (fNW w))
  | 0x12 => .instr (.fmaF32Rup (fD w) (fA w) (fB w) (fNW w))
  | 0x13 => .instr (.fmaF32Rdn (fD w) (fA w) (fB w) (fNW w))
  | 0x14 => .instr (.minF32 (fD w) (fA w) (fB w) (fNW w))
  | 0x15 => .instr (.maxF32 (fD w) (fA w) (fB w) (fNW w))
  | 0x16 => .instr (.ceqF32 (fD w) (fA w) (fB w) (fNW w))
  | 0x17 => .instr (.cltF32 (fD w) (fA w) (fB w) (fNW w))
  | 0x18 => .instr (.cleF32 (fD w) (fA w) (fB w) (fNW w))
  | 0x19 => .instr (.cunF32 (fD w) (fA w) (fB w) (fNW w))
  | 0x1A => .instr (.addF16 (fD w) (fA w) (fB w) (fNW w))
  | 0x1B => .instr (.mulF16 (fD w) (fA w) (fB w) (fNW w))
  | 0x1C => .instr (.fmaF16 (fD w) (fA w) (fB w) (fNW w))
  | 0x1D => .instr (.addBf16 (fD w) (fA w) (fB w) (fNW w))
  | 0x1E => .instr (.mulBf16 (fD w) (fA w) (fB w) (fNW w))
  | 0x1F => .instr (.fmaBf16 (fD w) (fA w) (fB w) (fNW w))
  | _ => .reject .unallocated

/-- Major 0x05, vector f64 (R60, R62, R64, R65). -/
def decodeMajor05 (w : Word) : Decoded :=
  match (fMinor w).toNat with
  | 0x00 => .instr (.addF64 (fD w) (fA w) (fB w) (fNW w))
  | 0x01 => .instr (.addF64Rne (fD w) (fA w) (fB w) (fNW w))
  | 0x02 => .instr (.addF64Rtz (fD w) (fA w) (fB w) (fNW w))
  | 0x03 => .instr (.addF64Rup (fD w) (fA w) (fB w) (fNW w))
  | 0x04 => .instr (.addF64Rdn (fD w) (fA w) (fB w) (fNW w))
  | 0x05 => .instr (.subF64 (fD w) (fA w) (fB w) (fNW w))
  | 0x06 => .instr (.subF64Rne (fD w) (fA w) (fB w) (fNW w))
  | 0x07 => .instr (.subF64Rtz (fD w) (fA w) (fB w) (fNW w))
  | 0x08 => .instr (.subF64Rup (fD w) (fA w) (fB w) (fNW w))
  | 0x09 => .instr (.subF64Rdn (fD w) (fA w) (fB w) (fNW w))
  | 0x0A => .instr (.mulF64 (fD w) (fA w) (fB w) (fNW w))
  | 0x0B => .instr (.mulF64Rne (fD w) (fA w) (fB w) (fNW w))
  | 0x0C => .instr (.mulF64Rtz (fD w) (fA w) (fB w) (fNW w))
  | 0x0D => .instr (.mulF64Rup (fD w) (fA w) (fB w) (fNW w))
  | 0x0E => .instr (.mulF64Rdn (fD w) (fA w) (fB w) (fNW w))
  | 0x0F => .instr (.fmaF64 (fD w) (fA w) (fB w) (fNW w))
  | 0x10 => .instr (.fmaF64Rne (fD w) (fA w) (fB w) (fNW w))
  | 0x11 => .instr (.fmaF64Rtz (fD w) (fA w) (fB w) (fNW w))
  | 0x12 => .instr (.fmaF64Rup (fD w) (fA w) (fB w) (fNW w))
  | 0x13 => .instr (.fmaF64Rdn (fD w) (fA w) (fB w) (fNW w))
  | 0x14 => .instr (.minF64 (fD w) (fA w) (fB w) (fNW w))
  | 0x15 => .instr (.maxF64 (fD w) (fA w) (fB w) (fNW w))
  | 0x16 => .instr (.ceqF64 (fD w) (fA w) (fB w) (fNW w))
  | 0x17 => .instr (.cltF64 (fD w) (fA w) (fB w) (fNW w))
  | 0x18 => .instr (.cleF64 (fD w) (fA w) (fB w) (fNW w))
  | 0x19 => .instr (.cunF64 (fD w) (fA w) (fB w) (fNW w))
  | 0x1A => need (fB w == 0#7) (.absF64 (fD w) (fA w) (fNW w))
  | 0x1B => need (fB w == 0#7) (.negF64 (fD w) (fA w) (fNW w))
  | 0x1C => need (fB w == 0#7) (.classF64 (fD w) (fA w) (fNW w))
  | _ => .reject .unallocated

/-- Major 0x06, special functions (R60, R62, R64, R65). -/
def decodeMajor06 (w : Word) : Decoded :=
  match (fMinor w).toNat with
  | 0x00 => .instr (.divF32 (fD w) (fA w) (fB w) (fNW w))
  | 0x01 => need (fB w == 0#7) (.sqrtF32 (fD w) (fA w) (fNW w))
  | 0x02 => need (fB w == 0#7) (.rcpF32 (fD w) (fA w) (fNW w))
  | 0x03 => need (fB w == 0#7) (.rsqF32 (fD w) (fA w) (fNW w))
  | 0x04 => need (fB w == 0#7) (.exp2F32 (fD w) (fA w) (fNW w))
  | 0x05 => need (fB w == 0#7) (.log2F32 (fD w) (fA w) (fNW w))
  | 0x06 => need (fB w == 0#7) (.sinpiF32 (fD w) (fA w) (fNW w))
  | 0x07 => need (fB w == 0#7) (.cospiF32 (fD w) (fA w) (fNW w))
  | 0x08 => need (fB w == 0#7) (.absF32 (fD w) (fA w) (fNW w))
  | 0x09 => need (fB w == 0#7) (.negF32 (fD w) (fA w) (fNW w))
  | 0x0A => need (fB w == 0#7) (.classF32 (fD w) (fA w) (fNW w))
  | 0x0B => need (fB w == 0#7) (.absF16 (fD w) (fA w) (fNW w))
  | 0x0C => need (fB w == 0#7) (.negF16 (fD w) (fA w) (fNW w))
  | 0x0D => need (fB w == 0#7) (.absBf16 (fD w) (fA w) (fNW w))
  | 0x0E => need (fB w == 0#7) (.negBf16 (fD w) (fA w) (fNW w))
  | 0x10 => .instr (.divF64 (fD w) (fA w) (fB w) (fNW w))
  | 0x11 => need (fB w == 0#7) (.sqrtF64 (fD w) (fA w) (fNW w))
  | 0x12 => need (fB w == 0#7) (.rcpF64 (fD w) (fA w) (fNW w))
  | 0x13 => need (fB w == 0#7) (.rsqF64 (fD w) (fA w) (fNW w))
  | 0x14 => need (fB w == 0#7) (.exp2F64 (fD w) (fA w) (fNW w))
  | 0x15 => need (fB w == 0#7) (.log2F64 (fD w) (fA w) (fNW w))
  | _ => .reject .unallocated

/-- Major 0x07, conversions (R60, R62, R64, R65). -/
def decodeMajor07 (w : Word) : Decoded :=
  match (fMinor w).toNat with
  | 0x00 => .instr (.cnvF64F32 (fD w) (fA w) (fB w) (fNW w))
  | 0x01 => need (fB w == 0#7) (.cnvF32F64 (fD w) (fA w) (fNW w))
  | 0x02 => .instr (.cnvF32F16 (fD w) (fA w) (fB w) (fNW w))
  | 0x03 => need (fB w == 0#7) (.cnvF16F32 (fD w) (fA w) (fNW w))
  | 0x04 => .instr (.cnvF32Bf16 (fD w) (fA w) (fB w) (fNW w))
  | 0x05 => need (fB w == 0#7) (.cnvBf16F32 (fD w) (fA w) (fNW w))
  | 0x06 => .instr (.cnvF64F16 (fD w) (fA w) (fB w) (fNW w))
  | 0x07 => .instr (.cnvF64Bf16 (fD w) (fA w) (fB w) (fNW w))
  | 0x08 => .instr (.cnvF32S32 (fD w) (fA w) (fB w) (fNW w))
  | 0x09 => .instr (.cnvF32N32 (fD w) (fA w) (fB w) (fNW w))
  | 0x0A => .instr (.cnvS32F32 (fD w) (fA w) (fB w) (fNW w))
  | 0x0B => .instr (.cnvN32F32 (fD w) (fA w) (fB w) (fNW w))
  | 0x0C => .instr (.cnvF64S32 (fD w) (fA w) (fB w) (fNW w))
  | 0x0D => .instr (.cnvF64N32 (fD w) (fA w) (fB w) (fNW w))
  | 0x0E => need (fB w == 0#7) (.cnvS32F64 (fD w) (fA w) (fNW w))
  | 0x0F => need (fB w == 0#7) (.cnvN32F64 (fD w) (fA w) (fNW w))
  | 0x10 => .instr (.cnvF64S64 (fD w) (fA w) (fB w) (fNW w))
  | 0x11 => .instr (.cnvF64N64 (fD w) (fA w) (fB w) (fNW w))
  | 0x12 => .instr (.cnvS64F64 (fD w) (fA w) (fB w) (fNW w))
  | 0x13 => .instr (.cnvN64F64 (fD w) (fA w) (fB w) (fNW w))
  | 0x14 => .instr (.cnvS64F32 (fD w) (fA w) (fB w) (fNW w))
  | 0x15 => .instr (.cnvN64F32 (fD w) (fA w) (fB w) (fNW w))
  | 0x16 => .instr (.cnvS32S16 (fD w) (fA w) (fB w) (fNW w))
  | 0x17 => .instr (.cnvS32N16 (fD w) (fA w) (fB w) (fNW w))
  | 0x18 => .instr (.cnvS32S8 (fD w) (fA w) (fB w) (fNW w))
  | 0x19 => .instr (.cnvS32N8 (fD w) (fA w) (fB w) (fNW w))
  | 0x1A => need (fB w == 0#7) (.cnvS32S64 (fD w) (fA w) (fNW w))
  | 0x1B => need (fB w == 0#7) (.cnvN32N64 (fD w) (fA w) (fNW w))
  | 0x1C => .instr (.rintF32 (fD w) (fA w) (fB w) (fNW w))
  | 0x1D => .instr (.rintF64 (fD w) (fA w) (fB w) (fNW w))
  | _ => .reject .unallocated

/-- Major 0x0A, lane and mask (R60, R62, R64, R65). -/
def decodeMajor0A (w : Word) : Decoded :=
  match (fMinor w).toNat with
  | 0x00 => need (fB w == 0#7 && !fNW w) (.ballot (fD w) (fA w))
  | 0x01 => need (fB w == 0#7) (.vany (fD w) (fA w) (fNW w))
  | 0x02 => need (fB w == 0#7) (.vall (fD w) (fA w) (fNW w))
  | 0x03 => need (fB w == 0#7) (.mpop (fD w) (fA w) (fNW w))
  | 0x04 => need (fB w == 0#7) (.mffs (fD w) (fA w) (fNW w))
  | 0x05 => .instr (.lsel (fD w) (fA w) (fB w) (fNW w))
  | 0x06 => .instr (.lbck (fD w) (fA w) (fB w) (fNW w))
  | 0x07 => .instr (.lfwd (fD w) (fA w) (fB w) (fNW w))
  | 0x08 => .instr (.lmir (fD w) (fA w) (fB w) (fNW w))
  | 0x09 => .instr (.bcast (fD w) (fA w) (fB w) (fNW w))
  | 0x0A => need (fB w == 0#7) (.scanN32 (fD w) (fA w) (fNW w))
  | 0x0B => need (fB w == 0#7) (.xscanN32 (fD w) (fA w) (fNW w))
  | 0x0C => need (fB w == 0#7) (.redaddN32 (fD w) (fA w) (fNW w))
  | 0x0D => need (fB w == 0#7) (.redminS32 (fD w) (fA w) (fNW w))
  | 0x0E => need (fB w == 0#7) (.redmaxS32 (fD w) (fA w) (fNW w))
  | 0x0F => need (fB w == 0#7) (.redandN32 (fD w) (fA w) (fNW w))
  | 0x10 => need (fB w == 0#7) (.redorN32 (fD w) (fA w) (fNW w))
  | 0x11 => need (fB w == 0#7) (.redaddF32 (fD w) (fA w) (fNW w))
  | _ => .reject .unallocated

/-- Major 0x0B, branches (R60, R62, R64, R65). -/
def decodeMajor0B (w : Word) : Decoded :=
  match (fKind w).toNat with
  | 0 => .instr (.br (fOff w))
  | 1 => .instr (.bz (fOff w))
  | 2 => .instr (.bnz (fOff w))
  | 3 => .instr (.call (fOff w))
  | 4 => .instr (.split (fOff w))
  | 5 => .instr (.bl (fOff w))
  | 6 => .instr (.brk (fOff w))
  | _ => .reject .unallocated

/-- Major 0x0C, control (R60, R62, R64, R65). -/
def decodeMajor0C (w : Word) : Decoded :=
  match (fMinor w).toNat with
  | 0x00 => need (fD w == 0#7 && fA w == 0#7 && fB w == 0#7 && !fNW w) (.join)
  | 0x01 => need (fD w == 0#7 && fA w == 0#7 && fB w == 0#7 && !fNW w) (.ret)
  | 0x02 => need (fD w == 0#7 && fB w == 0#7 && !fNW w) (.jr (fA w))
  | 0x03 => need (fB w == 0#7 && !fNW w) (.jalr (fD w) (fA w))
  | 0x04 => need (w.extractLsb' 5 2 == 0#2) (.waitc (w.extractLsb' 23 4) (w.extractLsb' 19 4) (w.extractLsb' 15 4) (w.extractLsb' 11 4) (w.extractLsb' 7 4))
  | 0x05 => need (fD w == 0#7 && fA w == 0#7 && fB w == 0#7 && !fNW w) (.yield)
  | 0x06 => need (fD w == 0#7 && fA w == 0#7 && fB w == 0#7 && !fNW w) (.exit)
  | _ => .reject .unallocated

/-- Major 0x0D, system (R60, R62, R64, R65). -/
def decodeMajor0D (w : Word) : Decoded :=
  match (fMinor w).toNat with
  | 0x00 => need (fD w == 0#7 && fA w == 0#7 && !fNW w) (.svc (fB w))
  | 0x01 => need (fD w == 0#7 && fA w == 0#7 && !fNW w) (.trap (fB w))
  | 0x02 => need (fD w == 0#7 && fA w == 0#7 && fB w == 0#7 && !fNW w) (.eret)
  | 0x03 => need (fA w == 0#7) (.rsr (fD w) (fB w) (fNW w))
  | 0x04 => need (fD w == 0#7 && !fNW w) (.wsr (fA w) (fB w))
  | 0x05 => need (fA w == 0#7) (.vrsr (fD w) (fB w) (fNW w))
  | 0x06 => need (fD w == 0#7 && !fNW w) (.vwsr (fA w) (fB w))
  | 0x07 => need (fA w == 0#7 && fB w == 0#7) (.clk (fD w) (fNW w))
  | 0x08 => need (fD w == 0#7 && fA w == 0#7 && !fNW w) (.win (fB w))
  | 0x09 => need (fD w == 0#7 && fA w == 0#7 && !fNW w) (.leave (fB w))
  | _ => .reject .unallocated

/-- Major 0x0E, loads (R60, R62, R64, R65). -/
noncomputable
def decodeMajor0E (w : Word) : Decoded :=
  match (fX w).toNat * 8 + (fSize w).toNat with
  | 0 => .instr (.ldN8 (fD w) (fMA w) (fB w) (fScope w))
  | 1 => .instr (.ldS8 (fD w) (fMA w) (fB w) (fScope w))
  | 2 => .instr (.ldN16 (fD w) (fMA w) (fB w) (fScope w))
  | 3 => .instr (.ldS16 (fD w) (fMA w) (fB w) (fScope w))
  | 4 => .instr (.ld32 (fD w) (fMA w) (fB w) (fScope w))
  | 5 => .instr (.ld64 (fD w) (fMA w) (fB w) (fScope w))
  | 8 => .instr (.ldUniN8 (fD w) (fMA w) (fB w) (fScope w))
  | 9 => .instr (.ldUniS8 (fD w) (fMA w) (fB w) (fScope w))
  | 10 => .instr (.ldUniN16 (fD w) (fMA w) (fB w) (fScope w))
  | 11 => .instr (.ldUniS16 (fD w) (fMA w) (fB w) (fScope w))
  | 12 => .instr (.ldUni32 (fD w) (fMA w) (fB w) (fScope w))
  | 13 => .instr (.ldUni64 (fD w) (fMA w) (fB w) (fScope w))
  | _ => .reject .unallocated

/-- Major 0x0F, stores (R60, R62, R64, R65). -/
noncomputable
def decodeMajor0F (w : Word) : Decoded :=
  match (fX w).toNat * 8 + (fSize w).toNat with
  | 0 => .instr (.st8 (fD w) (fMA w) (fB w) (fScope w))
  | 1 => .instr (.st16 (fD w) (fMA w) (fB w) (fScope w))
  | 2 => .instr (.st32 (fD w) (fMA w) (fB w) (fScope w))
  | 3 => .instr (.st64 (fD w) (fMA w) (fB w) (fScope w))
  | 8 => .instr (.stUni8 (fD w) (fMA w) (fB w) (fScope w))
  | 9 => .instr (.stUni16 (fD w) (fMA w) (fB w) (fScope w))
  | 10 => .instr (.stUni32 (fD w) (fMA w) (fB w) (fScope w))
  | 11 => .instr (.stUni64 (fD w) (fMA w) (fB w) (fScope w))
  | 4 => need (fB w == 0#7) (.stcN32 (fD w) (fMA w) (fScope w))
  | 5 => need (fB w == 0#7) (.stcN64 (fD w) (fMA w) (fScope w))
  | _ => .reject .unallocated

/-- Major 0x10, atomics (R60, R62, R64, R65). -/
noncomputable
def decodeMajor10 (w : Word) : Decoded :=
  match (fX w).toNat * 8 + (fSize w).toNat with
  | 0 => .instr (.amaddN32 (fD w) (fMA w) (fB w) (fScope w))
  | 1 => .instr (.amaddN64 (fD w) (fMA w) (fB w) (fScope w))
  | 2 => .instr (.amaddF32 (fD w) (fMA w) (fB w) (fScope w))
  | 3 => .instr (.amaddF64 (fD w) (fMA w) (fB w) (fScope w))
  | 4 => .instr (.amminS32 (fD w) (fMA w) (fB w) (fScope w))
  | 5 => .instr (.ammaxS32 (fD w) (fMA w) (fB w) (fScope w))
  | 6 => .instr (.amminN32 (fD w) (fMA w) (fB w) (fScope w))
  | 7 => .instr (.ammaxN32 (fD w) (fMA w) (fB w) (fScope w))
  | 8 => .instr (.amandN32 (fD w) (fMA w) (fB w) (fScope w))
  | 9 => .instr (.amorN32 (fD w) (fMA w) (fB w) (fScope w))
  | 10 => .instr (.amxorN32 (fD w) (fMA w) (fB w) (fScope w))
  | 11 => .instr (.amswpN32 (fD w) (fMA w) (fB w) (fScope w))
  | 12 => .instr (.amswpN64 (fD w) (fMA w) (fB w) (fScope w))
  | 13 => .instr (.amcasN32 (fD w) (fMA w) (fB w) (fScope w))
  | 14 => .instr (.amcasN64 (fD w) (fMA w) (fB w) (fScope w))
  | _ => .reject .unallocated

/-- Major 0x11, fences and cache operations (R60, R62, R64, R65). -/
noncomputable
def decodeMajor11 (w : Word) : Decoded :=
  match (fX w).toNat * 8 + (fSize w).toNat with
  | 0 => need (w.extractLsb' 24 3 == 0#3 && fMA w == 0#6 && fB w == 0#7) (.fence (w.extractLsb' 20 4) (fScope w))
  | 1 => need (fD w == 0#7) (.cwb (fMA w) (fB w) (fScope w))
  | 2 => need (fD w == 0#7) (.cinv (fMA w) (fB w) (fScope w))
  | 3 => need (fD w == 0#7) (.cinvd (fMA w) (fB w) (fScope w))
  | 4 => need (fD w == 0#7) (.pref (fMA w) (fB w) (fScope w))
  | _ => .reject .unallocated

/-- Major 0x12, accumulation sessions (R60, R62, R64, R65). -/
noncomputable
def decodeMajor12 (w : Word) : Decoded :=
  match (fMinor w).toNat with
  | 0x00 => need (!fNW w) (.aopen (fD w) (fA w) (fB w))
  | 0x01 => need (!fNW w) (.aopennb (fD w) (fA w) (fB w))
  | 0x02 => need (!fNW w) (.aredF32 (fD w) (fA w) (fB w))
  | 0x03 => need (!fNW w) (.aredF64 (fD w) (fA w) (fB w))
  | 0x04 => need (!fNW w) (.aredS32 (fD w) (fA w) (fB w))
  | 0x05 => need (!fNW w) (.aredS64 (fD w) (fA w) (fB w))
  | 0x06 => need (fB w == 0#7 && !fNW w) (.aseal (fD w) (fA w))
  | 0x07 => need (fB w == 0#7 && !fNW w) (.asnap (fD w) (fA w))
  | 0x08 => need (fB w == 0#7 && !fNW w) (.aqry (fD w) (fA w))
  | _ => .reject .unallocated

/-- Major 0x13, matrix engine (R60, R62, R64, R65). -/
noncomputable
def decodeMajor13 (w : Word) : Decoded :=
  match (fMinor w).toNat with
  | 0x00 => need (!fNW w) (.mmaF64 (fD w) (fA w) (fB w))
  | 0x01 => need (!fNW w) (.mmaF32 (fD w) (fA w) (fB w))
  | 0x02 => need (!fNW w) (.mmaF16 (fD w) (fA w) (fB w))
  | 0x03 => need (!fNW w) (.mmaBf16 (fD w) (fA w) (fB w))
  | 0x04 => need (!fNW w) (.mmaE4m3 (fD w) (fA w) (fB w))
  | 0x05 => need (!fNW w) (.mmaE5m2 (fD w) (fA w) (fB w))
  | 0x06 => need (!fNW w) (.mmaE3m2 (fD w) (fA w) (fB w))
  | 0x07 => need (!fNW w) (.mmaE2m3 (fD w) (fA w) (fB w))
  | 0x08 => need (!fNW w) (.mmaE2m1 (fD w) (fA w) (fB w))
  | 0x09 => need (!fNW w) (.mmaMxi8 (fD w) (fA w) (fB w))
  | 0x0A => need (!fNW w) (.mmaE4m3E5m2 (fD w) (fA w) (fB w))
  | 0x0B => need (!fNW w) (.mmaE5m2E4m3 (fD w) (fA w) (fB w))
  | 0x0C => need (!fNW w) (.mmaE3m2E2m3 (fD w) (fA w) (fB w))
  | 0x0D => need (!fNW w) (.mmaE2m3E3m2 (fD w) (fA w) (fB w))
  | 0x10 => need (!fNW w) (.mmafF64 (fD w) (fA w) (fB w))
  | 0x11 => need (!fNW w) (.mmafF32 (fD w) (fA w) (fB w))
  | 0x12 => need (!fNW w) (.mmafF16 (fD w) (fA w) (fB w))
  | 0x13 => need (!fNW w) (.mmafBf16 (fD w) (fA w) (fB w))
  | 0x14 => need (!fNW w) (.mmafE4m3 (fD w) (fA w) (fB w))
  | 0x15 => need (!fNW w) (.mmafE5m2 (fD w) (fA w) (fB w))
  | 0x16 => need (!fNW w) (.mmafE3m2 (fD w) (fA w) (fB w))
  | 0x17 => need (!fNW w) (.mmafE2m3 (fD w) (fA w) (fB w))
  | 0x18 => need (!fNW w) (.mmafE2m1 (fD w) (fA w) (fB w))
  | 0x19 => need (!fNW w) (.mmafMxi8 (fD w) (fA w) (fB w))
  | 0x1A => need (!fNW w) (.mmafE4m3E5m2 (fD w) (fA w) (fB w))
  | 0x1B => need (!fNW w) (.mmafE5m2E4m3 (fD w) (fA w) (fB w))
  | 0x1C => need (!fNW w) (.mmafE3m2E2m3 (fD w) (fA w) (fB w))
  | 0x1D => need (!fNW w) (.mmafE2m3E3m2 (fD w) (fA w) (fB w))
  | _ => .reject .unallocated

/-- Major 0x14, MX conversion (R60, R62, R64, R65). -/
noncomputable
def decodeMajor14 (w : Word) : Decoded :=
  match (fMinor w).toNat with
  | 0x00 => need (!fNW w) (.cvtmxE4m3F32 (fD w) (fA w) (fB w))
  | 0x01 => need (!fNW w) (.cvtmxE5m2F32 (fD w) (fA w) (fB w))
  | 0x02 => need (!fNW w) (.cvtmxE3m2F32 (fD w) (fA w) (fB w))
  | 0x03 => need (!fNW w) (.cvtmxE2m3F32 (fD w) (fA w) (fB w))
  | 0x04 => need (!fNW w) (.cvtmxE2m1F32 (fD w) (fA w) (fB w))
  | 0x05 => need (!fNW w) (.cvtmxMxi8F32 (fD w) (fA w) (fB w))
  | 0x06 => need (!fNW w) (.dqmxE4m3F32 (fD w) (fA w) (fB w))
  | 0x07 => need (!fNW w) (.dqmxE5m2F32 (fD w) (fA w) (fB w))
  | 0x08 => need (!fNW w) (.dqmxE3m2F32 (fD w) (fA w) (fB w))
  | 0x09 => need (!fNW w) (.dqmxE2m3F32 (fD w) (fA w) (fB w))
  | 0x0A => need (!fNW w) (.dqmxE2m1F32 (fD w) (fA w) (fB w))
  | 0x0B => need (!fNW w) (.dqmxMxi8F32 (fD w) (fA w) (fB w))
  | 0x0C => need (fB w == 0#7 && !fNW w) (.scaccF32 (fD w) (fA w))
  | 0x0D => need (fB w == 0#7 && !fNW w) (.scaccF64 (fD w) (fA w))
  | 0x0E => need (fB w == 0#7 && !fNW w) (.amxrd (fD w) (fA w))
  | 0x0F => need (fD w == 0#7 && fB w == 0#7 && !fNW w) (.amxclr (fA w))
  | _ => .reject .unallocated

/-- Major 0x15, function store (R60, R62, R64, R65). -/
noncomputable
def decodeMajor15 (w : Word) : Decoded :=
  match (fMinor w).toNat with
  | 0x00 => need (fD w == 0#7 && !fNW w) (.fdef (fA w) (fB w))
  | 0x01 => need (!fNW w) (.fcall (fD w) (fA w) (fB w))
  | 0x02 => need (fD w == 0#7 && !fNW w) (.fret (fA w) (fB w))
  | 0x03 => need (fD w == 0#7 && fA w == 0#7 && !fNW w) (.finv (fB w))
  | 0x04 => need (!fNW w) (.fstat (fD w) (fA w) (fB w))
  | 0x05 => need (fD w == 0#7 && !fNW w) (.fpre (fA w) (fB w))
  | _ => .reject .unallocated

/-- Major 0x16, transfer engine (R60, R62, R64, R65). -/
noncomputable
def decodeMajor16 (w : Word) : Decoded :=
  match (fMinor w).toNat with
  | 0x00 => need (fD w == 0#7 && !fNW w) (.copy (fA w) (fB w))
  | 0x01 => need (fD w == 0#7 && !fNW w) (.copybox (fA w) (fB w))
  | 0x02 => need (fD w == 0#7 && !fNW w) (.copyred (fA w) (fB w))
  | 0x03 => need (fA w == 0#7 && fB w == 0#7 && !fNW w) (.cseal (fD w))
  | 0x04 => need (fD w == 0#7 && fB w == 0#7 && !fNW w) (.cwait (fA w))
  | 0x05 => need (fD w == 0#7 && fB w == 0#7 && !fNW w) (.twaitany (fA w))
  | 0x06 => need (fD w == 0#7 && fB w == 0#7 && !fNW w) (.twaitall (fA w))
  | 0x07 => need (fB w == 0#7 && !fNW w) (.tffr (fD w) (fA w))
  | _ => .reject .unallocated

/-- Major 0x17, grid transfer (R60, R62, R64, R65). -/
noncomputable
def decodeMajor17 (w : Word) : Decoded :=
  match (fMinor w).toNat with
  | 0x00 => need (fB w == 0#7 && !fNW w) (.gview (fD w) (fA w))
  | 0x01 => need (!fNW w) (.gstn (fD w) (fA w) (fB w))
  | 0x02 => need (fD w == 0#7 && !fNW w) (.grst (fA w) (fB w))
  | 0x03 => need (fD w == 0#7 && !fNW w) (.gprol (fA w) (fB w))
  | 0x04 => need (fD w == 0#7 && !fNW w) (.gproladd (fA w) (fB w))
  | 0x05 => need (fD w == 0#7 && !fNW w) (.gred (fA w) (fB w))
  | _ => .reject .unallocated

/-- Major 0x18, barriers, streams and tags (R60, R62, R64, R65). -/
noncomputable
def decodeMajor18 (w : Word) : Decoded :=
  match (fMinor w).toNat with
  | 0x00 => need (fB w == 0#7 && !fNW w) (.binit (fD w) (fA w))
  | 0x01 => need (fA w == 0#7 && fB w == 0#7 && !fNW w) (.barv (fD w))
  | 0x02 => need (fA w == 0#7 && fB w == 0#7 && !fNW w) (.bwait (fD w))
  | 0x03 => need (fB w == 0#7 && !fNW w) (.bexp (fD w) (fA w))
  | 0x04 => need (fA w == 0#7 && !fNW w) (.spop (fD w) (fB w))
  | 0x05 => need (!fNW w) (.spush (fD w) (fA w) (fB w))
  | 0x06 => need (fD w == 0#7 && fB w == 0#7 && !fNW w) (.tagclr (fA w))
  | 0x07 => need (fA w == 0#7 && fB w == 0#7 && !fNW w) (.tagrd (fD w))
  | _ => .reject .unallocated

/-- Major 0x19, launch and synchronisation (R60, R62, R64, R65). -/
noncomputable
def decodeMajor19 (w : Word) : Decoded :=
  match (fMinor w).toNat with
  | 0x00 => need (fB w == 0#7 && !fNW w) (.launch (fD w) (fA w))
  | 0x01 => need (fD w == 0#7 && !fNW w) (.dwait (fA w) (fB w))
  | 0x02 => need (fD w == 0#7 && fA w == 0#7 && fB w == 0#7 && !fNW w) (.gbar)
  | _ => .reject .unallocated

/-- The instruction a word names, before its operand codes are checked (R57). -/
noncomputable
def decodeFields (w : Word) : Decoded :=
  match (fMajor w).toNat with
  | 0x1F => .instr (.lit (fPay w))
  | 0x01 => decodeMajor01 w
  | 0x02 => .instr (.addImmN32 (fD w) (fA w) (fINW w) (fImm w))
  | 0x09 => .instr (.waveAddImmN32 (fD w) (fA w) (fINW w) (fImm w))
  | 0x03 => decodeMajor03 w
  | 0x08 => decodeMajor08 w
  | 0x04 => decodeMajor04 w
  | 0x05 => decodeMajor05 w
  | 0x06 => decodeMajor06 w
  | 0x07 => decodeMajor07 w
  | 0x0A => decodeMajor0A w
  | 0x0B => decodeMajor0B w
  | 0x0C => decodeMajor0C w
  | 0x0D => decodeMajor0D w
  | 0x0E => decodeMajor0E w
  | 0x0F => decodeMajor0F w
  | 0x10 => decodeMajor10 w
  | 0x11 => decodeMajor11 w
  | 0x12 => decodeMajor12 w
  | 0x13 => decodeMajor13 w
  | 0x14 => decodeMajor14 w
  | 0x15 => decodeMajor15 w
  | 0x16 => decodeMajor16 w
  | 0x17 => decodeMajor17 w
  | 0x18 => decodeMajor18 w
  | 0x19 => decodeMajor19 w
  | _ => .reject .unallocated

/-- The instruction a word names, or why it is none (R66). -/
noncomputable
def decodeWord (w : Word) : Decoded :=
  match decodeFields w with
  | .instr i => if i.wellFormed then .instr i else .reject .operand
  | .reject r => .reject r

/-- The word of an instruction (R44, R60-R65); an event has none. -/
def encode : Instr → Option Word
  | .lit pay => some (xWord pay)
  | .addN32 d a b nw => some (rWord 0x01#5 d a b nw 0x00#5)
  | .subN32 d a b nw => some (rWord 0x01#5 d a b nw 0x01#5)
  | .mulN32 d a b nw => some (rWord 0x01#5 d a b nw 0x02#5)
  | .mulhiS32 d a b nw => some (rWord 0x01#5 d a b nw 0x03#5)
  | .mulhiN32 d a b nw => some (rWord 0x01#5 d a b nw 0x04#5)
  | .madN32 d a b nw => some (rWord 0x01#5 d a b nw 0x05#5)
  | .andN32 d a b nw => some (rWord 0x01#5 d a b nw 0x06#5)
  | .orN32 d a b nw => some (rWord 0x01#5 d a b nw 0x07#5)
  | .xorN32 d a b nw => some (rWord 0x01#5 d a b nw 0x08#5)
  | .shlN32 d a b nw => some (rWord 0x01#5 d a b nw 0x09#5)
  | .shrN32 d a b nw => some (rWord 0x01#5 d a b nw 0x0A#5)
  | .shrS32 d a b nw => some (rWord 0x01#5 d a b nw 0x0B#5)
  | .minS32 d a b nw => some (rWord 0x01#5 d a b nw 0x0C#5)
  | .minN32 d a b nw => some (rWord 0x01#5 d a b nw 0x0D#5)
  | .maxS32 d a b nw => some (rWord 0x01#5 d a b nw 0x0E#5)
  | .maxN32 d a b nw => some (rWord 0x01#5 d a b nw 0x0F#5)
  | .seqN32 d a b nw => some (rWord 0x01#5 d a b nw 0x10#5)
  | .sltS32 d a b nw => some (rWord 0x01#5 d a b nw 0x11#5)
  | .sltN32 d a b nw => some (rWord 0x01#5 d a b nw 0x12#5)
  | .selN32 d a b nw => some (rWord 0x01#5 d a b nw 0x13#5)
  | .popN32 d a nw => some (rWord 0x01#5 d a 0 nw 0x14#5)
  | .clzN32 d a nw => some (rWord 0x01#5 d a 0 nw 0x15#5)
  | .brevN32 d a nw => some (rWord 0x01#5 d a 0 nw 0x16#5)
  | .addsS32 d a b nw => some (rWord 0x01#5 d a b nw 0x17#5)
  | .subsS32 d a b nw => some (rWord 0x01#5 d a b nw 0x18#5)
  | .addsN32 d a b nw => some (rWord 0x01#5 d a b nw 0x19#5)
  | .subsN32 d a b nw => some (rWord 0x01#5 d a b nw 0x1A#5)
  | .bfxN32 d a b nw => some (rWord 0x01#5 d a b nw 0x1B#5)
  | .bfiN32 d a b nw => some (rWord 0x01#5 d a b nw 0x1C#5)
  | .addImmN32 d a nw imm => some (iWord 0x02#5 d a nw imm)
  | .waveAddImmN32 d a nw imm => some (iWord 0x09#5 d a nw imm)
  | .addN64 d a b nw => some (rWord 0x03#5 d a b nw 0x00#5)
  | .subN64 d a b nw => some (rWord 0x03#5 d a b nw 0x01#5)
  | .addxN64 d a b nw => some (rWord 0x03#5 d a b nw 0x02#5)
  | .addxS64 d a b nw => some (rWord 0x03#5 d a b nw 0x03#5)
  | .shlN64 d a b nw => some (rWord 0x03#5 d a b nw 0x04#5)
  | .shrN64 d a b nw => some (rWord 0x03#5 d a b nw 0x05#5)
  | .shrS64 d a b nw => some (rWord 0x03#5 d a b nw 0x06#5)
  | .andN64 d a b nw => some (rWord 0x03#5 d a b nw 0x07#5)
  | .orN64 d a b nw => some (rWord 0x03#5 d a b nw 0x08#5)
  | .xorN64 d a b nw => some (rWord 0x03#5 d a b nw 0x09#5)
  | .seqN64 d a b nw => some (rWord 0x03#5 d a b nw 0x0A#5)
  | .sltS64 d a b nw => some (rWord 0x03#5 d a b nw 0x0B#5)
  | .sltN64 d a b nw => some (rWord 0x03#5 d a b nw 0x0C#5)
  | .mulwN32 d a b nw => some (rWord 0x03#5 d a b nw 0x0D#5)
  | .mulwS32 d a b nw => some (rWord 0x03#5 d a b nw 0x0E#5)
  | .waveAddN32 d a b nw => some (rWord 0x08#5 d a b nw 0x00#5)
  | .waveSubN32 d a b nw => some (rWord 0x08#5 d a b nw 0x01#5)
  | .waveMulN32 d a b nw => some (rWord 0x08#5 d a b nw 0x02#5)
  | .waveMulhiS32 d a b nw => some (rWord 0x08#5 d a b nw 0x03#5)
  | .waveMulhiN32 d a b nw => some (rWord 0x08#5 d a b nw 0x04#5)
  | .waveMadN32 d a b nw => some (rWord 0x08#5 d a b nw 0x05#5)
  | .waveAndN32 d a b nw => some (rWord 0x08#5 d a b nw 0x06#5)
  | .waveOrN32 d a b nw => some (rWord 0x08#5 d a b nw 0x07#5)
  | .waveXorN32 d a b nw => some (rWord 0x08#5 d a b nw 0x08#5)
  | .waveShlN32 d a b nw => some (rWord 0x08#5 d a b nw 0x09#5)
  | .waveShrN32 d a b nw => some (rWord 0x08#5 d a b nw 0x0A#5)
  | .waveShrS32 d a b nw => some (rWord 0x08#5 d a b nw 0x0B#5)
  | .waveMinS32 d a b nw => some (rWord 0x08#5 d a b nw 0x0C#5)
  | .waveMinN32 d a b nw => some (rWord 0x08#5 d a b nw 0x0D#5)
  | .waveMaxS32 d a b nw => some (rWord 0x08#5 d a b nw 0x0E#5)
  | .waveMaxN32 d a b nw => some (rWord 0x08#5 d a b nw 0x0F#5)
  | .waveSeqN32 d a b nw => some (rWord 0x08#5 d a b nw 0x10#5)
  | .waveSltS32 d a b nw => some (rWord 0x08#5 d a b nw 0x11#5)
  | .waveSltN32 d a b nw => some (rWord 0x08#5 d a b nw 0x12#5)
  | .waveSelN32 d a b nw => some (rWord 0x08#5 d a b nw 0x13#5)
  | .wavePopN32 d a nw => some (rWord 0x08#5 d a 0 nw 0x14#5)
  | .waveClzN32 d a nw => some (rWord 0x08#5 d a 0 nw 0x15#5)
  | .waveBrevN32 d a nw => some (rWord 0x08#5 d a 0 nw 0x16#5)
  | .waveAddsS32 d a b nw => some (rWord 0x08#5 d a b nw 0x17#5)
  | .waveSubsS32 d a b nw => some (rWord 0x08#5 d a b nw 0x18#5)
  | .waveAddsN32 d a b nw => some (rWord 0x08#5 d a b nw 0x19#5)
  | .waveSubsN32 d a b nw => some (rWord 0x08#5 d a b nw 0x1A#5)
  | .waveBfxN32 d a b nw => some (rWord 0x08#5 d a b nw 0x1B#5)
  | .waveBfiN32 d a b nw => some (rWord 0x08#5 d a b nw 0x1C#5)
  | .waveAddN64 d a b nw => some (rWord 0x08#5 d a b nw 0x1D#5)
  | .waveSubN64 d a b nw => some (rWord 0x08#5 d a b nw 0x1E#5)
  | .waveSltN64 d a b nw => some (rWord 0x08#5 d a b nw 0x1F#5)
  | .addF32 d a b nw => some (rWord 0x04#5 d a b nw 0x00#5)
  | .addF32Rne d a b nw => some (rWord 0x04#5 d a b nw 0x01#5)
  | .addF32Rtz d a b nw => some (rWord 0x04#5 d a b nw 0x02#5)
  | .addF32Rup d a b nw => some (rWord 0x04#5 d a b nw 0x03#5)
  | .addF32Rdn d a b nw => some (rWord 0x04#5 d a b nw 0x04#5)
  | .subF32 d a b nw => some (rWord 0x04#5 d a b nw 0x05#5)
  | .subF32Rne d a b nw => some (rWord 0x04#5 d a b nw 0x06#5)
  | .subF32Rtz d a b nw => some (rWord 0x04#5 d a b nw 0x07#5)
  | .subF32Rup d a b nw => some (rWord 0x04#5 d a b nw 0x08#5)
  | .subF32Rdn d a b nw => some (rWord 0x04#5 d a b nw 0x09#5)
  | .mulF32 d a b nw => some (rWord 0x04#5 d a b nw 0x0A#5)
  | .mulF32Rne d a b nw => some (rWord 0x04#5 d a b nw 0x0B#5)
  | .mulF32Rtz d a b nw => some (rWord 0x04#5 d a b nw 0x0C#5)
  | .mulF32Rup d a b nw => some (rWord 0x04#5 d a b nw 0x0D#5)
  | .mulF32Rdn d a b nw => some (rWord 0x04#5 d a b nw 0x0E#5)
  | .fmaF32 d a b nw => some (rWord 0x04#5 d a b nw 0x0F#5)
  | .fmaF32Rne d a b nw => some (rWord 0x04#5 d a b nw 0x10#5)
  | .fmaF32Rtz d a b nw => some (rWord 0x04#5 d a b nw 0x11#5)
  | .fmaF32Rup d a b nw => some (rWord 0x04#5 d a b nw 0x12#5)
  | .fmaF32Rdn d a b nw => some (rWord 0x04#5 d a b nw 0x13#5)
  | .minF32 d a b nw => some (rWord 0x04#5 d a b nw 0x14#5)
  | .maxF32 d a b nw => some (rWord 0x04#5 d a b nw 0x15#5)
  | .ceqF32 d a b nw => some (rWord 0x04#5 d a b nw 0x16#5)
  | .cltF32 d a b nw => some (rWord 0x04#5 d a b nw 0x17#5)
  | .cleF32 d a b nw => some (rWord 0x04#5 d a b nw 0x18#5)
  | .cunF32 d a b nw => some (rWord 0x04#5 d a b nw 0x19#5)
  | .addF16 d a b nw => some (rWord 0x04#5 d a b nw 0x1A#5)
  | .mulF16 d a b nw => some (rWord 0x04#5 d a b nw 0x1B#5)
  | .fmaF16 d a b nw => some (rWord 0x04#5 d a b nw 0x1C#5)
  | .addBf16 d a b nw => some (rWord 0x04#5 d a b nw 0x1D#5)
  | .mulBf16 d a b nw => some (rWord 0x04#5 d a b nw 0x1E#5)
  | .fmaBf16 d a b nw => some (rWord 0x04#5 d a b nw 0x1F#5)
  | .addF64 d a b nw => some (rWord 0x05#5 d a b nw 0x00#5)
  | .addF64Rne d a b nw => some (rWord 0x05#5 d a b nw 0x01#5)
  | .addF64Rtz d a b nw => some (rWord 0x05#5 d a b nw 0x02#5)
  | .addF64Rup d a b nw => some (rWord 0x05#5 d a b nw 0x03#5)
  | .addF64Rdn d a b nw => some (rWord 0x05#5 d a b nw 0x04#5)
  | .subF64 d a b nw => some (rWord 0x05#5 d a b nw 0x05#5)
  | .subF64Rne d a b nw => some (rWord 0x05#5 d a b nw 0x06#5)
  | .subF64Rtz d a b nw => some (rWord 0x05#5 d a b nw 0x07#5)
  | .subF64Rup d a b nw => some (rWord 0x05#5 d a b nw 0x08#5)
  | .subF64Rdn d a b nw => some (rWord 0x05#5 d a b nw 0x09#5)
  | .mulF64 d a b nw => some (rWord 0x05#5 d a b nw 0x0A#5)
  | .mulF64Rne d a b nw => some (rWord 0x05#5 d a b nw 0x0B#5)
  | .mulF64Rtz d a b nw => some (rWord 0x05#5 d a b nw 0x0C#5)
  | .mulF64Rup d a b nw => some (rWord 0x05#5 d a b nw 0x0D#5)
  | .mulF64Rdn d a b nw => some (rWord 0x05#5 d a b nw 0x0E#5)
  | .fmaF64 d a b nw => some (rWord 0x05#5 d a b nw 0x0F#5)
  | .fmaF64Rne d a b nw => some (rWord 0x05#5 d a b nw 0x10#5)
  | .fmaF64Rtz d a b nw => some (rWord 0x05#5 d a b nw 0x11#5)
  | .fmaF64Rup d a b nw => some (rWord 0x05#5 d a b nw 0x12#5)
  | .fmaF64Rdn d a b nw => some (rWord 0x05#5 d a b nw 0x13#5)
  | .minF64 d a b nw => some (rWord 0x05#5 d a b nw 0x14#5)
  | .maxF64 d a b nw => some (rWord 0x05#5 d a b nw 0x15#5)
  | .ceqF64 d a b nw => some (rWord 0x05#5 d a b nw 0x16#5)
  | .cltF64 d a b nw => some (rWord 0x05#5 d a b nw 0x17#5)
  | .cleF64 d a b nw => some (rWord 0x05#5 d a b nw 0x18#5)
  | .cunF64 d a b nw => some (rWord 0x05#5 d a b nw 0x19#5)
  | .absF64 d a nw => some (rWord 0x05#5 d a 0 nw 0x1A#5)
  | .negF64 d a nw => some (rWord 0x05#5 d a 0 nw 0x1B#5)
  | .classF64 d a nw => some (rWord 0x05#5 d a 0 nw 0x1C#5)
  | .divF32 d a b nw => some (rWord 0x06#5 d a b nw 0x00#5)
  | .sqrtF32 d a nw => some (rWord 0x06#5 d a 0 nw 0x01#5)
  | .rcpF32 d a nw => some (rWord 0x06#5 d a 0 nw 0x02#5)
  | .rsqF32 d a nw => some (rWord 0x06#5 d a 0 nw 0x03#5)
  | .exp2F32 d a nw => some (rWord 0x06#5 d a 0 nw 0x04#5)
  | .log2F32 d a nw => some (rWord 0x06#5 d a 0 nw 0x05#5)
  | .sinpiF32 d a nw => some (rWord 0x06#5 d a 0 nw 0x06#5)
  | .cospiF32 d a nw => some (rWord 0x06#5 d a 0 nw 0x07#5)
  | .absF32 d a nw => some (rWord 0x06#5 d a 0 nw 0x08#5)
  | .negF32 d a nw => some (rWord 0x06#5 d a 0 nw 0x09#5)
  | .classF32 d a nw => some (rWord 0x06#5 d a 0 nw 0x0A#5)
  | .absF16 d a nw => some (rWord 0x06#5 d a 0 nw 0x0B#5)
  | .negF16 d a nw => some (rWord 0x06#5 d a 0 nw 0x0C#5)
  | .absBf16 d a nw => some (rWord 0x06#5 d a 0 nw 0x0D#5)
  | .negBf16 d a nw => some (rWord 0x06#5 d a 0 nw 0x0E#5)
  | .divF64 d a b nw => some (rWord 0x06#5 d a b nw 0x10#5)
  | .sqrtF64 d a nw => some (rWord 0x06#5 d a 0 nw 0x11#5)
  | .rcpF64 d a nw => some (rWord 0x06#5 d a 0 nw 0x12#5)
  | .rsqF64 d a nw => some (rWord 0x06#5 d a 0 nw 0x13#5)
  | .exp2F64 d a nw => some (rWord 0x06#5 d a 0 nw 0x14#5)
  | .log2F64 d a nw => some (rWord 0x06#5 d a 0 nw 0x15#5)
  | .cnvF64F32 d a sel nw => some (rWord 0x07#5 d a sel nw 0x00#5)
  | .cnvF32F64 d a nw => some (rWord 0x07#5 d a 0 nw 0x01#5)
  | .cnvF32F16 d a sel nw => some (rWord 0x07#5 d a sel nw 0x02#5)
  | .cnvF16F32 d a nw => some (rWord 0x07#5 d a 0 nw 0x03#5)
  | .cnvF32Bf16 d a sel nw => some (rWord 0x07#5 d a sel nw 0x04#5)
  | .cnvBf16F32 d a nw => some (rWord 0x07#5 d a 0 nw 0x05#5)
  | .cnvF64F16 d a sel nw => some (rWord 0x07#5 d a sel nw 0x06#5)
  | .cnvF64Bf16 d a sel nw => some (rWord 0x07#5 d a sel nw 0x07#5)
  | .cnvF32S32 d a sel nw => some (rWord 0x07#5 d a sel nw 0x08#5)
  | .cnvF32N32 d a sel nw => some (rWord 0x07#5 d a sel nw 0x09#5)
  | .cnvS32F32 d a sel nw => some (rWord 0x07#5 d a sel nw 0x0A#5)
  | .cnvN32F32 d a sel nw => some (rWord 0x07#5 d a sel nw 0x0B#5)
  | .cnvF64S32 d a sel nw => some (rWord 0x07#5 d a sel nw 0x0C#5)
  | .cnvF64N32 d a sel nw => some (rWord 0x07#5 d a sel nw 0x0D#5)
  | .cnvS32F64 d a nw => some (rWord 0x07#5 d a 0 nw 0x0E#5)
  | .cnvN32F64 d a nw => some (rWord 0x07#5 d a 0 nw 0x0F#5)
  | .cnvF64S64 d a sel nw => some (rWord 0x07#5 d a sel nw 0x10#5)
  | .cnvF64N64 d a sel nw => some (rWord 0x07#5 d a sel nw 0x11#5)
  | .cnvS64F64 d a sel nw => some (rWord 0x07#5 d a sel nw 0x12#5)
  | .cnvN64F64 d a sel nw => some (rWord 0x07#5 d a sel nw 0x13#5)
  | .cnvS64F32 d a sel nw => some (rWord 0x07#5 d a sel nw 0x14#5)
  | .cnvN64F32 d a sel nw => some (rWord 0x07#5 d a sel nw 0x15#5)
  | .cnvS32S16 d a sel nw => some (rWord 0x07#5 d a sel nw 0x16#5)
  | .cnvS32N16 d a sel nw => some (rWord 0x07#5 d a sel nw 0x17#5)
  | .cnvS32S8 d a sel nw => some (rWord 0x07#5 d a sel nw 0x18#5)
  | .cnvS32N8 d a sel nw => some (rWord 0x07#5 d a sel nw 0x19#5)
  | .cnvS32S64 d a nw => some (rWord 0x07#5 d a 0 nw 0x1A#5)
  | .cnvN32N64 d a nw => some (rWord 0x07#5 d a 0 nw 0x1B#5)
  | .rintF32 d a sel nw => some (rWord 0x07#5 d a sel nw 0x1C#5)
  | .rintF64 d a sel nw => some (rWord 0x07#5 d a sel nw 0x1D#5)
  | .ballot d a => some (rWord 0x0A#5 d a 0 false 0x00#5)
  | .vany d a nw => some (rWord 0x0A#5 d a 0 nw 0x01#5)
  | .vall d a nw => some (rWord 0x0A#5 d a 0 nw 0x02#5)
  | .mpop d a nw => some (rWord 0x0A#5 d a 0 nw 0x03#5)
  | .mffs d a nw => some (rWord 0x0A#5 d a 0 nw 0x04#5)
  | .lsel d a b nw => some (rWord 0x0A#5 d a b nw 0x05#5)
  | .lbck d a b nw => some (rWord 0x0A#5 d a b nw 0x06#5)
  | .lfwd d a b nw => some (rWord 0x0A#5 d a b nw 0x07#5)
  | .lmir d a b nw => some (rWord 0x0A#5 d a b nw 0x08#5)
  | .bcast d a b nw => some (rWord 0x0A#5 d a b nw 0x09#5)
  | .scanN32 d a nw => some (rWord 0x0A#5 d a 0 nw 0x0A#5)
  | .xscanN32 d a nw => some (rWord 0x0A#5 d a 0 nw 0x0B#5)
  | .redaddN32 d a nw => some (rWord 0x0A#5 d a 0 nw 0x0C#5)
  | .redminS32 d a nw => some (rWord 0x0A#5 d a 0 nw 0x0D#5)
  | .redmaxS32 d a nw => some (rWord 0x0A#5 d a 0 nw 0x0E#5)
  | .redandN32 d a nw => some (rWord 0x0A#5 d a 0 nw 0x0F#5)
  | .redorN32 d a nw => some (rWord 0x0A#5 d a 0 nw 0x10#5)
  | .redaddF32 d a nw => some (rWord 0x0A#5 d a 0 nw 0x11#5)
  | .br off => some (bWord 0#3 off)
  | .bz off => some (bWord 1#3 off)
  | .bnz off => some (bWord 2#3 off)
  | .call off => some (bWord 3#3 off)
  | .split off => some (bWord 4#3 off)
  | .bl off => some (bWord 5#3 off)
  | .brk off => some (bWord 6#3 off)
  | .join => some (rWord 0x0C#5 0 0 0 false 0x00#5)
  | .ret => some (rWord 0x0C#5 0 0 0 false 0x01#5)
  | .jr a => some (rWord 0x0C#5 0 a 0 false 0x02#5)
  | .jalr d a => some (rWord 0x0C#5 d a 0 false 0x03#5)
  | .waitc tv tw ts te tf => some (waitcWord tv tw ts te tf)
  | .yield => some (rWord 0x0C#5 0 0 0 false 0x05#5)
  | .exit => some (rWord 0x0C#5 0 0 0 false 0x06#5)
  | .svc num => some (rWord 0x0D#5 0 0 num false 0x00#5)
  | .trap num => some (rWord 0x0D#5 0 0 num false 0x01#5)
  | .eret => some (rWord 0x0D#5 0 0 0 false 0x02#5)
  | .rsr d sel nw => some (rWord 0x0D#5 d 0 sel nw 0x03#5)
  | .wsr a sel => some (rWord 0x0D#5 0 a sel false 0x04#5)
  | .vrsr d sel nw => some (rWord 0x0D#5 d 0 sel nw 0x05#5)
  | .vwsr a sel => some (rWord 0x0D#5 0 a sel false 0x06#5)
  | .clk d nw => some (rWord 0x0D#5 d 0 0 nw 0x07#5)
  | .win b => some (rWord 0x0D#5 0 0 b false 0x08#5)
  | .leave num => some (rWord 0x0D#5 0 0 num false 0x09#5)
  | .ldN8 d a b sc => some (mWord 0x0E#5 d a 0#1 b sc 0#3)
  | .ldS8 d a b sc => some (mWord 0x0E#5 d a 0#1 b sc 1#3)
  | .ldN16 d a b sc => some (mWord 0x0E#5 d a 0#1 b sc 2#3)
  | .ldS16 d a b sc => some (mWord 0x0E#5 d a 0#1 b sc 3#3)
  | .ld32 d a b sc => some (mWord 0x0E#5 d a 0#1 b sc 4#3)
  | .ld64 d a b sc => some (mWord 0x0E#5 d a 0#1 b sc 5#3)
  | .ldUniN8 d a b sc => some (mWord 0x0E#5 d a 1#1 b sc 0#3)
  | .ldUniS8 d a b sc => some (mWord 0x0E#5 d a 1#1 b sc 1#3)
  | .ldUniN16 d a b sc => some (mWord 0x0E#5 d a 1#1 b sc 2#3)
  | .ldUniS16 d a b sc => some (mWord 0x0E#5 d a 1#1 b sc 3#3)
  | .ldUni32 d a b sc => some (mWord 0x0E#5 d a 1#1 b sc 4#3)
  | .ldUni64 d a b sc => some (mWord 0x0E#5 d a 1#1 b sc 5#3)
  | .st8 d a b sc => some (mWord 0x0F#5 d a 0#1 b sc 0#3)
  | .st16 d a b sc => some (mWord 0x0F#5 d a 0#1 b sc 1#3)
  | .st32 d a b sc => some (mWord 0x0F#5 d a 0#1 b sc 2#3)
  | .st64 d a b sc => some (mWord 0x0F#5 d a 0#1 b sc 3#3)
  | .stUni8 d a b sc => some (mWord 0x0F#5 d a 1#1 b sc 0#3)
  | .stUni16 d a b sc => some (mWord 0x0F#5 d a 1#1 b sc 1#3)
  | .stUni32 d a b sc => some (mWord 0x0F#5 d a 1#1 b sc 2#3)
  | .stUni64 d a b sc => some (mWord 0x0F#5 d a 1#1 b sc 3#3)
  | .stcN32 d a sc => some (mWord 0x0F#5 d a 0#1 0 sc 4#3)
  | .stcN64 d a sc => some (mWord 0x0F#5 d a 0#1 0 sc 5#3)
  | .amaddN32 d a b sc => some (mWord 0x10#5 d a 0#1 b sc 0#3)
  | .amaddN64 d a b sc => some (mWord 0x10#5 d a 0#1 b sc 1#3)
  | .amaddF32 d a b sc => some (mWord 0x10#5 d a 0#1 b sc 2#3)
  | .amaddF64 d a b sc => some (mWord 0x10#5 d a 0#1 b sc 3#3)
  | .amminS32 d a b sc => some (mWord 0x10#5 d a 0#1 b sc 4#3)
  | .ammaxS32 d a b sc => some (mWord 0x10#5 d a 0#1 b sc 5#3)
  | .amminN32 d a b sc => some (mWord 0x10#5 d a 0#1 b sc 6#3)
  | .ammaxN32 d a b sc => some (mWord 0x10#5 d a 0#1 b sc 7#3)
  | .amandN32 d a b sc => some (mWord 0x10#5 d a 1#1 b sc 0#3)
  | .amorN32 d a b sc => some (mWord 0x10#5 d a 1#1 b sc 1#3)
  | .amxorN32 d a b sc => some (mWord 0x10#5 d a 1#1 b sc 2#3)
  | .amswpN32 d a b sc => some (mWord 0x10#5 d a 1#1 b sc 3#3)
  | .amswpN64 d a b sc => some (mWord 0x10#5 d a 1#1 b sc 4#3)
  | .amcasN32 d a b sc => some (mWord 0x10#5 d a 1#1 b sc 5#3)
  | .amcasN64 d a b sc => some (mWord 0x10#5 d a 1#1 b sc 6#3)
  | .fence cls sc => some (mWord 0x11#5 (cls.setWidth 7) 0 0#1 0 sc 0#3)
  | .cwb a b sc => some (mWord 0x11#5 0 a 0#1 b sc 1#3)
  | .cinv a b sc => some (mWord 0x11#5 0 a 0#1 b sc 2#3)
  | .cinvd a b sc => some (mWord 0x11#5 0 a 0#1 b sc 3#3)
  | .pref a b sc => some (mWord 0x11#5 0 a 0#1 b sc 4#3)
  | .aopen d a b => some (rWord 0x12#5 d a b false 0x00#5)
  | .aopennb d a b => some (rWord 0x12#5 d a b false 0x01#5)
  | .aredF32 d a b => some (rWord 0x12#5 d a b false 0x02#5)
  | .aredF64 d a b => some (rWord 0x12#5 d a b false 0x03#5)
  | .aredS32 d a b => some (rWord 0x12#5 d a b false 0x04#5)
  | .aredS64 d a b => some (rWord 0x12#5 d a b false 0x05#5)
  | .aseal d a => some (rWord 0x12#5 d a 0 false 0x06#5)
  | .asnap d a => some (rWord 0x12#5 d a 0 false 0x07#5)
  | .aqry d a => some (rWord 0x12#5 d a 0 false 0x08#5)
  | .mmaF64 d a b => some (rWord 0x13#5 d a b false 0x00#5)
  | .mmaF32 d a b => some (rWord 0x13#5 d a b false 0x01#5)
  | .mmaF16 d a b => some (rWord 0x13#5 d a b false 0x02#5)
  | .mmaBf16 d a b => some (rWord 0x13#5 d a b false 0x03#5)
  | .mmaE4m3 d a b => some (rWord 0x13#5 d a b false 0x04#5)
  | .mmaE5m2 d a b => some (rWord 0x13#5 d a b false 0x05#5)
  | .mmaE3m2 d a b => some (rWord 0x13#5 d a b false 0x06#5)
  | .mmaE2m3 d a b => some (rWord 0x13#5 d a b false 0x07#5)
  | .mmaE2m1 d a b => some (rWord 0x13#5 d a b false 0x08#5)
  | .mmaMxi8 d a b => some (rWord 0x13#5 d a b false 0x09#5)
  | .mmaE4m3E5m2 d a b => some (rWord 0x13#5 d a b false 0x0A#5)
  | .mmaE5m2E4m3 d a b => some (rWord 0x13#5 d a b false 0x0B#5)
  | .mmaE3m2E2m3 d a b => some (rWord 0x13#5 d a b false 0x0C#5)
  | .mmaE2m3E3m2 d a b => some (rWord 0x13#5 d a b false 0x0D#5)
  | .mmafF64 d a b => some (rWord 0x13#5 d a b false 0x10#5)
  | .mmafF32 d a b => some (rWord 0x13#5 d a b false 0x11#5)
  | .mmafF16 d a b => some (rWord 0x13#5 d a b false 0x12#5)
  | .mmafBf16 d a b => some (rWord 0x13#5 d a b false 0x13#5)
  | .mmafE4m3 d a b => some (rWord 0x13#5 d a b false 0x14#5)
  | .mmafE5m2 d a b => some (rWord 0x13#5 d a b false 0x15#5)
  | .mmafE3m2 d a b => some (rWord 0x13#5 d a b false 0x16#5)
  | .mmafE2m3 d a b => some (rWord 0x13#5 d a b false 0x17#5)
  | .mmafE2m1 d a b => some (rWord 0x13#5 d a b false 0x18#5)
  | .mmafMxi8 d a b => some (rWord 0x13#5 d a b false 0x19#5)
  | .mmafE4m3E5m2 d a b => some (rWord 0x13#5 d a b false 0x1A#5)
  | .mmafE5m2E4m3 d a b => some (rWord 0x13#5 d a b false 0x1B#5)
  | .mmafE3m2E2m3 d a b => some (rWord 0x13#5 d a b false 0x1C#5)
  | .mmafE2m3E3m2 d a b => some (rWord 0x13#5 d a b false 0x1D#5)
  | .cvtmxE4m3F32 d a b => some (rWord 0x14#5 d a b false 0x00#5)
  | .cvtmxE5m2F32 d a b => some (rWord 0x14#5 d a b false 0x01#5)
  | .cvtmxE3m2F32 d a b => some (rWord 0x14#5 d a b false 0x02#5)
  | .cvtmxE2m3F32 d a b => some (rWord 0x14#5 d a b false 0x03#5)
  | .cvtmxE2m1F32 d a b => some (rWord 0x14#5 d a b false 0x04#5)
  | .cvtmxMxi8F32 d a b => some (rWord 0x14#5 d a b false 0x05#5)
  | .dqmxE4m3F32 d a b => some (rWord 0x14#5 d a b false 0x06#5)
  | .dqmxE5m2F32 d a b => some (rWord 0x14#5 d a b false 0x07#5)
  | .dqmxE3m2F32 d a b => some (rWord 0x14#5 d a b false 0x08#5)
  | .dqmxE2m3F32 d a b => some (rWord 0x14#5 d a b false 0x09#5)
  | .dqmxE2m1F32 d a b => some (rWord 0x14#5 d a b false 0x0A#5)
  | .dqmxMxi8F32 d a b => some (rWord 0x14#5 d a b false 0x0B#5)
  | .scaccF32 d a => some (rWord 0x14#5 d a 0 false 0x0C#5)
  | .scaccF64 d a => some (rWord 0x14#5 d a 0 false 0x0D#5)
  | .amxrd d a => some (rWord 0x14#5 d a 0 false 0x0E#5)
  | .amxclr a => some (rWord 0x14#5 0 a 0 false 0x0F#5)
  | .fdef a b => some (rWord 0x15#5 0 a b false 0x00#5)
  | .fcall d a b => some (rWord 0x15#5 d a b false 0x01#5)
  | .fret a b => some (rWord 0x15#5 0 a b false 0x02#5)
  | .finv b => some (rWord 0x15#5 0 0 b false 0x03#5)
  | .fstat d a b => some (rWord 0x15#5 d a b false 0x04#5)
  | .fpre a b => some (rWord 0x15#5 0 a b false 0x05#5)
  | .copy a b => some (rWord 0x16#5 0 a b false 0x00#5)
  | .copybox a b => some (rWord 0x16#5 0 a b false 0x01#5)
  | .copyred a b => some (rWord 0x16#5 0 a b false 0x02#5)
  | .cseal d => some (rWord 0x16#5 d 0 0 false 0x03#5)
  | .cwait a => some (rWord 0x16#5 0 a 0 false 0x04#5)
  | .twaitany a => some (rWord 0x16#5 0 a 0 false 0x05#5)
  | .twaitall a => some (rWord 0x16#5 0 a 0 false 0x06#5)
  | .tffr d a => some (rWord 0x16#5 d a 0 false 0x07#5)
  | .gview d a => some (rWord 0x17#5 d a 0 false 0x00#5)
  | .gstn d a b => some (rWord 0x17#5 d a b false 0x01#5)
  | .grst a b => some (rWord 0x17#5 0 a b false 0x02#5)
  | .gprol a b => some (rWord 0x17#5 0 a b false 0x03#5)
  | .gproladd a b => some (rWord 0x17#5 0 a b false 0x04#5)
  | .gred a b => some (rWord 0x17#5 0 a b false 0x05#5)
  | .binit d a => some (rWord 0x18#5 d a 0 false 0x00#5)
  | .barv d => some (rWord 0x18#5 d 0 0 false 0x01#5)
  | .bwait d => some (rWord 0x18#5 d 0 0 false 0x02#5)
  | .bexp d a => some (rWord 0x18#5 d a 0 false 0x03#5)
  | .spop d b => some (rWord 0x18#5 d 0 b false 0x04#5)
  | .spush d a b => some (rWord 0x18#5 d a b false 0x05#5)
  | .tagclr a => some (rWord 0x18#5 0 a 0 false 0x06#5)
  | .tagrd d => some (rWord 0x18#5 d 0 0 false 0x07#5)
  | .launch d a => some (rWord 0x19#5 d a 0 false 0x00#5)
  | .dwait a b => some (rWord 0x19#5 0 a b false 0x01#5)
  | .gbar => some (rWord 0x19#5 0 0 0 false 0x02#5)
  | .waitConditionMet _ _ => none
  | .waitExchangeTimeout _ _ => none
  | .vacancyFill _ => none
  | .deferredFaultDelivery _ _ => none
  | .quantumExpiry _ _ => none
  | .detCommitPhase _ => none
  | .loadDataReturn _ _ _ => none
  | .storePerformed _ _ _ => none
  | .atomicPerformed _ _ _ => none
  | .cacheEviction _ _ _ => none
  | .pageWalk _ _ _ => none
  | .matrixStep _ _ => none
  | .scaccRow _ _ => none
  | .leaveGrant _ => none
  | .temperatureThreshold _ _ => none
  | .copyChunk _ _ _ _ => none
  | .engineStreamPush _ _ _ => none
  | .gridTransferRow _ _ _ _ => none
  | .accumulationArrival _ => none
  | .lineSeal _ _ _ => none
  | .frameSpill _ => none
  | .frameReload _ => none
  | .fsSearch _ _ _ => none
  | .fsHitIncrement _ => none
  | .fsInsert _ => none
  | .fsDefinitionApply _ _ => none
  | .fsInvalidationApply _ _ => none
  | .fsPreloadPlacement _ => none
  | .fsBucketSpill _ _ _ => none
  | .launchQueueRegister _ _ _ _ _ _ _ => none
  | .tailWrite _ _ _ => none
  | .dependenceSignalWrite _ _ _ => none
  | .bindCrew _ _ _ _ _ _ _ => none
  | .parkedCrewPreemption _ _ => none
  | .gridCompletion _ => none
  | .gridTerminationRequest _ _ => none
  | .hostDriverTermination _ => none
  | .preemptionRequest _ => none
  | .crewSave _ _ => none
  | .localImageWriteback _ _ _ => none
  | .bucketMove _ _ => none
  | .hostMemReadOwnership _ => none
  | .hostMemReadShared _ => none
  | .hostMemWrite _ _ => none
  | .bisnpResponse _ _ _ => none
  | .hostSnoopInvalidate _ => none
  | .hostSnoopData _ => none
  | .linkFlitReceive _ _ _ => none
  | .linkRetryRequest _ _ => none
  | .linkRetrain _ _ => none
  | .peerRemoteTransaction _ _ _ _ _ _ => none
  | .fabricDomainFormation _ _ _ => none
  | .heartbeatSend => none
  | .heartbeatReceive _ => none
  | .deviceDead _ => none
  | .deadDeviceScrub _ => none
  | .replicaCollapse _ _ _ _ _ _ => none
  | .pteChange _ _ _ _ => none
  | .contextCreate _ _ _ _ _ _ _ => none
  | .contextTeardown _ => none
  | .powerOn _ _ _ _ _ _ => none
  | .spdmRequest _ _ => none
  | .illegalInstruction => none
  | .instructionFetchFault => none
  | .deviceQueueRecord _ => none

/-- The 32-bit word at the low end of an instruction of `nbits` bits (R44: every word is 32 bits; the bits above
`nbits` are zero). -/
def tableWord (nbits w : Nat) : Word := BitVec.ofNat 32 (w % 2 ^ nbits)

/-- What the decoder reads from an instruction whose bits are `w`, in the numbering of spec/opcode_table.json. -/
noncomputable
def decodeTableWord (nbits w : Nat) : Option Instr :=
  match decodeWord (tableWord nbits w) with
  | .instr i => some i
  | .reject _ => none

end Sys2Proof
end

