-- ==== Sys2Proof/Machine/System.lean ====
section
/-! DEFINITION. The LIT prefix (R17, R54, R56), and the two traps that stand before any instruction: illegal instruction (R66) and a
fetch that fails (R19). -/

namespace Sys2Proof.Machine

/-- Illegal instruction (R66, R369). -/
def Trap.illegal : Trap := { cls := 0x01 }

/-- `LIT` (R17, R54, R56): the pair executes and retires as one instruction of 8 bytes; a failing fetch of its second word is reported at
the prefix's PC, before a prefix whose bits [26:20] are not zero is an illegal instruction (R67). -/
def execLit (pay : BitVec 27) (s : State) : Out :=
  let pc := (s.w.pc + 4).toNat
  match s.fetchWord s.cur pc with
  | .error k => .next (s.trap (.xlat k pc))
  | .ok x =>
    if 2 ^ 20 ≤ pay.toNat then .next (s.trap .illegal)
    else
      let d := x.extractLsb' 20 7
      let a := x.extractLsb' 13 7
      let nw := x.getLsbD 12
      let imm := immLong pay (x.extractLsb' 0 12)
      let ok := fun (k l : Kind) => (Opnd.mk k d.toNat).ok && (Opnd.mk l a.toNat).ok
      if x.extractLsb' 27 5 = 0x02#5 && ok .vDst .vSrc then addImmV 8 imm d a nw s
      else if x.extractLsb' 27 5 = 0x09#5 && ok .wDst .wSrc then addImmW 8 imm d a nw s
      else .next (s.trap .illegal)

/-- `ILLEGAL_INSTRUCTION` (R66): what issues when the word at PC is no instruction. -/
def execIllegalInstruction (s : State) : Out := .next (s.trap .illegal)

/-- `INSTRUCTION_FETCH_FAULT` (R19, R390): what issues when the word at PC cannot be fetched. -/
def execInstructionFetchFault (s : State) : Out :=
  let pc := s.w.pc.toNat
  .next (match s.fetchWord s.cur pc with
    | .error k => s.trap (.xlat k pc)
    | .ok _ => s)

end Sys2Proof.Machine
end

