-- ==== Sys2Proof/Machine/Issue.lean ====
section
/-! DEFINITION. The issue logic of a core (R189, R190), the delivery of deferred faults (R375), and the events of waiting waves (R155,
R190). -/

namespace Sys2Proof.Machine

/-! ### Deferred faults -/

/-- A wave of a deterministic grid that stopped or waits leaves that state to run its handler; at the end of a quantum it will stop again
(R195, R375). Where it is pending, it takes the place of a stopped wave. -/
def State.wake (s : State) (id : WaveId) : State :=
  let w := s.wv id
  let s := s.modWv id (fun w => { w with stopped := none, hold := none, search := none, qDue := w.qDue || w.stopped = some .quantum })
  if w.stopped.isNone || w.active then s
  else match (s.onCore w.core).find? (fun i => i.g = id.g && (s.wv i).active && (s.wv i).stopped.isSome) with
    | some j => (s.modWv j (fun w => { w with active := false })).activate id
    | none => s

/-- The oldest deferred fault of a wave is taken; BAR_OVERFLOW names no address, so `tvall` and `tvalh` stay (R369, R375). -/
def State.deliver (s : State) (id : WaveId) : State :=
  match (s.wv id).faults with
  | [] => s
  | f :: fs =>
    let s := (s.wake id).modWv id (fun w => { w with faults := fs })
    { s with cur := id }.trap { cls := f.cls, sub := f.sub, tval := if f.cls = 0x04 then none else some f.addr }

/-- `DEFERRED_FAULT_DELIVERY` (R375). -/
def execDeferredFaultDelivery (g wv : Nat) (s : State) : Out :=
  let id : WaveId := ⟨g, wv⟩
  .next (if (s.wv id).owes && s.goes id && !s.inSerial g then s.deliver id else s)

/-! ### Issue -/

/-- A wave may take the next issue clock of its core: it is active and ready, its pipe accepts it, and its quantum is not over; one that
owes a fault takes that instead (R189, R195, R375). -/
def State.issuable (s : State) (busy : List Nat) (id : WaveId) : Bool :=
  let w := s.wv id
  w.active && s.goes id && !s.inSerial id.g && (w.owes || (s.ready id && !busy.contains w.slot && !(w.qDue && !w.sup)))

/-- Clocks since a wave last issued or became active. -/
def State.waited (s : State) (id : WaveId) : Nat := (s.coreOf (s.wv id).core).clock - (s.wv id).waitFrom

/-- The wave that issues (R189): of those not issued for 64 clocks the one that waited longest, then the oldest; else the one that
issued last; else the oldest. -/
def State.pick (s : State) (core : Nat) (busy : List Nat) : Option WaveId :=
  let c := (s.onCore core).filter (s.issuable busy)
  let late := c.filter (fun i => 64 ≤ s.waited i)
  let most := late.foldl (fun m i => max m (s.waited i)) 0
  match s.oldest (late.filter (fun i => s.waited i = most)) with
  | some i => some i
  | none => match (s.coreOf core).last with
    | some i => if c.contains i then some i else s.oldest c
    | none => s.oldest c

/-- A core's clock advances; a vacancy of its active set is filled as soon as a pending wave is ready (R190). -/
def State.tock (s : State) (core : Nat) : State :=
  let s := s.modCore core (fun k => { k with clock := k.clock + 1 })
  if (s.coreOf core).halted then s else (List.range 8).foldl (fun s _ => s.fillVacancy core) s

/-- The state that the fetch of a word at an address leaves: its walk, and the read at the home slice, where its window's owner does not refuse it (R19,
R391, R403, R408, R409, R411). -/
def State.fetched (s : State) (id : WaveId) (pc : Nat) : State :=
  let core := (s.wv id).core
  if inAperture pc then s
  else
    let t := s.walked core (s.ctxN id.g) pc
    match s.translate core (s.ctxN id.g) pc .fetch with
    | .error _ => t
    | .ok l => if (t.peerFor l.pa).isSome && t.refuses core l.pa then t else t.homeLook l.pa 4 l.key

/-- The word at the PC of a wave, and after a LIT the second word, are fetched (R17, R19, R67). -/
noncomputable def State.fetchPair (s : State) (id : WaveId) : State :=
  let at_ := (s.wv id).pc
  let pc := at_.toNat
  let s := s.fetched id pc
  match s.fetchWord id pc with
  | .error _ => s
  | .ok x => match decodeWord x with
    | .instr (.lit _) => s.fetched id (at_ + 4).toNat
    | _ => s

/-- A wave takes the issue clock of its core, and its instruction is fetched. -/
noncomputable def State.take (s : State) (id : WaveId) : State :=
  let core := (s.wv id).core
  let s := (s.modCore core (fun k => { k with last := some id })).modWv id (fun w => { w with waitFrom := (s.coreOf core).clock })
  State.fetchPair { s with cur := id } id

/-- The instruction that the executing wave issues: the one its word decodes to, or the trap that stands for a word that is none or
cannot be fetched (R66, R67). -/
noncomputable def State.instr (s : State) : Instr :=
  match s.fetchWord s.cur s.w.pc.toNat with
  | .error _ => .instructionFetchFault
  | .ok x => match decodeWord x with
    | .instr i => i
    | .reject _ => .illegalInstruction

/-- After an instruction, a wave that has stopped for the round makes room in the active set (R195). -/
def State.after (s : State) (id : WaveId) : State :=
  let w := s.wv id
  if w.stopped.isSome && w.active then s.roundExchange id else s

/-- The row is an event of another agent: it has no word, and does not stand for a word that fails. -/
def isEvent (i : Instr) : Bool :=
  match i with
  | .illegalInstruction => false
  | .instructionFetchFault => false
  | i => (encode i).isNone

/-- The next move: the agenda's first, or a free choice (log 2). -/
def State.chosen (s : State) : Move :=
  match s.agenda with
  | m :: _ => m
  | [] => Config.nextMove s.tick

/-- The state once the next move has been chosen. -/
def State.advance (s : State) : State :=
  match s.agenda with
  | _ :: ms => { s with agenda := ms }
  | [] => { s with tick := s.tick + 1 }

/-- The move powers a die on: the one move of a module that has shut down (R426, R428). -/
def isPower : Move → Bool
  | .occur (.powerOn _ _ _ _ _ _) => true
  | _ => false

/-! ### A program put in place -/

/-- Bytes stood in HBM at a physical address as plaintext of whatever key reads them, over anything a cache, a frame or the host holds
of the lines. -/
def State.plant (s : State) (pa : Nat) (bs : List Byte) : State :=
  let ls := linesOf pa bs.length
  let out := fun (ln : Nat) => !ls.contains ln
  { s with
    hbm := s.hbm.write pa bs
    lineKey := s.lineKey.filter (fun p => out p.1)
    llc := s.llc.filter (fun p => out (p.1 / 128)), llcKey := s.llcKey.filter (fun p => out p.1)
    sc := s.sc.filter (fun p => out p.1.2), remoteX := s.remoteX.filter (fun p => out p.1), frames := s.frames.filter (fun p => out p.1)
    hostHalf := s.hostHalf.filter (fun p => out (p.1 / 2)), bad := s.bad.filter (fun a => out (a / 128)) }

/-- The launch record of a program put in place: one wave, every thread active. -/
def plantedRecord : List Byte :=
  tab 256 (fun i => match i with
    | 0x00 => 1 | 0x14 => 1 | 0x15 => 1 | 0x16 => 1 | 0x18 => 1
    | _ => if 0x34 ≤ i && i < 0x40 then 0xFF else 0)

/-- A context whose tables map the code page, and a grid of one wave bound to a core that has none, its PC at the page's first byte, where
the bytes stand; that core moves next (log 3). -/
def State.place_ (s : State) (bs : List Byte) : State :=
  let ctx := s.ctxs.foldl (fun m p => max m (p.1 + 1)) 0
  let g := s.nextGrid
  let core := ((List.range 384).find? (fun c => !s.waves.any (fun p => p.2.core = c && !p.2.exited))).getD 0
  let s := ((((s.plant 0x0 (leBytes 8 0xC001)).plant 0xC000 (leBytes 8 0x18001)).plant 0x18000 (leBytes 8 0x24001)).plant 0x24008
    (leBytes 8 0x0100000000030053)).plant 0x30000 bs
  let s := { s with keys := aput s.keys 1 ((aget s.keys 1).getD s.nextUid), nextUid := s.nextUid + 1, nextGrid := g + 1, agenda := [.issue core []], moduleUp := true }
  let s := s.setCtx ctx { root := 0, tkey := 1 }
  let s := s.setGrid g { ctx := ctx, lrec := plantedRecord, order := g, entry := 0x10000, rows := 128 }
  let s := (s.modCore core (fun k => { k with halted := false })).shoot ctx
  s.bindNew ⟨g, 0⟩ ⟨core, 0, 0, 0, 0⟩

/-! ### Events of waiting waves -/

/-- `WAIT_CONDITION_MET` (R155): an active wave whose condition holds retires the instruction it waits at. What the wait does before (R194, R302) is done
for a pending wave too. -/
def execWaitConditionMet (g wv : Nat) (s : State) : Out :=
  let id : WaveId := ⟨g, wv⟩
  let w := s.wv id
  .next (match w.hold with
    | none => s
    | some h =>
      if w.exited || w.stopped.isSome || w.owes || !s.goes id then s
      else
        let s := { s with cur := id }
        match s.tryOp h.op with
        | some t => if w.active || (h.op.stages && (t.wv id).hold.isSome) then t else s
        | none => s)

/-- `WAIT_EXCHANGE_TIMEOUT` (R155): a yielding instruction that has waited 32 clocks exchanges its wave. -/
def execWaitExchangeTimeout (g wv : Nat) (s : State) : Out :=
  let id : WaveId := ⟨g, wv⟩
  let w := s.wv id
  .next (match w.hold with
    | none => s
    | some h =>
      if w.active && !w.exited && w.stopped.isNone && s.goes id && h.op.yields && h.since + 32 ≤ (s.coreOf w.core).clock && !s.isMet id
      then s.exchange id else s)

/-- `VACANCY_FILL` (R190). -/
def execVacancyFill (core : Nat) (s : State) : Out :=
  .next (if (s.coreOf core).halted then s else s.fillVacancy core)

end Sys2Proof.Machine
end

