-- ==== Sys2Proof/Machine/Lane.lean ====
section
/-! DEFINITION. Cross-lane instructions: major 0x0A (R157-R166). Every operand is read for all 96 threads before anything is
written (R158). -/

namespace Sys2Proof.Machine

/-- A gather of one vector source into a wave register (R159). -/
def gather (f : Wave → (Nat → Word) → Word) (d a : Code) (nw : Bool) (s : State) : Out :=
  s.guarded [⟨.vSrc, a.toNat⟩] (fun s => s.modW (fun w => (w.outW d nw (f w (w.vr a))).retire))

/-- A fold over the active threads in ascending order. -/
def Wave.foldAct (w : Wave) (f : Word → Word → Word) (z : Word) (v : Nat → Word) : Word :=
  w.actives.foldl (fun m t => f m (v t)) z

/-- The words of a wave triple; `z` reads three zero words (R161). -/
def Wave.tri (w : Wave) (a : Code) (b : Nat) : Word := if a.toNat < 64 then w.wr (a.toNat + b) else 0

/-- Bit t of a wave triple. -/
def Wave.triBit (w : Wave) (a : Code) (t : Nat) : Bool := (w.tri a (t / 32)).getLsbD (t % 32)

/-- `BALLOT` (R160). -/
def execBallot (d a : Code) (s : State) : Out :=
  s.guarded [⟨.vSrc, a.toNat⟩] (fun s => s.modW (fun w =>
    let m := fun b => maskWord b (fun t => w.act t && w.vr a t != 0)
    let w := ((w.setWr d.toNat (m 0)).setWr (d.toNat + 1) (m 1)).setWr (d.toNat + 2) (m 2)
    (w.shiftQ (List.replicate threads (m 0))).retire))

/-- `VANY` (R160). -/
def execVany (d a : Code) (nw : Bool) (s : State) : Out :=
  gather (fun w v => iBool (w.actives.any (fun t => v t != 0))) d a nw s

/-- `VALL` (R160). -/
def execVall (d a : Code) (nw : Bool) (s : State) : Out :=
  gather (fun w v => iBool (w.actives.all (fun t => v t != 0))) d a nw s

/-- `MPOP` (R161). -/
def execMpop (d a : Code) (nw : Bool) (s : State) : Out :=
  s.guarded [] (fun s => s.modW (fun w =>
    (w.outW d nw (BitVec.ofNat 32 ((List.range threads).countP (w.triBit a)))).retire))

/-- `MFFS` (R161). -/
def execMffs (d a : Code) (nw : Bool) (s : State) : Out :=
  s.guarded [] (fun s => s.modW (fun w =>
    (w.outW d nw (BitVec.ofNat 32 (((List.range threads).find? (w.triBit a)).getD threads))).retire))

/-- A shuffle: thread t receives V(a, s), or its own V(a, t) when s is not a thread (R162). -/
def shuffle (src : Nat → Nat → Option Nat) (d a b : Code) (nw : Bool) (s : State) : Out :=
  s.guarded (fVVV d a b) (fun s => s.modW (fun w =>
    let from_ := fun t => match src t (w.vr b t).toNat with
      | some k => if k < threads then w.vr a k else w.vr a t
      | none => w.vr a t
    (w.out32 d nw from_).retire))

/-- `LSEL` (R162). -/
def execLsel (d a b : Code) (nw : Bool) (s : State) : Out := shuffle (fun _ n => some n) d a b nw s
/-- `LBCK` (R162). -/
def execLbck (d a b : Code) (nw : Bool) (s : State) : Out :=
  shuffle (fun t n => if n ≤ t then some (t - n) else none) d a b nw s
/-- `LFWD` (R162). -/
def execLfwd (d a b : Code) (nw : Bool) (s : State) : Out := shuffle (fun t n => some (t + n)) d a b nw s
/-- `LMIR` (R162). -/
def execLmir (d a b : Code) (nw : Bool) (s : State) : Out := shuffle (fun t n => some (t ^^^ n)) d a b nw s

/-- `BCAST` (R163). -/
def execBcast (d a b : Code) (nw : Bool) (s : State) : Out :=
  s.guarded [⟨.vSrc, a.toNat⟩, ⟨.wSrc, b.toNat⟩] (fun s => s.modW (fun w =>
    let n := (w.ws b).toNat
    (w.outW d nw (if n < threads then w.vr a n else 0)).retire))

/-- A prefix sum over the active threads that `p` lets count for thread t (R164). -/
def prefixSum (p : Nat → Nat → Bool) (d a : Code) (nw : Bool) (s : State) : Out :=
  s.guarded (fVV d a) (fun s => s.modW (fun w =>
    (w.out32 d nw (fun t => (w.actives.filter (p t)).foldl (fun m k => m + w.vr a k) 0)).retire))

/-- `SCAN_N32` (R164). -/
def execScanN32 (d a : Code) (nw : Bool) (s : State) : Out := prefixSum (fun t k => k ≤ t) d a nw s
/-- `XSCAN_N32` (R164). -/
def execXscanN32 (d a : Code) (nw : Bool) (s : State) : Out := prefixSum (fun t k => k < t) d a nw s

/-- `REDADD_N32` (R165). -/
def execRedaddN32 (d a : Code) (nw : Bool) (s : State) : Out := gather (fun w v => w.foldAct (fun m x => m + x) 0 v) d a nw s
/-- `REDMIN_S32` (R165). -/
def execRedminS32 (d a : Code) (nw : Bool) (s : State) : Out :=
  gather (fun w v => w.foldAct (fun m x => if x.slt m then x else m) 0x7FFFFFFF v) d a nw s
/-- `REDMAX_S32` (R165). -/
def execRedmaxS32 (d a : Code) (nw : Bool) (s : State) : Out :=
  gather (fun w v => w.foldAct (fun m x => if m.slt x then x else m) 0x80000000 v) d a nw s
/-- `REDAND_N32` (R165). -/
def execRedandN32 (d a : Code) (nw : Bool) (s : State) : Out :=
  gather (fun w v => w.foldAct (fun m x => m &&& x) 0xFFFFFFFF v) d a nw s
/-- `REDOR_N32` (R165). -/
def execRedorN32 (d a : Code) (nw : Bool) (s : State) : Out :=
  gather (fun w v => w.foldAct (fun m x => m ||| x) 0 v) d a nw s

/-- The result and flags of `redadd.f32` over codes already read by `ReadF`, in ascending thread order (R166). -/
def fpSumAll (v : FEnv) (cs : List Nat) : Nat × FFlags :=
  match firstNaN f32 cs with
  | some n => (n, snanFlag f32 cs)
  | none =>
    let xs := cs.map f32.val
    if oppositeInf xs then (f32.defNaN, fNV)
    else match xs.find? FVal.isInf with
      | some i => (f32.inf i.sgn, 0)
      | none => f32.flushOut v.fzo (f32.roundSum v.rm (xs.map FVal.term))

/-- `REDADD_F32`: the exact sum of the active threads, rounded once in the mode of the lowest one, whose `fsr` receives every flag
(R166). -/
def execRedaddF32 (d a : Code) (nw : Bool) (s : State) : Out :=
  s.guarded [⟨.vSrc, a.toNat⟩] (fun s =>
    let w := s.w
    match w.actives with
    | [] => s.setW (w.outW d nw 0).retire
    | t0 :: ts =>
      let r := fpSumAll (w.env none t0) ((t0 :: ts).map (fun t => f32.readF (w.env none t).fzi (w.vr a t).toNat))
      s.fpEnd (fun t => t == t0) (fun _ => r.2) (fun w => w.outW d nw (BitVec.ofNat 32 r.1)))

end Sys2Proof.Machine
end

