-- ==== Sys2Proof/Machine/Dispatch.lean ====
section
/-! DEFINITION. One arm per constructor of `Instr`: the meaning of each instruction and of each event of another agent. -/

namespace Sys2Proof.Machine

/-- What an instruction, or an event of another agent, does. -/
def exec (i : Instr) (s : State) : Host.Outcome State Fault Refusal :=
  match i with
  | .lit pay => Sys2Proof.Machine.execLit pay s
  | .addN32 d a b nw => Sys2Proof.Machine.execAddN32 d a b nw s
  | .subN32 d a b nw => Sys2Proof.Machine.execSubN32 d a b nw s
  | .mulN32 d a b nw => Sys2Proof.Machine.execMulN32 d a b nw s
  | .mulhiS32 d a b nw => Sys2Proof.Machine.execMulhiS32 d a b nw s
  | .mulhiN32 d a b nw => Sys2Proof.Machine.execMulhiN32 d a b nw s
  | .madN32 d a b nw => Sys2Proof.Machine.execMadN32 d a b nw s
  | .andN32 d a b nw => Sys2Proof.Machine.execAndN32 d a b nw s
  | .orN32 d a b nw => Sys2Proof.Machine.execOrN32 d a b nw s
  | .xorN32 d a b nw => Sys2Proof.Machine.execXorN32 d a b nw s
  | .shlN32 d a b nw => Sys2Proof.Machine.execShlN32 d a b nw s
  | .shrN32 d a b nw => Sys2Proof.Machine.execShrN32 d a b nw s
  | .shrS32 d a b nw => Sys2Proof.Machine.execShrS32 d a b nw s
  | .minS32 d a b nw => Sys2Proof.Machine.execMinS32 d a b nw s
  | .minN32 d a b nw => Sys2Proof.Machine.execMinN32 d a b nw s
  | .maxS32 d a b nw => Sys2Proof.Machine.execMaxS32 d a b nw s
  | .maxN32 d a b nw => Sys2Proof.Machine.execMaxN32 d a b nw s
  | .seqN32 d a b nw => Sys2Proof.Machine.execSeqN32 d a b nw s
  | .sltS32 d a b nw => Sys2Proof.Machine.execSltS32 d a b nw s
  | .sltN32 d a b nw => Sys2Proof.Machine.execSltN32 d a b nw s
  | .selN32 d a b nw => Sys2Proof.Machine.execSelN32 d a b nw s
  | .popN32 d a nw => Sys2Proof.Machine.execPopN32 d a nw s
  | .clzN32 d a nw => Sys2Proof.Machine.execClzN32 d a nw s
  | .brevN32 d a nw => Sys2Proof.Machine.execBrevN32 d a nw s
  | .addsS32 d a b nw => Sys2Proof.Machine.execAddsS32 d a b nw s
  | .subsS32 d a b nw => Sys2Proof.Machine.execSubsS32 d a b nw s
  | .addsN32 d a b nw => Sys2Proof.Machine.execAddsN32 d a b nw s
  | .subsN32 d a b nw => Sys2Proof.Machine.execSubsN32 d a b nw s
  | .bfxN32 d a b nw => Sys2Proof.Machine.execBfxN32 d a b nw s
  | .bfiN32 d a b nw => Sys2Proof.Machine.execBfiN32 d a b nw s
  | .addImmN32 d a nw imm => Sys2Proof.Machine.execAddImmN32 d a nw imm s
  | .waveAddImmN32 d a nw imm => Sys2Proof.Machine.execWaveAddImmN32 d a nw imm s
  | .addN64 d a b _ => Sys2Proof.Machine.execAddN64 d a b s
  | .subN64 d a b _ => Sys2Proof.Machine.execSubN64 d a b s
  | .addxN64 d a b _ => Sys2Proof.Machine.execAddxN64 d a b s
  | .addxS64 d a b _ => Sys2Proof.Machine.execAddxS64 d a b s
  | .shlN64 d a b _ => Sys2Proof.Machine.execShlN64 d a b s
  | .shrN64 d a b _ => Sys2Proof.Machine.execShrN64 d a b s
  | .shrS64 d a b _ => Sys2Proof.Machine.execShrS64 d a b s
  | .andN64 d a b _ => Sys2Proof.Machine.execAndN64 d a b s
  | .orN64 d a b _ => Sys2Proof.Machine.execOrN64 d a b s
  | .xorN64 d a b _ => Sys2Proof.Machine.execXorN64 d a b s
  | .seqN64 d a b nw => Sys2Proof.Machine.execSeqN64 d a b nw s
  | .sltS64 d a b nw => Sys2Proof.Machine.execSltS64 d a b nw s
  | .sltN64 d a b nw => Sys2Proof.Machine.execSltN64 d a b nw s
  | .mulwN32 d a b _ => Sys2Proof.Machine.execMulwN32 d a b s
  | .mulwS32 d a b _ => Sys2Proof.Machine.execMulwS32 d a b s
  | .waveAddN32 d a b nw => Sys2Proof.Machine.execWaveAddN32 d a b nw s
  | .waveSubN32 d a b nw => Sys2Proof.Machine.execWaveSubN32 d a b nw s
  | .waveMulN32 d a b nw => Sys2Proof.Machine.execWaveMulN32 d a b nw s
  | .waveMulhiS32 d a b nw => Sys2Proof.Machine.execWaveMulhiS32 d a b nw s
  | .waveMulhiN32 d a b nw => Sys2Proof.Machine.execWaveMulhiN32 d a b nw s
  | .waveMadN32 d a b nw => Sys2Proof.Machine.execWaveMadN32 d a b nw s
  | .waveAndN32 d a b nw => Sys2Proof.Machine.execWaveAndN32 d a b nw s
  | .waveOrN32 d a b nw => Sys2Proof.Machine.execWaveOrN32 d a b nw s
  | .waveXorN32 d a b nw => Sys2Proof.Machine.execWaveXorN32 d a b nw s
  | .waveShlN32 d a b nw => Sys2Proof.Machine.execWaveShlN32 d a b nw s
  | .waveShrN32 d a b nw => Sys2Proof.Machine.execWaveShrN32 d a b nw s
  | .waveShrS32 d a b nw => Sys2Proof.Machine.execWaveShrS32 d a b nw s
  | .waveMinS32 d a b nw => Sys2Proof.Machine.execWaveMinS32 d a b nw s
  | .waveMinN32 d a b nw => Sys2Proof.Machine.execWaveMinN32 d a b nw s
  | .waveMaxS32 d a b nw => Sys2Proof.Machine.execWaveMaxS32 d a b nw s
  | .waveMaxN32 d a b nw => Sys2Proof.Machine.execWaveMaxN32 d a b nw s
  | .waveSeqN32 d a b nw => Sys2Proof.Machine.execWaveSeqN32 d a b nw s
  | .waveSltS32 d a b nw => Sys2Proof.Machine.execWaveSltS32 d a b nw s
  | .waveSltN32 d a b nw => Sys2Proof.Machine.execWaveSltN32 d a b nw s
  | .waveSelN32 d a b nw => Sys2Proof.Machine.execWaveSelN32 d a b nw s
  | .wavePopN32 d a nw => Sys2Proof.Machine.execWavePopN32 d a nw s
  | .waveClzN32 d a nw => Sys2Proof.Machine.execWaveClzN32 d a nw s
  | .waveBrevN32 d a nw => Sys2Proof.Machine.execWaveBrevN32 d a nw s
  | .waveAddsS32 d a b nw => Sys2Proof.Machine.execWaveAddsS32 d a b nw s
  | .waveSubsS32 d a b nw => Sys2Proof.Machine.execWaveSubsS32 d a b nw s
  | .waveAddsN32 d a b nw => Sys2Proof.Machine.execWaveAddsN32 d a b nw s
  | .waveSubsN32 d a b nw => Sys2Proof.Machine.execWaveSubsN32 d a b nw s
  | .waveBfxN32 d a b nw => Sys2Proof.Machine.execWaveBfxN32 d a b nw s
  | .waveBfiN32 d a b nw => Sys2Proof.Machine.execWaveBfiN32 d a b nw s
  | .waveAddN64 d a b _ => Sys2Proof.Machine.execWaveAddN64 d a b s
  | .waveSubN64 d a b _ => Sys2Proof.Machine.execWaveSubN64 d a b s
  | .waveSltN64 d a b nw => Sys2Proof.Machine.execWaveSltN64 d a b nw s
  | .addF32 d a b nw => Sys2Proof.Machine.execAddF32 d a b nw s
  | .addF32Rne d a b nw => Sys2Proof.Machine.execAddF32Rne d a b nw s
  | .addF32Rtz d a b nw => Sys2Proof.Machine.execAddF32Rtz d a b nw s
  | .addF32Rup d a b nw => Sys2Proof.Machine.execAddF32Rup d a b nw s
  | .addF32Rdn d a b nw => Sys2Proof.Machine.execAddF32Rdn d a b nw s
  | .subF32 d a b nw => Sys2Proof.Machine.execSubF32 d a b nw s
  | .subF32Rne d a b nw => Sys2Proof.Machine.execSubF32Rne d a b nw s
  | .subF32Rtz d a b nw => Sys2Proof.Machine.execSubF32Rtz d a b nw s
  | .subF32Rup d a b nw => Sys2Proof.Machine.execSubF32Rup d a b nw s
  | .subF32Rdn d a b nw => Sys2Proof.Machine.execSubF32Rdn d a b nw s
  | .mulF32 d a b nw => Sys2Proof.Machine.execMulF32 d a b nw s
  | .mulF32Rne d a b nw => Sys2Proof.Machine.execMulF32Rne d a b nw s
  | .mulF32Rtz d a b nw => Sys2Proof.Machine.execMulF32Rtz d a b nw s
  | .mulF32Rup d a b nw => Sys2Proof.Machine.execMulF32Rup d a b nw s
  | .mulF32Rdn d a b nw => Sys2Proof.Machine.execMulF32Rdn d a b nw s
  | .fmaF32 d a b nw => Sys2Proof.Machine.execFmaF32 d a b nw s
  | .fmaF32Rne d a b nw => Sys2Proof.Machine.execFmaF32Rne d a b nw s
  | .fmaF32Rtz d a b nw => Sys2Proof.Machine.execFmaF32Rtz d a b nw s
  | .fmaF32Rup d a b nw => Sys2Proof.Machine.execFmaF32Rup d a b nw s
  | .fmaF32Rdn d a b nw => Sys2Proof.Machine.execFmaF32Rdn d a b nw s
  | .minF32 d a b nw => Sys2Proof.Machine.execMinF32 d a b nw s
  | .maxF32 d a b nw => Sys2Proof.Machine.execMaxF32 d a b nw s
  | .ceqF32 d a b nw => Sys2Proof.Machine.execCeqF32 d a b nw s
  | .cltF32 d a b nw => Sys2Proof.Machine.execCltF32 d a b nw s
  | .cleF32 d a b nw => Sys2Proof.Machine.execCleF32 d a b nw s
  | .cunF32 d a b nw => Sys2Proof.Machine.execCunF32 d a b nw s
  | .addF16 d a b nw => Sys2Proof.Machine.execAddF16 d a b nw s
  | .mulF16 d a b nw => Sys2Proof.Machine.execMulF16 d a b nw s
  | .fmaF16 d a b nw => Sys2Proof.Machine.execFmaF16 d a b nw s
  | .addBf16 d a b nw => Sys2Proof.Machine.execAddBf16 d a b nw s
  | .mulBf16 d a b nw => Sys2Proof.Machine.execMulBf16 d a b nw s
  | .fmaBf16 d a b nw => Sys2Proof.Machine.execFmaBf16 d a b nw s
  | .addF64 d a b _ => Sys2Proof.Machine.execAddF64 d a b s
  | .addF64Rne d a b _ => Sys2Proof.Machine.execAddF64Rne d a b s
  | .addF64Rtz d a b _ => Sys2Proof.Machine.execAddF64Rtz d a b s
  | .addF64Rup d a b _ => Sys2Proof.Machine.execAddF64Rup d a b s
  | .addF64Rdn d a b _ => Sys2Proof.Machine.execAddF64Rdn d a b s
  | .subF64 d a b _ => Sys2Proof.Machine.execSubF64 d a b s
  | .subF64Rne d a b _ => Sys2Proof.Machine.execSubF64Rne d a b s
  | .subF64Rtz d a b _ => Sys2Proof.Machine.execSubF64Rtz d a b s
  | .subF64Rup d a b _ => Sys2Proof.Machine.execSubF64Rup d a b s
  | .subF64Rdn d a b _ => Sys2Proof.Machine.execSubF64Rdn d a b s
  | .mulF64 d a b _ => Sys2Proof.Machine.execMulF64 d a b s
  | .mulF64Rne d a b _ => Sys2Proof.Machine.execMulF64Rne d a b s
  | .mulF64Rtz d a b _ => Sys2Proof.Machine.execMulF64Rtz d a b s
  | .mulF64Rup d a b _ => Sys2Proof.Machine.execMulF64Rup d a b s
  | .mulF64Rdn d a b _ => Sys2Proof.Machine.execMulF64Rdn d a b s
  | .fmaF64 d a b _ => Sys2Proof.Machine.execFmaF64 d a b s
  | .fmaF64Rne d a b _ => Sys2Proof.Machine.execFmaF64Rne d a b s
  | .fmaF64Rtz d a b _ => Sys2Proof.Machine.execFmaF64Rtz d a b s
  | .fmaF64Rup d a b _ => Sys2Proof.Machine.execFmaF64Rup d a b s
  | .fmaF64Rdn d a b _ => Sys2Proof.Machine.execFmaF64Rdn d a b s
  | .minF64 d a b _ => Sys2Proof.Machine.execMinF64 d a b s
  | .maxF64 d a b _ => Sys2Proof.Machine.execMaxF64 d a b s
  | .ceqF64 d a b nw => Sys2Proof.Machine.execCeqF64 d a b nw s
  | .cltF64 d a b nw => Sys2Proof.Machine.execCltF64 d a b nw s
  | .cleF64 d a b nw => Sys2Proof.Machine.execCleF64 d a b nw s
  | .cunF64 d a b nw => Sys2Proof.Machine.execCunF64 d a b nw s
  | .absF64 d a _ => Sys2Proof.Machine.execAbsF64 d a s
  | .negF64 d a _ => Sys2Proof.Machine.execNegF64 d a s
  | .classF64 d a nw => Sys2Proof.Machine.execClassF64 d a nw s
  | .divF32 d a b nw => Sys2Proof.Machine.execDivF32 d a b nw s
  | .sqrtF32 d a nw => Sys2Proof.Machine.execSqrtF32 d a nw s
  | .rcpF32 d a nw => Sys2Proof.Machine.execRcpF32 d a nw s
  | .rsqF32 d a nw => Sys2Proof.Machine.execRsqF32 d a nw s
  | .exp2F32 d a nw => Sys2Proof.Machine.execExp2F32 d a nw s
  | .log2F32 d a nw => Sys2Proof.Machine.execLog2F32 d a nw s
  | .sinpiF32 d a nw => Sys2Proof.Machine.execSinpiF32 d a nw s
  | .cospiF32 d a nw => Sys2Proof.Machine.execCospiF32 d a nw s
  | .absF32 d a nw => Sys2Proof.Machine.execAbsF32 d a nw s
  | .negF32 d a nw => Sys2Proof.Machine.execNegF32 d a nw s
  | .classF32 d a nw => Sys2Proof.Machine.execClassF32 d a nw s
  | .absF16 d a nw => Sys2Proof.Machine.execAbsF16 d a nw s
  | .negF16 d a nw => Sys2Proof.Machine.execNegF16 d a nw s
  | .absBf16 d a nw => Sys2Proof.Machine.execAbsBf16 d a nw s
  | .negBf16 d a nw => Sys2Proof.Machine.execNegBf16 d a nw s
  | .divF64 d a b _ => Sys2Proof.Machine.execDivF64 d a b s
  | .sqrtF64 d a _ => Sys2Proof.Machine.execSqrtF64 d a s
  | .rcpF64 d a _ => Sys2Proof.Machine.execRcpF64 d a s
  | .rsqF64 d a _ => Sys2Proof.Machine.execRsqF64 d a s
  | .exp2F64 d a _ => Sys2Proof.Machine.execExp2F64 d a s
  | .log2F64 d a _ => Sys2Proof.Machine.execLog2F64 d a s
  | .cnvF64F32 d a sel nw => Sys2Proof.Machine.execCnvF64F32 d a sel nw s
  | .cnvF32F64 d a _ => Sys2Proof.Machine.execCnvF32F64 d a s
  | .cnvF32F16 d a sel nw => Sys2Proof.Machine.execCnvF32F16 d a sel nw s
  | .cnvF16F32 d a nw => Sys2Proof.Machine.execCnvF16F32 d a nw s
  | .cnvF32Bf16 d a sel nw => Sys2Proof.Machine.execCnvF32Bf16 d a sel nw s
  | .cnvBf16F32 d a nw => Sys2Proof.Machine.execCnvBf16F32 d a nw s
  | .cnvF64F16 d a sel nw => Sys2Proof.Machine.execCnvF64F16 d a sel nw s
  | .cnvF64Bf16 d a sel nw => Sys2Proof.Machine.execCnvF64Bf16 d a sel nw s
  | .cnvF32S32 d a sel nw => Sys2Proof.Machine.execCnvF32S32 d a sel nw s
  | .cnvF32N32 d a sel nw => Sys2Proof.Machine.execCnvF32N32 d a sel nw s
  | .cnvS32F32 d a sel nw => Sys2Proof.Machine.execCnvS32F32 d a sel nw s
  | .cnvN32F32 d a sel nw => Sys2Proof.Machine.execCnvN32F32 d a sel nw s
  | .cnvF64S32 d a sel nw => Sys2Proof.Machine.execCnvF64S32 d a sel nw s
  | .cnvF64N32 d a sel nw => Sys2Proof.Machine.execCnvF64N32 d a sel nw s
  | .cnvS32F64 d a _ => Sys2Proof.Machine.execCnvS32F64 d a s
  | .cnvN32F64 d a _ => Sys2Proof.Machine.execCnvN32F64 d a s
  | .cnvF64S64 d a sel _ => Sys2Proof.Machine.execCnvF64S64 d a sel s
  | .cnvF64N64 d a sel _ => Sys2Proof.Machine.execCnvF64N64 d a sel s
  | .cnvS64F64 d a sel _ => Sys2Proof.Machine.execCnvS64F64 d a sel s
  | .cnvN64F64 d a sel _ => Sys2Proof.Machine.execCnvN64F64 d a sel s
  | .cnvS64F32 d a sel nw => Sys2Proof.Machine.execCnvS64F32 d a sel nw s
  | .cnvN64F32 d a sel nw => Sys2Proof.Machine.execCnvN64F32 d a sel nw s
  | .cnvS32S16 d a _ nw => Sys2Proof.Machine.execCnvS32S16 d a nw s
  | .cnvS32N16 d a _ nw => Sys2Proof.Machine.execCnvS32N16 d a nw s
  | .cnvS32S8 d a _ nw => Sys2Proof.Machine.execCnvS32S8 d a nw s
  | .cnvS32N8 d a _ nw => Sys2Proof.Machine.execCnvS32N8 d a nw s
  | .cnvS32S64 d a _ => Sys2Proof.Machine.execCnvS32S64 d a s
  | .cnvN32N64 d a _ => Sys2Proof.Machine.execCnvN32N64 d a s
  | .rintF32 d a sel nw => Sys2Proof.Machine.execRintF32 d a sel nw s
  | .rintF64 d a sel _ => Sys2Proof.Machine.execRintF64 d a sel s
  | .ballot d a => Sys2Proof.Machine.execBallot d a s
  | .vany d a nw => Sys2Proof.Machine.execVany d a nw s
  | .vall d a nw => Sys2Proof.Machine.execVall d a nw s
  | .mpop d a nw => Sys2Proof.Machine.execMpop d a nw s
  | .mffs d a nw => Sys2Proof.Machine.execMffs d a nw s
  | .lsel d a b nw => Sys2Proof.Machine.execLsel d a b nw s
  | .lbck d a b nw => Sys2Proof.Machine.execLbck d a b nw s
  | .lfwd d a b nw => Sys2Proof.Machine.execLfwd d a b nw s
  | .lmir d a b nw => Sys2Proof.Machine.execLmir d a b nw s
  | .bcast d a b nw => Sys2Proof.Machine.execBcast d a b nw s
  | .scanN32 d a nw => Sys2Proof.Machine.execScanN32 d a nw s
  | .xscanN32 d a nw => Sys2Proof.Machine.execXscanN32 d a nw s
  | .redaddN32 d a nw => Sys2Proof.Machine.execRedaddN32 d a nw s
  | .redminS32 d a nw => Sys2Proof.Machine.execRedminS32 d a nw s
  | .redmaxS32 d a nw => Sys2Proof.Machine.execRedmaxS32 d a nw s
  | .redandN32 d a nw => Sys2Proof.Machine.execRedandN32 d a nw s
  | .redorN32 d a nw => Sys2Proof.Machine.execRedorN32 d a nw s
  | .redaddF32 d a nw => Sys2Proof.Machine.execRedaddF32 d a nw s
  | .br off => Sys2Proof.Machine.execBr off s
  | .bz off => Sys2Proof.Machine.execBz off s
  | .bnz off => Sys2Proof.Machine.execBnz off s
  | .call off => Sys2Proof.Machine.execCall off s
  | .split off => Sys2Proof.Machine.execSplit off s
  | .bl off => Sys2Proof.Machine.execBl off s
  | .brk off => Sys2Proof.Machine.execBrk off s
  | .join => Sys2Proof.Machine.execJoin s
  | .ret => Sys2Proof.Machine.execRet s
  | .jr a => Sys2Proof.Machine.execJr a s
  | .jalr d a => Sys2Proof.Machine.execJalr d a s
  | .waitc tv tw ts te tf => Sys2Proof.Machine.execWaitc tv tw ts te tf s
  | .yield => Sys2Proof.Machine.execYield s
  | .exit => Sys2Proof.Machine.execExit s
  | .svc num => Sys2Proof.Machine.execSvc num s
  | .trap num => Sys2Proof.Machine.execTrap num s
  | .eret => Sys2Proof.Machine.execEret s
  | .rsr d sel nw => Sys2Proof.Machine.execRsr d sel nw s
  | .wsr a sel => Sys2Proof.Machine.execWsr a sel s
  | .vrsr d _ nw => Sys2Proof.Machine.execVrsr d nw s
  | .vwsr a _ => Sys2Proof.Machine.execVwsr a s
  | .clk d _ => Sys2Proof.Machine.execClk d s
  | .win b => Sys2Proof.Machine.execWin b s
  | .leave num => Sys2Proof.Machine.execLeave num s
  | .ldN8 d a b sc => Sys2Proof.Machine.execLdN8 d a b sc s
  | .ldS8 d a b sc => Sys2Proof.Machine.execLdS8 d a b sc s
  | .ldN16 d a b sc => Sys2Proof.Machine.execLdN16 d a b sc s
  | .ldS16 d a b sc => Sys2Proof.Machine.execLdS16 d a b sc s
  | .ld32 d a b sc => Sys2Proof.Machine.execLd32 d a b sc s
  | .ld64 d a b sc => Sys2Proof.Machine.execLd64 d a b sc s
  | .ldUniN8 d a b sc => Sys2Proof.Machine.execLdUniN8 d a b sc s
  | .ldUniS8 d a b sc => Sys2Proof.Machine.execLdUniS8 d a b sc s
  | .ldUniN16 d a b sc => Sys2Proof.Machine.execLdUniN16 d a b sc s
  | .ldUniS16 d a b sc => Sys2Proof.Machine.execLdUniS16 d a b sc s
  | .ldUni32 d a b sc => Sys2Proof.Machine.execLdUni32 d a b sc s
  | .ldUni64 d a b sc => Sys2Proof.Machine.execLdUni64 d a b sc s
  | .st8 d a b sc => Sys2Proof.Machine.execSt8 d a b sc s
  | .st16 d a b sc => Sys2Proof.Machine.execSt16 d a b sc s
  | .st32 d a b sc => Sys2Proof.Machine.execSt32 d a b sc s
  | .st64 d a b sc => Sys2Proof.Machine.execSt64 d a b sc s
  | .stUni8 d a b sc => Sys2Proof.Machine.execStUni8 d a b sc s
  | .stUni16 d a b sc => Sys2Proof.Machine.execStUni16 d a b sc s
  | .stUni32 d a b sc => Sys2Proof.Machine.execStUni32 d a b sc s
  | .stUni64 d a b sc => Sys2Proof.Machine.execStUni64 d a b sc s
  | .stcN32 d a sc => Sys2Proof.Machine.execStcN32 d a sc s
  | .stcN64 d a sc => Sys2Proof.Machine.execStcN64 d a sc s
  | .amaddN32 d a b sc => Sys2Proof.Machine.execAmaddN32 d a b sc s
  | .amaddN64 d a b sc => Sys2Proof.Machine.execAmaddN64 d a b sc s
  | .amaddF32 d a b sc => Sys2Proof.Machine.execAmaddF32 d a b sc s
  | .amaddF64 d a b sc => Sys2Proof.Machine.execAmaddF64 d a b sc s
  | .amminS32 d a b sc => Sys2Proof.Machine.execAmminS32 d a b sc s
  | .ammaxS32 d a b sc => Sys2Proof.Machine.execAmmaxS32 d a b sc s
  | .amminN32 d a b sc => Sys2Proof.Machine.execAmminN32 d a b sc s
  | .ammaxN32 d a b sc => Sys2Proof.Machine.execAmmaxN32 d a b sc s
  | .amandN32 d a b sc => Sys2Proof.Machine.execAmandN32 d a b sc s
  | .amorN32 d a b sc => Sys2Proof.Machine.execAmorN32 d a b sc s
  | .amxorN32 d a b sc => Sys2Proof.Machine.execAmxorN32 d a b sc s
  | .amswpN32 d a b sc => Sys2Proof.Machine.execAmswpN32 d a b sc s
  | .amswpN64 d a b sc => Sys2Proof.Machine.execAmswpN64 d a b sc s
  | .amcasN32 d a b sc => Sys2Proof.Machine.execAmcasN32 d a b sc s
  | .amcasN64 d a b sc => Sys2Proof.Machine.execAmcasN64 d a b sc s
  | .fence cls sc => Sys2Proof.Machine.execFence cls sc s
  | .cwb a b sc => Sys2Proof.Machine.execCwb a b sc s
  | .cinv a b sc => Sys2Proof.Machine.execCinv a b sc s
  | .cinvd a b sc => Sys2Proof.Machine.execCinvd a b sc s
  | .pref a b sc => Sys2Proof.Machine.execPref a b sc s
  | .aopen d a b => Sys2Proof.Machine.execAopen d a b s
  | .aopennb d a b => Sys2Proof.Machine.execAopennb d a b s
  | .aredF32 d a b => Sys2Proof.Machine.execAredF32 d a b s
  | .aredF64 d a b => Sys2Proof.Machine.execAredF64 d a b s
  | .aredS32 d a b => Sys2Proof.Machine.execAredS32 d a b s
  | .aredS64 d a b => Sys2Proof.Machine.execAredS64 d a b s
  | .aseal d a => Sys2Proof.Machine.execAseal d a s
  | .asnap d a => Sys2Proof.Machine.execAsnap d a s
  | .aqry d a => Sys2Proof.Machine.execAqry d a s
  | .mmaF64 d a b => Sys2Proof.Machine.execMmaF64 d a b s
  | .mmaF32 d a b => Sys2Proof.Machine.execMmaF32 d a b s
  | .mmaF16 d a b => Sys2Proof.Machine.execMmaF16 d a b s
  | .mmaBf16 d a b => Sys2Proof.Machine.execMmaBf16 d a b s
  | .mmaE4m3 d a b => Sys2Proof.Machine.execMmaE4m3 d a b s
  | .mmaE5m2 d a b => Sys2Proof.Machine.execMmaE5m2 d a b s
  | .mmaE3m2 d a b => Sys2Proof.Machine.execMmaE3m2 d a b s
  | .mmaE2m3 d a b => Sys2Proof.Machine.execMmaE2m3 d a b s
  | .mmaE2m1 d a b => Sys2Proof.Machine.execMmaE2m1 d a b s
  | .mmaMxi8 d a b => Sys2Proof.Machine.execMmaMxi8 d a b s
  | .mmaE4m3E5m2 d a b => Sys2Proof.Machine.execMmaE4m3E5m2 d a b s
  | .mmaE5m2E4m3 d a b => Sys2Proof.Machine.execMmaE5m2E4m3 d a b s
  | .mmaE3m2E2m3 d a b => Sys2Proof.Machine.execMmaE3m2E2m3 d a b s
  | .mmaE2m3E3m2 d a b => Sys2Proof.Machine.execMmaE2m3E3m2 d a b s
  | .mmafF64 d a b => Sys2Proof.Machine.execMmafF64 d a b s
  | .mmafF32 d a b => Sys2Proof.Machine.execMmafF32 d a b s
  | .mmafF16 d a b => Sys2Proof.Machine.execMmafF16 d a b s
  | .mmafBf16 d a b => Sys2Proof.Machine.execMmafBf16 d a b s
  | .mmafE4m3 d a b => Sys2Proof.Machine.execMmafE4m3 d a b s
  | .mmafE5m2 d a b => Sys2Proof.Machine.execMmafE5m2 d a b s
  | .mmafE3m2 d a b => Sys2Proof.Machine.execMmafE3m2 d a b s
  | .mmafE2m3 d a b => Sys2Proof.Machine.execMmafE2m3 d a b s
  | .mmafE2m1 d a b => Sys2Proof.Machine.execMmafE2m1 d a b s
  | .mmafMxi8 d a b => Sys2Proof.Machine.execMmafMxi8 d a b s
  | .mmafE4m3E5m2 d a b => Sys2Proof.Machine.execMmafE4m3E5m2 d a b s
  | .mmafE5m2E4m3 d a b => Sys2Proof.Machine.execMmafE5m2E4m3 d a b s
  | .mmafE3m2E2m3 d a b => Sys2Proof.Machine.execMmafE3m2E2m3 d a b s
  | .mmafE2m3E3m2 d a b => Sys2Proof.Machine.execMmafE2m3E3m2 d a b s
  | .cvtmxE4m3F32 d a b => Sys2Proof.Machine.execCvtmxE4m3F32 d a b s
  | .cvtmxE5m2F32 d a b => Sys2Proof.Machine.execCvtmxE5m2F32 d a b s
  | .cvtmxE3m2F32 d a b => Sys2Proof.Machine.execCvtmxE3m2F32 d a b s
  | .cvtmxE2m3F32 d a b => Sys2Proof.Machine.execCvtmxE2m3F32 d a b s
  | .cvtmxE2m1F32 d a b => Sys2Proof.Machine.execCvtmxE2m1F32 d a b s
  | .cvtmxMxi8F32 d a b => Sys2Proof.Machine.execCvtmxMxi8F32 d a b s
  | .dqmxE4m3F32 d a b => Sys2Proof.Machine.execDqmxE4m3F32 d a b s
  | .dqmxE5m2F32 d a b => Sys2Proof.Machine.execDqmxE5m2F32 d a b s
  | .dqmxE3m2F32 d a b => Sys2Proof.Machine.execDqmxE3m2F32 d a b s
  | .dqmxE2m3F32 d a b => Sys2Proof.Machine.execDqmxE2m3F32 d a b s
  | .dqmxE2m1F32 d a b => Sys2Proof.Machine.execDqmxE2m1F32 d a b s
  | .dqmxMxi8F32 d a b => Sys2Proof.Machine.execDqmxMxi8F32 d a b s
  | .scaccF32 d a => Sys2Proof.Machine.execScaccF32 d a s
  | .scaccF64 d a => Sys2Proof.Machine.execScaccF64 d a s
  | .amxrd d a => Sys2Proof.Machine.execAmxrd d a s
  | .amxclr a => Sys2Proof.Machine.execAmxclr a s
  | .fdef a b => Sys2Proof.Machine.execFdef a b s
  | .fcall d a b => Sys2Proof.Machine.execFcall d a b s
  | .fret a b => Sys2Proof.Machine.execFret a b s
  | .finv b => Sys2Proof.Machine.execFinv b s
  | .fstat d a b => Sys2Proof.Machine.execFstat d a b s
  | .fpre a b => Sys2Proof.Machine.execFpre a b s
  | .copy a b => Sys2Proof.Machine.execCopy a b s
  | .copybox a b => Sys2Proof.Machine.execCopybox a b s
  | .copyred a b => Sys2Proof.Machine.execCopyred a b s
  | .cseal d => Sys2Proof.Machine.execCseal d s
  | .cwait a => Sys2Proof.Machine.execCwait a s
  | .twaitany a => Sys2Proof.Machine.execTwaitany a s
  | .twaitall a => Sys2Proof.Machine.execTwaitall a s
  | .tffr d a => Sys2Proof.Machine.execTffr d a s
  | .gview d a => Sys2Proof.Machine.execGview d a s
  | .gstn d a b => Sys2Proof.Machine.execGstn d a b s
  | .grst a b => Sys2Proof.Machine.execGrst a b s
  | .gprol a b => Sys2Proof.Machine.execGprol a b s
  | .gproladd a b => Sys2Proof.Machine.execGproladd a b s
  | .gred a b => Sys2Proof.Machine.execGred a b s
  | .binit d a => Sys2Proof.Machine.execBinit d a s
  | .barv d => Sys2Proof.Machine.execBarv d s
  | .bwait d => Sys2Proof.Machine.execBwait d s
  | .bexp d a => Sys2Proof.Machine.execBexp d a s
  | .spop d b => Sys2Proof.Machine.execSpop d b s
  | .spush d a b => Sys2Proof.Machine.execSpush d a b s
  | .tagclr a => Sys2Proof.Machine.execTagclr a s
  | .tagrd d => Sys2Proof.Machine.execTagrd d s
  | .launch d a => Sys2Proof.Machine.execLaunch d a s
  | .dwait a b => Sys2Proof.Machine.execDwait a b s
  | .gbar => Sys2Proof.Machine.execGbar s
  | .waitConditionMet g wv => Sys2Proof.Machine.execWaitConditionMet g wv s
  | .waitExchangeTimeout g wv => Sys2Proof.Machine.execWaitExchangeTimeout g wv s
  | .vacancyFill core => Sys2Proof.Machine.execVacancyFill core s
  | .deferredFaultDelivery g wv => Sys2Proof.Machine.execDeferredFaultDelivery g wv s
  | .quantumExpiry g wv => Sys2Proof.Machine.execQuantumExpiry g wv s
  | .detCommitPhase g => Sys2Proof.Machine.execDetCommitPhase g s
  | .loadDataReturn g wv k => Sys2Proof.Machine.execLoadDataReturn g wv k s
  | .storePerformed g wv k => Sys2Proof.Machine.execStorePerformed g wv k s
  | .atomicPerformed g wv k => Sys2Proof.Machine.execAtomicPerformed g wv k s
  | .cacheEviction level unit line => Sys2Proof.Machine.execCacheEviction level unit line s
  | .pageWalk core ctx va => Sys2Proof.Machine.execPageWalk core ctx va s
  | .matrixStep core k => Sys2Proof.Machine.execMatrixStep core k s
  | .scaccRow core k => Sys2Proof.Machine.execScaccRow core k s
  | .leaveGrant sector => Sys2Proof.Machine.execLeaveGrant sector s
  | .temperatureThreshold sector temp => Sys2Proof.Machine.execTemperatureThreshold sector temp s
  | .copyChunk g cr tag k => Sys2Proof.Machine.execCopyChunk g cr tag k s
  | .engineStreamPush g cr tag => Sys2Proof.Machine.execEngineStreamPush g cr tag s
  | .gridTransferRow g cr tag k => Sys2Proof.Machine.execGridTransferRow g cr tag k s
  | .accumulationArrival k => Sys2Proof.Machine.execAccumulationArrival k s
  | .lineSeal ctx index k => Sys2Proof.Machine.execLineSeal ctx index k s
  | .frameSpill ctx => Sys2Proof.Machine.execFrameSpill ctx s
  | .frameReload ctx => Sys2Proof.Machine.execFrameReload ctx s
  | .fsSearch g wv t => Sys2Proof.Machine.execFsSearch g wv t s
  | .fsHitIncrement k => Sys2Proof.Machine.execFsHitIncrement k s
  | .fsInsert k => Sys2Proof.Machine.execFsInsert k s
  | .fsDefinitionApply k store => Sys2Proof.Machine.execFsDefinitionApply k store s
  | .fsInvalidationApply k store => Sys2Proof.Machine.execFsInvalidationApply k store s
  | .fsPreloadPlacement k => Sys2Proof.Machine.execFsPreloadPlacement k s
  | .fsBucketSpill ctx fid bucket => Sys2Proof.Machine.execFsBucketSpill ctx fid bucket s
  | .launchQueueRegister die q ctx ring size headAt tailAt => Sys2Proof.Machine.execLaunchQueueRegister die q ctx ring size headAt tailAt s
  | .tailWrite die q value => Sys2Proof.Machine.execTailWrite die q value s
  | .dependenceSignalWrite g dep value => Sys2Proof.Machine.execDependenceSignalWrite g dep value s
  | .bindCrew g cr core slot row lsBase image => Sys2Proof.Machine.execBindCrew g cr core slot row lsBase image s
  | .parkedCrewPreemption g cr => Sys2Proof.Machine.execParkedCrewPreemption g cr s
  | .gridCompletion g => Sys2Proof.Machine.execGridCompletion g s
  | .gridTerminationRequest g wv => Sys2Proof.Machine.execGridTerminationRequest g wv s
  | .hostDriverTermination g => Sys2Proof.Machine.execHostDriverTermination g s
  | .preemptionRequest crews => Sys2Proof.Machine.execPreemptionRequest crews s
  | .crewSave g cr => Sys2Proof.Machine.execCrewSave g cr s
  | .localImageWriteback g cr line => Sys2Proof.Machine.execLocalImageWriteback g cr line s
  | .bucketMove bucket slice => Sys2Proof.Machine.execBucketMove bucket slice s
  | .hostMemReadOwnership pa => Sys2Proof.Machine.execHostMemReadOwnership pa s
  | .hostMemReadShared pa => Sys2Proof.Machine.execHostMemReadShared pa s
  | .hostMemWrite pa data => Sys2Proof.Machine.execHostMemWrite pa data s
  | .bisnpResponse pa inv data => Sys2Proof.Machine.execBisnpResponse pa inv data s
  | .hostSnoopInvalidate pa => Sys2Proof.Machine.execHostSnoopInvalidate pa s
  | .hostSnoopData pa => Sys2Proof.Machine.execHostSnoopData pa s
  | .linkFlitReceive link hdr body => Sys2Proof.Machine.execLinkFlitReceive link hdr body s
  | .linkRetryRequest link seq => Sys2Proof.Machine.execLinkRetryRequest link seq s
  | .linkRetrain link ok => Sys2Proof.Machine.execLinkRetrain link ok s
  | .peerRemoteTransaction src txn kind pa size data => Sys2Proof.Machine.execPeerRemoteTransaction src txn kind pa size data s
  | .fabricDomainFormation self devs keyIds => Sys2Proof.Machine.execFabricDomainFormation self devs keyIds s
  | .heartbeatSend => Sys2Proof.Machine.execHeartbeatSend s
  | .heartbeatReceive dev => Sys2Proof.Machine.execHeartbeatReceive dev s
  | .deviceDead dev => Sys2Proof.Machine.execDeviceDead dev s
  | .deadDeviceScrub dev => Sys2Proof.Machine.execDeadDeviceScrub dev s
  | .replicaCollapse ctx va dev pa tables reply => Sys2Proof.Machine.execReplicaCollapse ctx va dev pa tables reply s
  | .pteChange ctx entry dev reply => Sys2Proof.Machine.execPteChange ctx entry dev reply s
  | .contextCreate ctx root key quota saveArea keyIds win => Sys2Proof.Machine.execContextCreate ctx root key quota saveArea keyIds win s
  | .contextTeardown ctx => Sys2Proof.Machine.execContextTeardown ctx s
  | .powerOn die fuseMap fuseHash fuseVersion secret image => Sys2Proof.Machine.execPowerOn die fuseMap fuseHash fuseVersion secret image s
  | .spdmRequest kind session => Sys2Proof.Machine.execSpdmRequest kind session s
  | .illegalInstruction => Sys2Proof.Machine.execIllegalInstruction s
  | .instructionFetchFault => Sys2Proof.Machine.execInstructionFetchFault s
  | .deviceQueueRecord die => Sys2Proof.Machine.execDeviceQueueRecord die s

end Sys2Proof.Machine
end

