-- ==== Sys2Proof/Machine/Step.lean ====
section
/-! DEFINITION. One step of the device: the next move (log 2) is a core's issue clock or an event of another agent. -/

namespace Sys2Proof.Machine

/-- A move: on an issue clock the wave that issues takes its deferred fault (R375) or executes its instruction (R189); an event does what
its row says. -/
noncomputable def State.move (s : State) (m : Move) : Host.Outcome State Fault Refusal :=
  match m with
  | .issue core busy =>
    let s := s.tock core
    match s.pick core busy with
    | none => .next s
    | some id =>
      if (s.wv id).owes then .next (s.deliver id)
      else
        let s := s.take id
        match exec s.instr s with
        | .next t => .next (t.after id)
        | .fault f => .fault f
        | .refused r => .refused r
  | .occur e => if isEvent e then exec e s else .next s

/-- One step. A module that has shut down takes no move but a power-on (R426). -/
noncomputable def step (s : State) : Host.Outcome State Fault Refusal :=
  if !s.moduleUp && !isPower s.chosen then .fault .moduleDown
  else s.advance.move s.chosen

/-- The state with a word of the opcode table where the next step fetches: a context, its tables, and a bound wave are put in place, as a
load from outside would leave them (log 3). The bits above `nbits` are zero. -/
def State.withFetchWord (s : State) (nbits w : Nat) : State := s.place_ (leBytes 8 (w % 2 ^ nbits))

end Sys2Proof.Machine
end

