-- ==== Sys2Proof/Safety.lean ====
section
/-! DEFINITION. What the statements are written in: a safe state, the parts of a wave that an instruction may change, and the shapes in
which an instruction's result is stated. A statement about an instruction that retires has the form `s.ends o P`: the outcome `o` is a next
state that differs from `s` in the executing wave alone, and `P` says what that wave then holds. -/

namespace Sys2Proof.Machine

/-! ### A safe state -/

/-- Every byte memory of the state has its canonical form (log 1). -/
def State.memOk (s : State) : Prop := s.hbm.wf = true ∧ s.sysMem.wf = true ∧ ∀ p ∈ s.crews, p.2.ls.wf = true

/-- A run of the machine answers no fault and no refusal before its n-th step. -/
def safeRun : Nat → State → Prop
  | 0, _ => True
  | n + 1, s => ∃ t, step s = .next t ∧ safeRun n t

/-! ### Outcomes -/

/-- The outcome is a next state that differs from `s` in the executing wave alone, of which `P` holds. -/
def State.ends (s : State) (o : Out) (P : Wave → Prop) : Prop := ∃ x, o = .next (s.setW x) ∧ P x

/-- No check at issue stops an instruction: every field is legal (R66), its rows lie in the allocation (R9), and no source holds an
uncorrectable error (R379). -/
def State.issues (s : State) (i : Instr) : Prop := i.wellFormed = true ∧ s.w.precheck i.operands = none

/-! ### A wave before and after -/

/-- The word of thread t in row k of the allocation (R9). -/
def Wave.cell (w : Wave) (k t : Nat) : Word := (w.v.getD k []).at t

/-- Latch k, thread t (R51). -/
def Wave.latch (w : Wave) (k t : Nat) : Word := (w.q.getD k []).at t

/-- The wave has retired an instruction and goes on at an address (R16, R20, R195). -/
structure Wave.Retired (w x : Wave) (pc : BitVec 49) : Prop where
  pc : x.pc = pc
  count : x.count = if w.sup then w.count else w.count + 1
  hold : x.hold = none
  due : x.qDue = (w.qDue || (!w.sup && w.det && (w.count + 1).toNat % w.quant == 0))

/-- The address after an instruction of `n` bytes (R16). -/
def Wave.past (w : Wave) (n : Nat := 4) : BitVec 49 := w.pc + BitVec.ofNat 49 n

/-- The latches have shifted, `f` entering q0 (R51, R52). -/
structure Wave.Shifted (w x : Wave) (f : Nat → Word) : Prop where
  first : ∀ t, t < threads → x.latch 0 t = f t
  rest : ∀ k t, k < 7 → x.latch (k + 1) t = w.latch k t
  errors : x.badQ = (w.badQ.map (· + 1)).filter (· < 8)

/-- The latches are as they were. -/
def Wave.Unshifted (w x : Wave) : Prop := x.q = w.q ∧ x.badQ = w.badQ

/-- The rows of the allocation: row `r` of the window holds `f` for the active threads, when `on`; nothing else has changed. -/
structure Wave.RowSet (w x : Wave) (on : Bool) (r : Nat) (f : Nat → Word) : Prop where
  cells : ∀ k t, t < threads → x.cell k t = if on = true ∧ k = w.wbase + r ∧ w.act t = true then f t else w.cell k t
  errors : x.badRows = if on then w.badRows.filter (· ≠ w.wbase + r) else w.badRows

/-- The same for the two rows of a pair, low word in row `r`. -/
structure Wave.PairSet (w x : Wave) (r : Nat) (f : Nat → BitVec 64) : Prop where
  cells : ∀ k t, t < threads → x.cell k t =
    if w.act t = true ∧ k = w.wbase + r then (f t).extractLsb' 0 32
    else if w.act t = true ∧ k = w.wbase + r + 1 then (f t).extractLsb' 32 32 else w.cell k t
  errors : x.badRows = w.badRows.filter (fun k => k ≠ w.wbase + r ∧ k ≠ w.wbase + r + 1)

/-- The wave registers: register `n` holds `v`, when `on`; no other has changed. -/
def Wave.RegSet (w x : Wave) (on : Bool) (n : Nat) (v : Word) : Prop := ∀ m, x.wr m = if on = true ∧ m = n then v else w.wr m

/-- A wave pair holds `v`; no other wave register has changed. -/
def Wave.RegPairSet (w x : Wave) (n : Nat) (v : BitVec 64) : Prop :=
  ∀ m, x.wr m = if m = n then v.extractLsb' 0 32 else if m = n + 1 then v.extractLsb' 32 32 else w.wr m

/-- The flags of the threads of `p` have been ORed into `fsr`; nothing else of it has changed (R83). -/
def Wave.FlagsSet (w x : Wave) (p : Nat → Bool) (fl : Nat → FFlags) : Prop :=
  ∀ t, t < threads → x.fsrOf t = if p t then w.fsrOf t ||| (fl t).setWidth 32 else w.fsrOf t

/-- No thread of `p` raises an exception whose enable is set (R11, R83). -/
def Wave.Untrapped (w : Wave) (p : Nat → Bool) (fl : Nat → FFlags) : Prop :=
  ∀ t, t < threads → p t = true → fl t &&& w.enables t = 0

/-- A wave without PC, its count, the model's `hold` and `qDue`. -/
def Wave.sansPc (w : Wave) : Wave := { w with pc := 0, count := 0, qDue := false, hold := none }

/-- A wave without its latches as well. -/
def Wave.sansQ (w : Wave) : Wave := { w.sansPc with q := [], badQ := [] }

/-- A wave without its latches and its rows. -/
def Wave.sansRows (w : Wave) : Wave := { w.sansQ with v := [], badRows := [] }

/-- A wave without its latches and its wave registers. -/
def Wave.sansRegs (w : Wave) : Wave := { w.sansQ with w := [] }

/-- A wave without `fsr`. -/
def Wave.sansFsr (w : Wave) : Wave := { w with fsr := [] }

/-- Only PC and the count of a wave have changed. -/
def Wave.OnlyPc (w x : Wave) : Prop := x.sansPc = w.sansPc

/-- Only PC, the count, the latches and the rows of a wave have changed. -/
def Wave.OnlyRows (w x : Wave) : Prop := x.sansRows = w.sansRows

/-- Only PC, the count, the latches, the rows and `fsr` of a wave have changed. -/
def Wave.OnlyRowsFlags (w x : Wave) : Prop := x.sansRows.sansFsr = w.sansRows.sansFsr

/-- Only PC, the count, the latches and the wave registers of a wave have changed. -/
def Wave.OnlyRegs (w x : Wave) : Prop := x.sansRegs = w.sansRegs

/-- Only PC, the count, the latches, the wave registers and `fsr` of a wave have changed. -/
def Wave.OnlyRegsFlags (w x : Wave) : Prop := x.sansRegs.sansFsr = w.sansRegs.sansFsr

/-! ### The shapes of results -/

/-- A 32-bit vector result: `f` for the active threads into row `d` of the window unless NW, and into q0, zero for the others
(R51, R52); PC `n` bytes on; all else unchanged. -/
def State.writesRow (s : State) (d : Code) (nw : Bool) (n : Nat) (f : Wave → Nat → Word) (o : Out) : Prop :=
  s.ends o (fun x => s.w.Retired x (s.w.past n) ∧ s.w.RowSet x (!nw) d.toNat (f s.w)
    ∧ s.w.Shifted x (fun t => if s.w.act t then f s.w t else 0) ∧ s.w.OnlyRows x)

/-- A pair result, its low word entering q0 (R52, R94). -/
def State.writesPair (s : State) (d : Code) (f : Wave → Nat → BitVec 64) (o : Out) : Prop :=
  s.ends o (fun x => s.w.Retired x s.w.past ∧ s.w.PairSet x d.toNat (f s.w)
    ∧ s.w.Shifted x (fun t => if s.w.act t then (f s.w t).extractLsb' 0 32 else 0) ∧ s.w.OnlyRows x)

/-- A wave result, which enters q0 for every thread (R52). -/
def State.writesReg (s : State) (d : Code) (nw : Bool) (n : Nat) (f : Wave → Word) (o : Out) : Prop :=
  s.ends o (fun x => s.w.Retired x (s.w.past n) ∧ s.w.RegSet x (!nw) d.toNat (f s.w)
    ∧ s.w.Shifted x (fun _ => f s.w) ∧ s.w.OnlyRegs x)

/-- A wave pair result (R52). -/
def State.writesRegPair (s : State) (d : Code) (f : Wave → BitVec 64) (o : Out) : Prop :=
  s.ends o (fun x => s.w.Retired x s.w.past ∧ s.w.RegPairSet x d.toNat (f s.w)
    ∧ s.w.Shifted x (fun _ => (f s.w).extractLsb' 0 32) ∧ s.w.OnlyRegs x)

/-- A 32-bit floating-point result: where no enabled exception is raised, the results are written and the flags raised (R83, R104). -/
def State.writesFpRow (s : State) (d : Code) (nw : Bool) (f : Wave → Nat → Nat × FFlags) (o : Out) : Prop :=
  s.w.Untrapped s.w.act (fun t => (f s.w t).2) →
  s.ends o (fun x => s.w.Retired x s.w.past ∧ s.w.RowSet x (!nw) d.toNat (fun t => BitVec.ofNat 32 (f s.w t).1)
    ∧ s.w.Shifted x (fun t => if s.w.act t then BitVec.ofNat 32 (f s.w t).1 else 0)
    ∧ s.w.FlagsSet x s.w.act (fun t => (f s.w t).2) ∧ s.w.OnlyRowsFlags x)

/-- A floating-point pair result. -/
def State.writesFpPair (s : State) (d : Code) (f : Wave → Nat → Nat × FFlags) (o : Out) : Prop :=
  s.w.Untrapped s.w.act (fun t => (f s.w t).2) →
  s.ends o (fun x => s.w.Retired x s.w.past ∧ s.w.PairSet x d.toNat (fun t => BitVec.ofNat 64 (f s.w t).1)
    ∧ s.w.Shifted x (fun t => if s.w.act t then BitVec.ofNat 32 (f s.w t).1 else 0)
    ∧ s.w.FlagsSet x s.w.act (fun t => (f s.w t).2) ∧ s.w.OnlyRowsFlags x)

end Sys2Proof.Machine
end

