-- ==== Sys2Proof/Certificates/Slice0/Obligations.lean ====
section
/-! DEFINITION. The statements for the provers, and the tables of the spec that they are written with. -/

namespace Sys2Proof.Machine

/-! ### Results of the arithmetic instructions, from the tables of 05_arithmetic_instructions.md -/

/-- The result column of R98 by minor, for operands A, B and D. -/
def intResult (k : Nat) (A B D : Word) : Word :=
  let p := B.toNat % 32
  let n := min (B.toNat / 256 % 64) (32 - p)
  let M : Word := BitVec.ofNat 32 ((2 ^ n - 1) * 2 ^ p)
  let clampS := fun (x : Int) => BitVec.ofInt 32 (max (-2 ^ 31) (min x (2 ^ 31 - 1)))
  match k with
  | 0x00 => A + B
  | 0x01 => A - B
  | 0x02 => A * B
  | 0x03 => (A.signExtend 64 * B.signExtend 64).extractLsb' 32 32
  | 0x04 => (A.setWidth 64 * B.setWidth 64).extractLsb' 32 32
  | 0x05 => A * B + D
  | 0x06 => A &&& B
  | 0x07 => A ||| B
  | 0x08 => A ^^^ B
  | 0x09 => if 32 ≤ B.toNat then 0 else BitVec.ofNat 32 (A.toNat * 2 ^ B.toNat)
  | 0x0A => if 32 ≤ B.toNat then 0 else BitVec.ofNat 32 (A.toNat / 2 ^ B.toNat)
  | 0x0B => BitVec.ofInt 32 (A.toInt / 2 ^ min B.toNat 31)
  | 0x0C => BitVec.ofInt 32 (min A.toInt B.toInt)
  | 0x0D => BitVec.ofNat 32 (min A.toNat B.toNat)
  | 0x0E => BitVec.ofInt 32 (max A.toInt B.toInt)
  | 0x0F => BitVec.ofNat 32 (max A.toNat B.toNat)
  | 0x10 => if A = B then 1 else 0
  | 0x11 => if A.toInt < B.toInt then 1 else 0
  | 0x12 => if A.toNat < B.toNat then 1 else 0
  | 0x13 => if D ≠ 0 then A else B
  | 0x14 => BitVec.ofNat 32 ((List.range 32).countP A.getLsbD)
  | 0x15 => BitVec.ofNat 32 ((List.range 32).takeWhile (fun i => !A.getLsbD (31 - i))).length
  | 0x16 => A.reverse
  | 0x17 => clampS (A.toInt + B.toInt)
  | 0x18 => clampS (A.toInt - B.toInt)
  | 0x19 => BitVec.ofNat 32 (min (A.toNat + B.toNat) (2 ^ 32 - 1))
  | 0x1A => BitVec.ofNat 32 (A.toNat - B.toNat)
  | 0x1B => BitVec.ofNat 32 (A.toNat / 2 ^ p % 2 ^ n)
  | _ => (D &&& ~~~ M) ||| (BitVec.ofNat 32 (A.toNat * 2 ^ p) &&& M)

/-- The result column of R101 by minor, for a pair destination: A and B as pairs, X and Y as 32-bit positions. -/
def pairResult (k : Nat) (A B : BitVec 64) (X Y : Word) : BitVec 64 :=
  match k with
  | 0x00 => A + B
  | 0x01 => A - B
  | 0x02 => A + Y.setWidth 64
  | 0x03 => A + Y.signExtend 64
  | 0x04 => if 64 ≤ Y.toNat then 0 else BitVec.ofNat 64 (A.toNat * 2 ^ Y.toNat)
  | 0x05 => if 64 ≤ Y.toNat then 0 else BitVec.ofNat 64 (A.toNat / 2 ^ Y.toNat)
  | 0x06 => BitVec.ofInt 64 (A.toInt / 2 ^ min Y.toNat 63)
  | 0x07 => A &&& B
  | 0x08 => A ||| B
  | 0x09 => A ^^^ B
  | 0x0D => BitVec.ofNat 64 (X.toNat * Y.toNat)
  | _ => BitVec.ofInt 64 (X.toInt * Y.toInt)

/-- A reading is the nonzero real (-1)^neg * q * 2^k. -/
def FVal.isReal (v : FVal) (neg : Bool) (q : Nat) (k : Int) : Prop := ∃ m e, v = .fin neg m e ∧ m * 2 ^ (e - k).toNat = q * 2 ^ (k - e).toNat

/-- The place of a code that is no NaN in the order of values, +0 and -0 at one place (R108). -/
def Fmt.order (F : Fmt) (c : Nat) : Int := if F.sign c then -((c % 2 ^ F.mag : Nat) : Int) else (c % 2 ^ F.mag : Nat)

/-- The same with -0 below +0 (R107). -/
def Fmt.key (F : Fmt) (c : Nat) : Int := if F.sign c then -((c % 2 ^ F.mag : Nat) : Int) - 1 else (c % 2 ^ F.mag : Nat)

/-- The bit of the class table of R109. -/
def Fmt.classBit (F : Fmt) (c : Nat) : Nat :=
  let neg := F.sign c
  if F.expo c = 2 ^ F.eb - 1 then
    if F.frac c = 0 then (if neg then 0 else 7) else if F.frac c / 2 ^ (F.fb - 1) % 2 = 1 then 9 else 8
  else if F.expo c = 0 then
    if F.frac c = 0 then (if neg then 3 else 4) else (if neg then 2 else 5)
  else (if neg then 1 else 6)

/-- m · 2^e is below n · 2^f. -/
def dyadicLt (m : Nat) (e : Int) (n : Nat) (f : Int) : Prop := m * 2 ^ (e - f).toNat < n * 2 ^ (f - e).toNat

/-- The code and flags are what RoundTo and FlushOut make of a real number (R111), its magnitude given by the m · 2^e that it is above and below. A
number strictly between two neighbours m · 2^e and (m + 1) · 2^e rounds as the number midway between them, where m has over fb + 2 bits: no code and
no tie of the format lies there. -/
def Fmt.RoundsReal (F : Fmt) (v : FEnv) (neg : Bool) (above below : Nat → Int → Prop) (r : Nat × FFlags) : Prop :=
  ∀ (m : Nat) (e : Int), 2 ^ (F.fb + 2) ≤ m →
    (¬ above m e → ¬ below m e → r = F.flushOut v.fzo (F.round v.rm ⟨neg, m, e⟩)) ∧
    (above m e → below (m + 1) e → r = F.flushOut v.fzo (F.round v.rm ⟨neg, 2 * m + 1, e - 1⟩))

/-- The compares of R101 by minor. -/
def pairCompare (k : Nat) (A B : BitVec 64) : Bool :=
  match k with
  | 0x0A => decide (A = B)
  | 0x0B => decide (A.toInt < B.toInt)
  | _ => decide (A.toNat < B.toNat)

/-- Minor, d, a, b and NW of a vector instruction of major 0x01 (R97). -/
def vecIntForm : Instr → Option (Nat × Code × Code × Code × Bool)
  | .addN32 d a b nw => some (0x00, d, a, b, nw)
  | .subN32 d a b nw => some (0x01, d, a, b, nw)
  | .mulN32 d a b nw => some (0x02, d, a, b, nw)
  | .mulhiS32 d a b nw => some (0x03, d, a, b, nw)
  | .mulhiN32 d a b nw => some (0x04, d, a, b, nw)
  | .madN32 d a b nw => some (0x05, d, a, b, nw)
  | .andN32 d a b nw => some (0x06, d, a, b, nw)
  | .orN32 d a b nw => some (0x07, d, a, b, nw)
  | .xorN32 d a b nw => some (0x08, d, a, b, nw)
  | .shlN32 d a b nw => some (0x09, d, a, b, nw)
  | .shrN32 d a b nw => some (0x0A, d, a, b, nw)
  | .shrS32 d a b nw => some (0x0B, d, a, b, nw)
  | .minS32 d a b nw => some (0x0C, d, a, b, nw)
  | .minN32 d a b nw => some (0x0D, d, a, b, nw)
  | .maxS32 d a b nw => some (0x0E, d, a, b, nw)
  | .maxN32 d a b nw => some (0x0F, d, a, b, nw)
  | .seqN32 d a b nw => some (0x10, d, a, b, nw)
  | .sltS32 d a b nw => some (0x11, d, a, b, nw)
  | .sltN32 d a b nw => some (0x12, d, a, b, nw)
  | .selN32 d a b nw => some (0x13, d, a, b, nw)
  | .popN32 d a nw => some (0x14, d, a, 0, nw)
  | .clzN32 d a nw => some (0x15, d, a, 0, nw)
  | .brevN32 d a nw => some (0x16, d, a, 0, nw)
  | .addsS32 d a b nw => some (0x17, d, a, b, nw)
  | .subsS32 d a b nw => some (0x18, d, a, b, nw)
  | .addsN32 d a b nw => some (0x19, d, a, b, nw)
  | .subsN32 d a b nw => some (0x1A, d, a, b, nw)
  | .bfxN32 d a b nw => some (0x1B, d, a, b, nw)
  | .bfiN32 d a b nw => some (0x1C, d, a, b, nw)
  | _ => none

/-- Minor, d, a, b and NW of an instruction of major 0x08 that acts on wave registers (R102). -/
def waveIntForm : Instr → Option (Nat × Code × Code × Code × Bool)
  | .waveAddN32 d a b nw => some (0x00, d, a, b, nw)
  | .waveSubN32 d a b nw => some (0x01, d, a, b, nw)
  | .waveMulN32 d a b nw => some (0x02, d, a, b, nw)
  | .waveMulhiS32 d a b nw => some (0x03, d, a, b, nw)
  | .waveMulhiN32 d a b nw => some (0x04, d, a, b, nw)
  | .waveMadN32 d a b nw => some (0x05, d, a, b, nw)
  | .waveAndN32 d a b nw => some (0x06, d, a, b, nw)
  | .waveOrN32 d a b nw => some (0x07, d, a, b, nw)
  | .waveXorN32 d a b nw => some (0x08, d, a, b, nw)
  | .waveShlN32 d a b nw => some (0x09, d, a, b, nw)
  | .waveShrN32 d a b nw => some (0x0A, d, a, b, nw)
  | .waveShrS32 d a b nw => some (0x0B, d, a, b, nw)
  | .waveMinS32 d a b nw => some (0x0C, d, a, b, nw)
  | .waveMinN32 d a b nw => some (0x0D, d, a, b, nw)
  | .waveMaxS32 d a b nw => some (0x0E, d, a, b, nw)
  | .waveMaxN32 d a b nw => some (0x0F, d, a, b, nw)
  | .waveSeqN32 d a b nw => some (0x10, d, a, b, nw)
  | .waveSltS32 d a b nw => some (0x11, d, a, b, nw)
  | .waveSltN32 d a b nw => some (0x12, d, a, b, nw)
  | .waveSelN32 d a b nw => some (0x13, d, a, b, nw)
  | .wavePopN32 d a nw => some (0x14, d, a, 0, nw)
  | .waveClzN32 d a nw => some (0x15, d, a, 0, nw)
  | .waveBrevN32 d a nw => some (0x16, d, a, 0, nw)
  | .waveAddsS32 d a b nw => some (0x17, d, a, b, nw)
  | .waveSubsS32 d a b nw => some (0x18, d, a, b, nw)
  | .waveAddsN32 d a b nw => some (0x19, d, a, b, nw)
  | .waveSubsN32 d a b nw => some (0x1A, d, a, b, nw)
  | .waveBfxN32 d a b nw => some (0x1B, d, a, b, nw)
  | .waveBfiN32 d a b nw => some (0x1C, d, a, b, nw)
  | _ => none

/-- Minor, d, a and b of an instruction of major 0x03 with a pair destination (R101). -/
def pairIntForm : Instr → Option (Nat × Code × Code × Code)
  | .addN64 d a b _ => some (0x00, d, a, b)
  | .subN64 d a b _ => some (0x01, d, a, b)
  | .addxN64 d a b _ => some (0x02, d, a, b)
  | .addxS64 d a b _ => some (0x03, d, a, b)
  | .shlN64 d a b _ => some (0x04, d, a, b)
  | .shrN64 d a b _ => some (0x05, d, a, b)
  | .shrS64 d a b _ => some (0x06, d, a, b)
  | .andN64 d a b _ => some (0x07, d, a, b)
  | .orN64 d a b _ => some (0x08, d, a, b)
  | .xorN64 d a b _ => some (0x09, d, a, b)
  | .mulwN32 d a b _ => some (0x0D, d, a, b)
  | .mulwS32 d a b _ => some (0x0E, d, a, b)
  | _ => none

/-- Minor, d, a, b and NW of a compare of pairs (R101). -/
def pairCmpForm : Instr → Option (Nat × Code × Code × Code × Bool)
  | .seqN64 d a b nw => some (0x0A, d, a, b, nw)
  | .sltS64 d a b nw => some (0x0B, d, a, b, nw)
  | .sltN64 d a b nw => some (0x0C, d, a, b, nw)
  | _ => none

/-- Operation, format, static mode, d, a, b and NW of a floating-point operation in a 32-bit position (R103, R106). -/
def fpForm : Instr → Option (FOp × Fmt × Option RM × Code × Code × Code × Bool)
  | .addF32 d a b nw => some (.add, f32, none, d, a, b, nw)
  | .addF32Rne d a b nw => some (.add, f32, (some .rne), d, a, b, nw)
  | .addF32Rtz d a b nw => some (.add, f32, (some .rtz), d, a, b, nw)
  | .addF32Rup d a b nw => some (.add, f32, (some .rup), d, a, b, nw)
  | .addF32Rdn d a b nw => some (.add, f32, (some .rdn), d, a, b, nw)
  | .subF32 d a b nw => some (.sub, f32, none, d, a, b, nw)
  | .subF32Rne d a b nw => some (.sub, f32, (some .rne), d, a, b, nw)
  | .subF32Rtz d a b nw => some (.sub, f32, (some .rtz), d, a, b, nw)
  | .subF32Rup d a b nw => some (.sub, f32, (some .rup), d, a, b, nw)
  | .subF32Rdn d a b nw => some (.sub, f32, (some .rdn), d, a, b, nw)
  | .mulF32 d a b nw => some (.mul, f32, none, d, a, b, nw)
  | .mulF32Rne d a b nw => some (.mul, f32, (some .rne), d, a, b, nw)
  | .mulF32Rtz d a b nw => some (.mul, f32, (some .rtz), d, a, b, nw)
  | .mulF32Rup d a b nw => some (.mul, f32, (some .rup), d, a, b, nw)
  | .mulF32Rdn d a b nw => some (.mul, f32, (some .rdn), d, a, b, nw)
  | .fmaF32 d a b nw => some (.fma, f32, none, d, a, b, nw)
  | .fmaF32Rne d a b nw => some (.fma, f32, (some .rne), d, a, b, nw)
  | .fmaF32Rtz d a b nw => some (.fma, f32, (some .rtz), d, a, b, nw)
  | .fmaF32Rup d a b nw => some (.fma, f32, (some .rup), d, a, b, nw)
  | .fmaF32Rdn d a b nw => some (.fma, f32, (some .rdn), d, a, b, nw)
  | .addF16 d a b nw => some (.add, f16, none, d, a, b, nw)
  | .mulF16 d a b nw => some (.mul, f16, none, d, a, b, nw)
  | .fmaF16 d a b nw => some (.fma, f16, none, d, a, b, nw)
  | .addBf16 d a b nw => some (.add, bf16, none, d, a, b, nw)
  | .mulBf16 d a b nw => some (.mul, bf16, none, d, a, b, nw)
  | .fmaBf16 d a b nw => some (.fma, bf16, none, d, a, b, nw)
  | _ => none

/-- Operation, static mode, d, a and b of a binary64 operation (R103). -/
def fpForm64 : Instr → Option (FOp × Option RM × Code × Code × Code)
  | .addF64 d a b _ => some (.add, none, d, a, b)
  | .addF64Rne d a b _ => some (.add, (some .rne), d, a, b)
  | .addF64Rtz d a b _ => some (.add, (some .rtz), d, a, b)
  | .addF64Rup d a b _ => some (.add, (some .rup), d, a, b)
  | .addF64Rdn d a b _ => some (.add, (some .rdn), d, a, b)
  | .subF64 d a b _ => some (.sub, none, d, a, b)
  | .subF64Rne d a b _ => some (.sub, (some .rne), d, a, b)
  | .subF64Rtz d a b _ => some (.sub, (some .rtz), d, a, b)
  | .subF64Rup d a b _ => some (.sub, (some .rup), d, a, b)
  | .subF64Rdn d a b _ => some (.sub, (some .rdn), d, a, b)
  | .mulF64 d a b _ => some (.mul, none, d, a, b)
  | .mulF64Rne d a b _ => some (.mul, (some .rne), d, a, b)
  | .mulF64Rtz d a b _ => some (.mul, (some .rtz), d, a, b)
  | .mulF64Rup d a b _ => some (.mul, (some .rup), d, a, b)
  | .mulF64Rdn d a b _ => some (.mul, (some .rdn), d, a, b)
  | .fmaF64 d a b _ => some (.fma, none, d, a, b)
  | .fmaF64Rne d a b _ => some (.fma, (some .rne), d, a, b)
  | .fmaF64Rtz d a b _ => some (.fma, (some .rtz), d, a, b)
  | .fmaF64Rup d a b _ => some (.fma, (some .rup), d, a, b)
  | .fmaF64Rdn d a b _ => some (.fma, (some .rdn), d, a, b)
  | _ => none

/-- d, NW and each thread's result and flags, for a conversion to a 32-bit position, or `rint` in binary32 (R115-R117, R119). -/
def convForm : Instr → Option (Code × Bool × (Wave → Nat → Nat × FFlags))
  | .cnvF64F32 d a sel nw => some (d, nw, fun w t => cnvFF f64 f32 (w.env (selMode sel) t) (w.vr2 a t).toNat)
  | .cnvF32F16 d a sel nw => some (d, nw, fun w t => cnvFF f32 f16 (w.env (selMode sel) t) (w.vr a t).toNat)
  | .cnvF16F32 d a nw => some (d, nw, fun w t => cnvFF f16 f32 (w.env none t) ((w.vr a t).toNat % 2 ^ 16))
  | .cnvF32Bf16 d a sel nw => some (d, nw, fun w t => cnvFF f32 bf16 (w.env (selMode sel) t) (w.vr a t).toNat)
  | .cnvBf16F32 d a nw => some (d, nw, fun w t => cnvFF bf16 f32 (w.env none t) ((w.vr a t).toNat % 2 ^ 16))
  | .cnvF64F16 d a sel nw => some (d, nw, fun w t => cnvFF f64 f16 (w.env (selMode sel) t) (w.vr2 a t).toNat)
  | .cnvF64Bf16 d a sel nw => some (d, nw, fun w t => cnvFF f64 bf16 (w.env (selMode sel) t) (w.vr2 a t).toNat)
  | .cnvF32S32 d a sel nw => some (d, nw, fun w t => toInt f32 true 32 (w.env (selMode sel) t) (w.vr a t).toNat)
  | .cnvF32N32 d a sel nw => some (d, nw, fun w t => toInt f32 false 32 (w.env (selMode sel) t) (w.vr a t).toNat)
  | .cnvS32F32 d a sel nw => some (d, nw, fun w t => cnvIF f32 (w.env (selMode sel) t) (w.vr a t).toInt)
  | .cnvN32F32 d a sel nw => some (d, nw, fun w t => cnvIF f32 (w.env (selMode sel) t) ((w.vr a t).toNat : Int))
  | .cnvF64S32 d a sel nw => some (d, nw, fun w t => toInt f64 true 32 (w.env (selMode sel) t) (w.vr2 a t).toNat)
  | .cnvF64N32 d a sel nw => some (d, nw, fun w t => toInt f64 false 32 (w.env (selMode sel) t) (w.vr2 a t).toNat)
  | .cnvS64F32 d a sel nw => some (d, nw, fun w t => cnvIF f32 (w.env (selMode sel) t) (w.vr2 a t).toInt)
  | .cnvN64F32 d a sel nw => some (d, nw, fun w t => cnvIF f32 (w.env (selMode sel) t) ((w.vr2 a t).toNat : Int))
  | .rintF32 d a sel nw => some (d, nw, fun w t => fpRint f32 (w.env (selMode sel) t) (w.vr a t).toNat)
  | _ => none

/-- d and each thread's result and flags, for a conversion to a pair, or `rint` in binary64 (R115-R117, R119). -/
def convForm64 : Instr → Option (Code × (Wave → Nat → Nat × FFlags))
  | .cnvF32F64 d a _ => some (d, fun w t => cnvFF f32 f64 (w.env none t) (w.vr a t).toNat)
  | .cnvS32F64 d a _ => some (d, fun w t => cnvIF f64 (w.env none t) (w.vr a t).toInt)
  | .cnvN32F64 d a _ => some (d, fun w t => cnvIF f64 (w.env none t) ((w.vr a t).toNat : Int))
  | .cnvF64S64 d a sel _ => some (d, fun w t => toInt f64 true 64 (w.env (selMode sel) t) (w.vr2 a t).toNat)
  | .cnvF64N64 d a sel _ => some (d, fun w t => toInt f64 false 64 (w.env (selMode sel) t) (w.vr2 a t).toNat)
  | .cnvS64F64 d a sel _ => some (d, fun w t => cnvIF f64 (w.env (selMode sel) t) (w.vr2 a t).toInt)
  | .cnvN64F64 d a sel _ => some (d, fun w t => cnvIF f64 (w.env (selMode sel) t) ((w.vr2 a t).toNat : Int))
  | .rintF64 d a sel _ => some (d, fun w t => fpRint f64 (w.env (selMode sel) t) (w.vr2 a t).toNat)
  | _ => none

/-- Function, d, a and NW of a special function of one binary32 source (R110). -/
def specialForm : Instr → Option (SFn × Code × Code × Bool)
  | .sqrtF32 d a nw => some (.sqrt, d, a, nw)
  | .rcpF32 d a nw => some (.rcp, d, a, nw)
  | .rsqF32 d a nw => some (.rsq, d, a, nw)
  | .exp2F32 d a nw => some (.exp2, d, a, nw)
  | .log2F32 d a nw => some (.log2, d, a, nw)
  | .sinpiF32 d a nw => some (.sinpi, d, a, nw)
  | .cospiF32 d a nw => some (.cospi, d, a, nw)
  | _ => none

/-- Function, d and a of a special function of one binary64 source (R110). -/
def specialForm64 : Instr → Option (SFn × Code × Code)
  | .sqrtF64 d a _ => some (.sqrt, d, a)
  | .rcpF64 d a _ => some (.rcp, d, a)
  | .rsqF64 d a _ => some (.rsq, d, a)
  | .exp2F64 d a _ => some (.exp2, d, a)
  | .log2F64 d a _ => some (.log2, d, a)
  | _ => none


/-! ### Cross-lane results, from 08_lane_and_mask_instructions.md -/

/-- Bit t of the wave triple that a field names; `z` reads three zero words (R161). -/
def tripleBit (w : Wave) (a : Code) (t : Nat) : Bool := if a.toNat = 112 then false else (w.wr (a.toNat + t / 32)).getLsbD (t % 32)

/-- The values of the active threads, lowest thread first. -/
def activeValues (w : Wave) (a : Code) : List Word := w.actives.map (w.vr a)

/-- The register that `ballot` writes for a beat (R160): bit l is 1 when thread 32·b + l is active and its value is not zero. -/
def isBallot (w : Wave) (a : Code) (b : Nat) (x : Word) : Prop :=
  ∀ l, l < 32 → x.getLsbD l = (w.act (32 * b + l) && w.vr a (32 * b + l) != 0)

/-- Where an active thread raises an enabled exception, `fl` being what the threads raise, the instruction takes the floating-point trap whole
(R83, R374). -/
def State.fpTraps (s : State) (fl : Nat → FFlags) (o : Out) : Prop :=
  let traps := fun t => s.w.act t && (fl t &&& s.w.enables t) != 0
  ∀ t0, s.w.sup = false → s.w.tvec ≠ 0 → traps t0 = true → (∀ t, t < t0 → traps t = false) →
    s.ends o (fun x => x.pc = s.w.tvec ∧ x.sup = true ∧ x.v = s.w.v ∧ x.q = s.w.q ∧ x.qSaved = s.w.q ∧ x.w = s.w.w ∧ x.count = s.w.count
      ∧ x.epcl.toNat + 2 ^ 32 * x.epch.toNat = s.w.pc.toNat
      ∧ x.cause = 0x03000000 + (fl t0 &&& s.w.enables t0).setWidth 32 <<< 16 ∧ x.tlane = BitVec.ofNat 32 t0
      ∧ (∀ t, t < threads → ([x.tmask0, x.tmask1, x.tmask2].getD (t / 32) 0).getLsbD (t % 32) = traps t)
      ∧ (∀ t, t < threads → x.fsrOf t = if s.w.act t then s.w.fsrOf t ||| (fl t &&& ~~~ s.w.enables t).setWidth 32 else s.w.fsrOf t))

/-- An operand field of the vector space names a row of the window, and so on (R47): the value it reads for thread t. -/
def isVectorRead (w : Wave) (c t : Nat) (x : Word) : Prop :=
  (c ≤ 95 → x = w.cell (w.wbase + c) t) ∧ (96 ≤ c → c ≤ 111 → x = w.wr (c - 96)) ∧ (c = 112 → x = 0) ∧ (c = 113 → x = BitVec.ofNat 32 t) ∧
  (c = 114 → x = BitVec.ofNat 32 w.wid) ∧ (c = 115 → x = BitVec.ofNat 32 w.core) ∧ (120 ≤ c → x = w.latch (c - 120) t)



/-! ### Control and system instructions, from 06 and 07 -/

/-- The state after is one in which the wave has moved to an address, nothing else of it having changed. -/
def State.moves (s : State) (pc : BitVec 49) (o : Out) : Prop := s.ends o (fun x => s.w.Retired x pc ∧ s.w.OnlyPc x)

/-- A wave without what trap entry writes (R134, R369). -/
def Wave.sansTrap (w : Wave) : Wave :=
  { w with pc := 0, count := 0, qDue := false, hold := none, sup := false, search := none, qSaved := [], entryDepth := 0, cause := 0,
           epcl := 0, epch := 0, tvall := 0, tvalh := 0, tmask0 := 0, tmask1 := 0, tmask2 := 0, tlane := 0, badQSaved := [],
           trapCause := 0, trapPc := 0 }

/-- The wave stands at its handler's entry in supervisor mode, its latches saved, `cause` and the trap PC recorded (R22, R134, R369); no
register, row, flag, mask or token has changed. -/
structure Wave.Entered (w x : Wave) (cause : Nat) (epc : BitVec 49) : Prop where
  sup : x.sup = true
  pc : x.pc.toNat = w.tvecl.toNat + w.tvech.toNat % 2 ^ 17 * 2 ^ 32
  cause : x.cause = BitVec.ofNat 32 cause
  savedPc : x.epcl.toNat + x.epch.toNat * 2 ^ 32 = epc.toNat
  saved : x.qSaved = w.q ∧ x.badQSaved = w.badQ
  kept : x.trapCause = x.cause ∧ x.trapPc = epc.toNat
  depth : x.entryDepth = w.tokens.length + w.spilled
  rest : x.sansTrap = w.sansTrap

/-- The fault address that a trap records (R131, R369): classes 0x05 to 0x07 carry one. -/
def Wave.FaultAddr (x : Wave) (a : Nat) : Prop := x.tvall = BitVec.ofNat 32 a ∧ x.tvalh = BitVec.ofNat 32 (a / 2 ^ 32)

/-- A grid has been terminated with these values for its completion record: its waves have ended, and nothing else has been written to
another grid's waves or to memory (R22, R182). -/
structure State.Terminated (s t : State) (g : Nat) (cause : Nat) (tpc wid : Nat) : Prop where
  grid : t.gridOf g = { s.gridOf g with status := 0x0001, cause := BitVec.ofNat 32 cause, tpc := tpc, wid := wid, ending := true }
  grids : ∀ h, h ≠ g → t.gridOf h = s.gridOf h
  stopped : ∀ id, id.g = g → (aget s.waves id).isSome = true → (t.wv id).exited = true ∧ (t.wv id).active = false
  waves : ∀ id, id.g ≠ g → t.wv id = s.wv id
  memory : t.hbm = s.hbm ∧ t.sysMem = s.sysMem ∧ t.llc = s.llc

/-- What a wave system register reads (R131, R132, R138). -/
def sysValue (w : Wave) (n : Nat) : Word :=
  match n with
  | 0x10 => 0#30 ++ BitVec.ofBool (decide (w.quant ≠ 0)) ++ BitVec.ofBool w.sup
  | 0x11 => w.cause
  | 0x12 => w.epcl
  | 0x13 => w.epch
  | 0x14 => w.tvecl
  | 0x15 => w.tvech
  | 0x16 => w.tvall
  | 0x17 => w.tvalh
  | 0x18 => w.tmask0
  | 0x19 => w.tmask1
  | 0x1A => w.tmask2
  | 0x1B => w.tlane
  | 0x1C => w.ssc0
  | 0x1D => w.ssc1
  | 0x20 => BitVec.ofNat 32 w.wbase
  | 0x21 => BitVec.ofNat 32 w.alloc
  | 0x22 => 0#18 ++ BitVec.ofNat 5 w.slot ++ BitVec.ofNat 2 (w.core % 4) ++ BitVec.ofNat 3 (w.core / 4 % 8) ++ BitVec.ofNat 2 (w.core / 32 % 3)
      ++ BitVec.ofNat 2 (w.core / 96 % 4)
  | _ => BitVec.ofNat 32 (w.lvCls + 8 * w.lvGnt.toNat)

/-- The bits of a wave system register that `wsr` can set (R130, R131, R133). -/
def sysMask (n : Nat) : Word :=
  match n with
  | 0x11 => 0xFFFF007F
  | 0x12 => 0xFFFFFFFC
  | 0x13 => 0x0001FFFF
  | 0x14 => 0xFFFFFFFC
  | 0x15 => 0x0001FFFF
  | _ => 0xFFFFFFFF

/-- A wave without the registers that `wsr` writes, its PC and its count. -/
def Wave.sansSys (w : Wave) : Wave :=
  { w with pc := 0, count := 0, qDue := false, hold := none, cause := 0, epcl := 0, epch := 0, tvecl := 0, tvech := 0, tvall := 0,
           tvalh := 0, ssc0 := 0, ssc1 := 0 }

/-- The three mask registers hold a token's mask (R139). -/
def Wave.Masked (x : Wave) (m : Nat → Word) : Prop := ∀ b, b < 3 → x.wr (61 + b) = m b

/-- The masks of a token by beat. -/
def Token.mask (t : Token) (b : Nat) : Word := [t.m0, t.m1, t.m2].getD b 0

/-- A push (R146, R147): with the stack full, trap 0x10; with fewer than 32 tokens in the wave, the token joins them; otherwise the oldest
of them goes to the token area, as its 32 bytes. `P` says what else the wave holds. -/
def State.pushes (s : State) (tok : Token) (P : Wave → Prop) (o : Out) : Prop :=
  let depth := s.w.tokens.length + s.w.spilled
  (32 + s.cr.tokLen / 32 ≤ depth → o = .next (s.trap (.state 0x10))) ∧
  (depth < 32 + s.cr.tokLen / 32 → s.w.tokens.length < 32 → s.ends o (fun x => x.tokens = tok :: s.w.tokens ∧ x.spilled = s.w.spilled ∧ P x)) ∧
  (depth < 32 + s.cr.tokLen / 32 → s.w.tokens.length = 32 → ∀ old, s.w.tokens.getLast? = some old →
    ∃ t x, o = .next t ∧ t.w = x ∧ P x ∧ x.tokens = tok :: s.w.tokens.dropLast ∧ x.spilled = s.w.spilled + 1
      ∧ (t.crewOf s.ci).ls = s.cr.ls.write (s.cr.lsLen + s.crewIdx * s.cr.tokLen + 32 * s.w.spilled)
          (leBytes 4 old.m0.toNat ++ leBytes 4 old.m1.toNat ++ leBytes 4 old.m2.toNat ++ leBytes 4 old.kind ++ leBytes 8 old.addr ++ leBytes 8 0))

/-- The wave goes on under the mask of a token that was on top, the tokens below it being `ts` (R144). -/
def State.popsTo (s : State) (m : Nat → Word) (ts : List Token) (pc : Nat) (o : Out) : Prop :=
  s.ends o (fun x => s.w.Retired x (BitVec.ofNat 49 pc) ∧ x.Masked m ∧ x.tokens = ts ∧ (∀ n, n < 61 ∨ 63 < n → x.wr n = s.w.wr n)
    ∧ s.w.Unshifted x ∧ ({ x with tokens := [] } : Wave).sansRegs = ({ s.w with tokens := [] } : Wave).sansRegs)

/-- Some live wave of a core holds a leave class, or its core's engine holds it for the wave's commands (R326, R427, log 12). -/
def State.coreHolds (s : State) (core c : Nat) : Bool :=
  s.waves.any (fun p => decide (p.2.core = core) && !p.2.exited &&
    ((p.2.lvGnt && decide (p.2.lvCls = c)) || (p.2.engGnt && decide (p.2.engCls = c))))

/-- A token's mask is not zero. -/
def Token.live (t : Token) : Prop := t.m0 ≠ 0 ∨ t.m1 ≠ 0 ∨ t.m2 ≠ 0



/-! ### Memory instructions, from 14 -/

/-- The memory instructions by kind, bytes, form and fields (R65, R244, R250). -/
def accessForm (i : Instr) : Option MemOp :=
  match i with
  | .ldN8 d a b sc => some ⟨.load false, 1, false, d.toNat, 2 * a.toNat, b.toNat, sc.toNat⟩
  | .ldS8 d a b sc => some ⟨.load true, 1, false, d.toNat, 2 * a.toNat, b.toNat, sc.toNat⟩
  | .ldN16 d a b sc => some ⟨.load false, 2, false, d.toNat, 2 * a.toNat, b.toNat, sc.toNat⟩
  | .ldS16 d a b sc => some ⟨.load true, 2, false, d.toNat, 2 * a.toNat, b.toNat, sc.toNat⟩
  | .ld32 d a b sc => some ⟨.load false, 4, false, d.toNat, 2 * a.toNat, b.toNat, sc.toNat⟩
  | .ld64 d a b sc => some ⟨.load false, 8, false, d.toNat, 2 * a.toNat, b.toNat, sc.toNat⟩
  | .ldUniN8 d a b sc => some ⟨.load false, 1, true, d.toNat, 2 * a.toNat, b.toNat, sc.toNat⟩
  | .ldUniS8 d a b sc => some ⟨.load true, 1, true, d.toNat, 2 * a.toNat, b.toNat, sc.toNat⟩
  | .ldUniN16 d a b sc => some ⟨.load false, 2, true, d.toNat, 2 * a.toNat, b.toNat, sc.toNat⟩
  | .ldUniS16 d a b sc => some ⟨.load true, 2, true, d.toNat, 2 * a.toNat, b.toNat, sc.toNat⟩
  | .ldUni32 d a b sc => some ⟨.load false, 4, true, d.toNat, 2 * a.toNat, b.toNat, sc.toNat⟩
  | .ldUni64 d a b sc => some ⟨.load false, 8, true, d.toNat, 2 * a.toNat, b.toNat, sc.toNat⟩
  | .st8 d a b sc => some ⟨.store, 1, false, d.toNat, 2 * a.toNat, b.toNat, sc.toNat⟩
  | .st16 d a b sc => some ⟨.store, 2, false, d.toNat, 2 * a.toNat, b.toNat, sc.toNat⟩
  | .st32 d a b sc => some ⟨.store, 4, false, d.toNat, 2 * a.toNat, b.toNat, sc.toNat⟩
  | .st64 d a b sc => some ⟨.store, 8, false, d.toNat, 2 * a.toNat, b.toNat, sc.toNat⟩
  | .stUni8 d a b sc => some ⟨.store, 1, true, d.toNat, 2 * a.toNat, b.toNat, sc.toNat⟩
  | .stUni16 d a b sc => some ⟨.store, 2, true, d.toNat, 2 * a.toNat, b.toNat, sc.toNat⟩
  | .stUni32 d a b sc => some ⟨.store, 4, true, d.toNat, 2 * a.toNat, b.toNat, sc.toNat⟩
  | .stUni64 d a b sc => some ⟨.store, 8, true, d.toNat, 2 * a.toNat, b.toNat, sc.toNat⟩
  | .amaddN32 d a b sc => some ⟨.atomic 0, 4, false, d.toNat, 2 * a.toNat, b.toNat, sc.toNat⟩
  | .amaddN64 d a b sc => some ⟨.atomic 1, 8, false, d.toNat, 2 * a.toNat, b.toNat, sc.toNat⟩
  | .amaddF32 d a b sc => some ⟨.atomic 2, 4, false, d.toNat, 2 * a.toNat, b.toNat, sc.toNat⟩
  | .amaddF64 d a b sc => some ⟨.atomic 3, 8, false, d.toNat, 2 * a.toNat, b.toNat, sc.toNat⟩
  | .amminS32 d a b sc => some ⟨.atomic 4, 4, false, d.toNat, 2 * a.toNat, b.toNat, sc.toNat⟩
  | .ammaxS32 d a b sc => some ⟨.atomic 5, 4, false, d.toNat, 2 * a.toNat, b.toNat, sc.toNat⟩
  | .amminN32 d a b sc => some ⟨.atomic 6, 4, false, d.toNat, 2 * a.toNat, b.toNat, sc.toNat⟩
  | .ammaxN32 d a b sc => some ⟨.atomic 7, 4, false, d.toNat, 2 * a.toNat, b.toNat, sc.toNat⟩
  | .amandN32 d a b sc => some ⟨.atomic 8, 4, false, d.toNat, 2 * a.toNat, b.toNat, sc.toNat⟩
  | .amorN32 d a b sc => some ⟨.atomic 9, 4, false, d.toNat, 2 * a.toNat, b.toNat, sc.toNat⟩
  | .amxorN32 d a b sc => some ⟨.atomic 10, 4, false, d.toNat, 2 * a.toNat, b.toNat, sc.toNat⟩
  | .amswpN32 d a b sc => some ⟨.atomic 11, 4, false, d.toNat, 2 * a.toNat, b.toNat, sc.toNat⟩
  | .amswpN64 d a b sc => some ⟨.atomic 12, 8, false, d.toNat, 2 * a.toNat, b.toNat, sc.toNat⟩
  | .amcasN32 d a b sc => some ⟨.atomic 13, 4, false, d.toNat, 2 * a.toNat, b.toNat, sc.toNat⟩
  | .amcasN64 d a b sc => some ⟨.atomic 14, 8, false, d.toNat, 2 * a.toNat, b.toNat, sc.toNat⟩
  | _ => none

/-- Where thread t's access goes (R241), for a uniform instruction any t. -/
def Wave.addressOf (w : Wave) (m : MemOp) (t : Nat) : Nat :=
  let a : Code := BitVec.ofNat 7 m.a
  let b : Code := BitVec.ofNat 7 m.b
  match m.kind, m.uni with
  | .atomic _, _ => (w.vr2 a t).toNat
  | _, true => ((w.ws2 a).toNat + (w.ws b).toInt % 2 ^ 64).toNat % 2 ^ 64
  | _, false => ((w.vr2 a t).toNat + (w.vr b t).toInt % 2 ^ 64).toNat % 2 ^ 64

/-- The value of the field `c` at the width of the instruction. -/
def Wave.valueOf (w : Wave) (m : MemOp) (c t : Nat) : Nat :=
  match m.uni, decide (m.size = 8) with
  | true, true => (w.ws2 (BitVec.ofNat 7 c)).toNat
  | true, false => (w.ws (BitVec.ofNat 7 c)).toNat
  | false, true => (w.vr2 (BitVec.ofNat 7 c) t).toNat
  | false, false => (w.vr (BitVec.ofNat 7 c) t).toNat

/-- The accesses of an instruction, one for each active thread in ascending order, or one in a uniform form (R242, R246, R251). -/
def Wave.requests (w : Wave) (m : MemOp) : List Acc1 :=
  (if m.uni then [0] else w.actives).map (fun t =>
    match m.kind with
    | .load _ => ⟨t, w.addressOf m t, 0, 0, none, none, false⟩
    | .atomic _ => ⟨t, w.addressOf m t, w.valueOf m m.b t, w.valueOf m m.d t, none, none, false⟩
    | _ => ⟨t, w.addressOf m t, w.valueOf m m.d t, 0, none, none, false⟩)

/-- The destination: a row of the allocation, a wave register, or none (R245, R251). -/
def Wave.destination (w : Wave) (m : MemOp) : Dst :=
  match m.kind with
  | .load _ => if m.uni then .wreg m.d else .row (w.wbase + m.d)
  | .atomic _ => if m.d = 112 then .none else .row (w.wbase + m.d)
  | _ => .none

/-- A wave without what the issue of a memory instruction changes. -/
def Wave.sansMem (w : Wave) : Wave := { w.sansPc with inflight := [], vl := 0, wl := 0, st := 0 }

/-- Accesses with the places that their checks found. -/
def atPlaces (as : List Acc1) (ps : List Place) : List Acc1 := (as.zip ps).map (fun p => { p.1 with place := some p.2 })

/-- The accesses of `m` are in flight behind those of the wave, with the next issue number, counted on VL, WL or ST, and the wave has gone on (R170, R245,
R246). Those that stand behind an access that a fault holds are held with it (R376). -/
structure Wave.Posted (w x : Wave) (m : MemOp) (as : List Acc1) (seq : Nat) : Prop where
  retired : w.Retired x w.past
  inflight : x.inflight = ({ w with inflight := w.inflight ++ [⟨m.kind, m.size, m.uni, m.sc, w.destination m, as, w.sup, seq⟩] } : Wave).settle.inflight
  vl : x.vl = w.vl + (match m.kind, m.uni with | .load _, false | .atomic _, _ => 1 | _, _ => 0)
  wl : x.wl = w.wl + (match m.kind, m.uni with | .load _, true => 1 | _, _ => 0)
  st : x.st = w.st + (match m.kind with | .store | .stc => 1 | _ => 0)
  rest : x.sansMem = w.sansMem

/-- The counter that the instruction counts on is below its limit (R170). -/
def Wave.mayCount (w : Wave) (m : MemOp) : Prop :=
  (match m.kind, m.uni with | .load _, true => w.wl | .load _, false | .atomic _, _ => w.vl | _, _ => w.st) < 63

/-- The scope makes a store or an atomic a release (R63, R263). -/
def MemOp.isRelease (m : MemOp) : Bool := (match m.kind with | .load _ => false | _ => true) && 1 ≤ m.sc && m.sc ≤ 5

/-- The last value that a list of thread and value pairs holds for a thread. -/
def lastOf (l : List (Nat × Nat)) (t : Nat) : Option Nat := (l.reverse.find? (fun p => p.1 = t)).map (·.2)

/-- A loaded value at its destination (R70, R245). -/
def extended (k : MemKind) (size v : Nat) : Nat :=
  match k, size with
  | .load true, 1 => ((BitVec.ofNat 8 v).signExtend 32).toNat
  | .load true, 2 => ((BitVec.ofNat 16 v).signExtend 32).toNat
  | _, _ => v

/-- The destination `d` has taken the values `vs` in order: rows, or a wave register or pair; nothing else of the wave's registers
has changed. -/
def Wave.Took (w x : Wave) (d : Dst) (size : Nat) (vs : List (Nat × Nat)) : Prop :=
  match d with
  | .row r => (∀ k t, x.cell k t = match lastOf vs t with
      | some v => if k = r then BitVec.ofNat 32 v else if size = 8 ∧ k = r + 1 then BitVec.ofNat 32 (v / 2 ^ 32) else w.cell k t
      | none => w.cell k t) ∧ (∀ n, x.wr n = w.wr n)
  | .wreg n => (∀ k t, x.cell k t = w.cell k t) ∧ (∀ v, vs.getLast? = some v →
      ∀ m, x.wr m = if m = n then BitVec.ofNat 32 v.2 else if size = 8 ∧ m = n + 1 then BitVec.ofNat 32 (v.2 / 2 ^ 32) else w.wr m)
  | .none => (∀ k t, x.cell k t = w.cell k t) ∧ (∀ n, x.wr n = w.wr n)

/-- The first access in flight of a wave may be performed: it is `f`, nothing holds it, its places are `ps` (R376), none that it
reads holds an uncorrectable error (R379), and its walks, if any, change nothing
(the reads of a walk have their own statement). -/
def State.canPerform (s : State) (id : WaveId) (f : Flight) (ps : List Place) : Prop :=
  s.goes id = true ∧ (s.wv id).inflight.head? = some f ∧ f.accs.length = ps.length ∧
  ∀ p ∈ f.accs.zip ps, p.1.held = false ∧ (p.1.got = none ∨ ∃ g, f.kind = .load g) ∧
    (p.1.got = none → s.place id f.kind f.sc p.1.addr f.size = .ok p.2 ∧ s.asksPeer f p.2 = none ∧
      (f.kind ≠ .store → f.kind ≠ .stc → s.placeBad (s.wv id).core p.2 f.size = false) ∧ (f.sc ≠ 6 → s.walked (s.wv id).core (s.ctxN id.g) p.1.addr = s))

/-- The wave after its first access in flight: one access and one count fewer (R170). -/
def Wave.Performed (w x : Wave) (f : Flight) : Prop :=
  x.inflight = w.inflight.drop 1 ∧
  (x.vl, x.wl, x.st) = (match f.kind, f.uni with
    | .load _, true => (w.vl, w.wl - 1, w.st) | .load _, false | .atomic _, _ => (w.vl - 1, w.wl, w.st) | _, _ => (w.vl, w.wl, w.st - 1)) ∧
  x.pc = w.pc ∧ x.count = w.count ∧ x.q = w.q ∧ x.fsr = w.fsr ∧ x.ec = w.ec ∧ x.fl = w.fl

/-- New value of an integer atomic of R251 by its operation number of R65. -/
def atomicResult (op old b c : Nat) : Nat :=
  match op with
  | 0 => (old + b) % 2 ^ 32
  | 1 => (old + b) % 2 ^ 64
  | 4 => if (BitVec.ofNat 32 old).toInt ≤ (BitVec.ofNat 32 b).toInt then old else b
  | 5 => if (BitVec.ofNat 32 old).toInt ≤ (BitVec.ofNat 32 b).toInt then b else old
  | 6 => if old ≤ b then old else b
  | 7 => if old ≤ b then b else old
  | 8 => (BitVec.ofNat 32 old &&& BitVec.ofNat 32 b).toNat
  | 9 => (BitVec.ofNat 32 old ||| BitVec.ofNat 32 b).toNat
  | 10 => (BitVec.ofNat 32 old ^^^ BitVec.ofNat 32 b).toNat
  | 11 | 12 => b
  | 13 | 14 => if old = c then b else old
  | 2 => (fpCore .add f32 ⟨.rne, false, false⟩ old b 0).1
  | _ => (fpCore .add f64 ⟨.rne, false, false⟩ old b 0).1

/-- The level a scope names (R228): 0 L1, 1 the gang L2, 2 the sector, 3 the home slice, 4 the home slice and the host. -/
def scopeLevel (sc : BitVec 3) : Nat := match sc.toNat with | 0 | 1 => 0 | 2 => 1 | 3 => 2 | 4 => 3 | _ => 4

/-- The bytes that a list of writes leaves at an offset. -/
def lastByte (ws : List (Nat × Byte)) (i : Nat) : Option Byte := (ws.reverse.find? (fun p => p.1 = i)).map (·.2)

/-- A wave's earlier work is performed and applied, as far as the classes of a fence ask (R255). -/
def State.atRest (s : State) : Prop :=
  s.w.inflight = [] ∧ s.w.fl = 0 ∧ (∀ c ∈ (s.coreOf s.w.core).mq, c.wave ≠ s.cur) ∧ (∀ a ∈ s.arrivals ++ s.openTxn.filterMap (·.arr), a.wave ≠ s.cur)
    ∧ (s.crewOf (s.crewId s.cur)).xfers = [] ∧ (s.crewOf (s.crewId s.cur)).cmds = []



/-! ### Waits, barriers, streams, copies and grid transfers, from 07, 10, 19 and 20 -/

/-- The instruction retires and the wave goes on behind it, `blank` of it being otherwise as it was; no other wave has changed, and memory is
that of `r`, the state that the instruction's reads leave; `P` holds of the state after. -/
def State.retiresFrom (s r : State) (blank : Wave → Wave) (o : Out) (P : State → Prop) : Prop :=
  ∃ t, o = .next t ∧ s.w.Retired (t.wv s.cur) s.w.past ∧ (blank (t.wv s.cur)).sansPc = (blank s.w).sansPc ∧ (∀ id, id ≠ s.cur → t.wv id = s.wv id)
    ∧ t.hbm = r.hbm ∧ t.sysMem = r.sysMem ∧ t.llc = r.llc ∧ P t

/-- The same for an instruction that reads no memory: no memory has changed. -/
def State.retires (s : State) (blank : Wave → Wave) (o : Out) (P : State → Prop) : Prop := s.retiresFrom s blank o P

/-- The instruction does not retire: the wave is held at it, and nothing else has changed (R155). -/
def State.waits (s : State) (o : Out) : Prop :=
  s.ends o (fun x => x.hold ≠ none ∧ ({ x with hold := none } : Wave) = { s.w with hold := none })

/-- A wave without its wave registers. -/
def Wave.sansW (w : Wave) : Wave := { w with w := [] }

/-- A wave without ARM and DONE. -/
def Wave.sansArm (w : Wave) : Wave := { w with arm := 0, done := 0 }

/-- A wave without its batches, and its wave registers. -/
def Wave.sansBatch (w : Wave) : Wave := { w.sansW with openBatch := [], sealed := [], next := 0 }

/-- A wave register of the wave after is `v`, and every other is as it was. -/
def State.regSet (s t : State) (n : Nat) (v : Word) : Prop := ∀ m, (t.wv s.cur).wr m = if m = n then v else s.w.wr m

/-- The fields of a barrier register (R346) and the arrivals that the model holds (log 27). -/
def State.barIs (t : State) (c : CrewId) (n : Nat) (pend : Nat) (phase : Bool) (arr mem : Nat) : Prop :=
  ((t.crewOf c).bar n).pend = pend ∧ ((t.crewOf c).bar n).phase = phase ∧ ((t.crewOf c).bar n).arr = arr ∧ ((t.crewOf c).bar n).mem = mem

/-- The grid of the wave is not deterministic, so that its commit buffer is empty, its earlier accesses are performed, and its core holds no
dirty line to write down. -/
def State.plain (s : State) : Prop := s.w.quant = 0 ∧ s.w.buf = [] ∧ s.w.inflight = [] ∧ s.dirtyLines s.w.core 3 = []



/-! ### Accumulation sessions, from 16 -/

/-- The line is open with a frame of a session entry of a context (R285). -/
def State.openFor (t : State) (ln ctx idx : Nat) (exact : Bool) (tgt : Nat) : Prop :=
  ∃ f, aget t.frames ln = some f ∧ f.ctx = ctx ∧ f.idx = idx ∧ f.exact = exact ∧ f.tgt = tgt

/-- The value of an element that a seal writes and a snapshot returns, with its flags (R287), from its status bits: NAN, SNAN, PINF, NINF,
PBIG, NBIG. -/
def sealedElement (f : Frame) (i : Nat) : Nat × FFlags :=
  let e := f.est.getD i 0
  let S := f.s.getD i 0
  let F := if f.tgt = 0 then f32 else f64
  let W := if f.tgt % 2 = 0 then 128 else 256
  let top : Int := if f.tgt = 2 then 2 ^ 31 else 2 ^ 63
  let code := fun (x : Int) => (x % (if f.tgt = 2 then 2 ^ 32 else 2 ^ 64)).toNat
  if f.tgt < 2 then
    if e.testBit 0 then (F.defNaN, if e.testBit 1 then fNV else 0)
    else if (e.testBit 2 ∨ e.testBit 4) ∧ (e.testBit 3 ∨ e.testBit 5) then (F.defNaN, fNV)
    else if e.testBit 2 then (F.inf false, 0)
    else if e.testBit 3 then (F.inf true, 0)
    else if e.testBit 4 then (F.inf false, fOF ||| fNX)
    else if e.testBit 5 then (F.inf true, fOF ||| fNX)
    else if S < -2 ^ (W - 1) ∨ 2 ^ (W - 1) ≤ S then (F.inf (S < 0), fOF ||| fNX)
    else if S = 0 then (F.zero (f.srm = 3), 0)
    else F.round (match f.srm with | 1 => .rtz | 2 => .rup | 3 => .rdn | 4 => .rna | _ => .rne) ⟨S < 0, S.natAbs, f.anch⟩
  else if e.testBit 4 then (code (top - 1), fOF)
  else if e.testBit 5 then (code (-top), fOF)
  else if -top ≤ S ∧ S < top then (code S, 0)
  else (code (if S < 0 then -top else top - 1), fOF)

/-- The reading of an arrival's value (R286). -/
def AVal.reading : AVal → FVal
  | .code ty c => (if ty = 0 then f32 else f64).val c
  | .real t => .fin t.neg t.m t.e

/-- The status bits that an EXACT arrival of a NaN or an infinity sets (R286, R292): NAN, SNAN, PINF, NINF. -/
def AVal.statusOf (v : AVal) : Option Nat :=
  match v with
  | .code 0 _ | .code 1 _ => match v.reading with
    | .nan _ _ quiet => some (if quiet then 0x01 else 0x03)
    | .inf neg => some (if neg then 0x08 else 0x04)
    | _ => none
  | _ => none

/-- `Anchor` of an arrival's value at the exponent e, unless that is a NaN or an infinity: the nearest integer, ties to even, and whether it
differs (R42, R286). -/
def AVal.anchored (v : AVal) (e : Int) : Option (Int × Bool) :=
  let t := v.reading.term
  let q := roundAt .rne t.neg t.m t.e e
  let nearest := if v.reading.isN || v.reading.isInf then none else some (if t.neg then -(q.1 : Int) else q.1, q.2)
  match v with
  | .code 0 _ | .code 1 _ | .real _ => nearest
  | .code 2 c => some ((BitVec.ofNat 32 c).toInt, false)
  | .code 3 c => some ((BitVec.ofNat 64 c).toInt, false)
  | .code _ _ => none



/-! ### The matrix engine, from 17 -/

/-- Minor, d, a and b of an `mma` (0x00 to 0x0D) or an `mmaf` (0x10 to 0x1D) (R60, R313). -/
def mmaForm : Instr → Option (Nat × Code × Code × Code)
  | .mmaF64 d a b => some (0x00, d, a, b)
  | .mmaF32 d a b => some (0x01, d, a, b)
  | .mmaF16 d a b => some (0x02, d, a, b)
  | .mmaBf16 d a b => some (0x03, d, a, b)
  | .mmaE4m3 d a b => some (0x04, d, a, b)
  | .mmaE5m2 d a b => some (0x05, d, a, b)
  | .mmaE3m2 d a b => some (0x06, d, a, b)
  | .mmaE2m3 d a b => some (0x07, d, a, b)
  | .mmaE2m1 d a b => some (0x08, d, a, b)
  | .mmaMxi8 d a b => some (0x09, d, a, b)
  | .mmaE4m3E5m2 d a b => some (0x0A, d, a, b)
  | .mmaE5m2E4m3 d a b => some (0x0B, d, a, b)
  | .mmaE3m2E2m3 d a b => some (0x0C, d, a, b)
  | .mmaE2m3E3m2 d a b => some (0x0D, d, a, b)
  | .mmafF64 d a b => some (0x10, d, a, b)
  | .mmafF32 d a b => some (0x11, d, a, b)
  | .mmafF16 d a b => some (0x12, d, a, b)
  | .mmafBf16 d a b => some (0x13, d, a, b)
  | .mmafE4m3 d a b => some (0x14, d, a, b)
  | .mmafE5m2 d a b => some (0x15, d, a, b)
  | .mmafE3m2 d a b => some (0x16, d, a, b)
  | .mmafE2m3 d a b => some (0x17, d, a, b)
  | .mmafE2m1 d a b => some (0x18, d, a, b)
  | .mmafMxi8 d a b => some (0x19, d, a, b)
  | .mmafE4m3E5m2 d a b => some (0x1A, d, a, b)
  | .mmafE5m2E4m3 d a b => some (0x1B, d, a, b)
  | .mmafE3m2E2m3 d a b => some (0x1C, d, a, b)
  | .mmafE2m3E3m2 d a b => some (0x1D, d, a, b)
  | _ => none

/-- A control word breaks the table of R310. -/
def mmaControlBroken (m ctl : Nat) : Prop :=
  let k := ctl / 2 ^ 16
  let cst := ctl / 2 ^ 8 % 2 ^ 8
  (4 ≤ m % 16 ∧ k ≠ 32) ∨ (m % 16 < 4 ∧ (k % 64 ≠ 0 ∨ k < 64 ∨ 65472 < k)) ∨ (16 ≤ m ∧ cst < (if m = 16 then 2 else 1)) ∨
    (m < 16 ∧ cst ≠ 0) ∨ ctl / 2 % 2 ^ 7 ≠ 0 ∨ (ctl % 2 = 1 ∧ (16 ≤ m ∨ 4 ≤ m % 16))

/-- The multiple that bases and strides must be (R312): the element's bytes, or 8 for an MX format. -/
def mmaAlign (m : Nat) : Nat := if 4 ≤ m % 16 then 8 else [8, 4, 2, 2].getD (m % 16) 8

/-- Bytes of a row of C in the local store (R311). -/
def mmaRowBytes (m : Nat) : Nat := if 4 ≤ m % 16 then 512 else if m % 16 = 0 then 256 else 128

/-- The leave class of a format (R326). -/
def mmaLeave (m : Nat) : Nat := [1, 2, 3, 3, 4, 4, 4, 4, 5, 4, 4, 4, 4, 4].getD (m % 16) 4

/-- The wave has sent one command to its core's matrix queue, at its end, counted on EC, and has gone on (R170, R327). -/
def State.sends (s : State) (o : Out) (P : MatCmd → Prop) : Prop :=
  s.retires (fun w => { w with ec := 0 }) o (fun t => (t.wv s.cur).ec = s.w.ec + 1 ∧ t.crews = s.crews ∧
    ∃ c, (t.coreOf s.w.core).mq = (s.coreOf s.w.core).mq ++ [c] ∧ c.wave = s.cur ∧ c.m0 = s.w.wr 61 ∧ c.m1 = s.w.wr 62 ∧ c.m2 = s.w.wr 63 ∧
      c.held = false ∧ P c)

/-- The core's queue has room for a command (R327), and no command of a restored crew waits for room in it (log 12). -/
def State.queueRoom (s : State) : Prop :=
  s.queued s.w.core < 16 ∧ s.waitingCrews s.w.core = [] ∧ ∀ e ∈ s.cr.cmds, e.wave ≠ s.cur

/-- The places of a command in the order of R314, k-step outer and row block inner: those of its blocks with a row. -/
def MatCmd.places (c : MatCmd) : List (Nat × Nat) :=
  (List.range c.ksteps).flatMap (fun k => ([0, 1, 2].filter (fun b => !(c.rows b).isEmpty)).map (fun b => (k, b)))

/-- The place after the present one. -/
def MatCmd.following (c : MatCmd) : Option (Nat × Nat) := ((c.places.dropWhile (· ≠ (c.kstep, c.rb))).drop 1).head?

/-- A command of a core's queue is the engine's next, and may run. -/
def State.runs_ (s : State) (core k : Nat) (c : MatCmd) : Prop :=
  (s.coreOf core).mq[k]? = some c ∧ s.matTurn core = some k ∧ (s.coreOf core).halted = false ∧ (s.gridOf c.wave.g).det = false ∧
    s.waitingCrews core = [] ∧
    (∀ j e, (s.coreOf core).mq[j]? = some e → e.grp = c.grp → j = k) ∧ (s.crewOf (s.crewId c.wave)).bound = true

/-- The queue after a unit of a command: the command at its next place, or gone with EC one lower (R315, R327). -/
def State.moved (s t : State) (core k : Nat) (c : MatCmd) (next : Option (Nat × Nat)) : Prop :=
  match next with
  | some p => (t.coreOf core).mq = (s.coreOf core).mq.set k { c with kstep := p.1, rb := p.2, held := false, relv := false } ∧
      (t.wv c.wave).ec = (s.wv c.wave).ec
  | none => (t.coreOf core).mq = (s.coreOf core).mq.eraseIdx k ∧ (t.wv c.wave).ec = (s.wv c.wave).ec - 1

/-- floor(log2) of a positive finite binary32 code. -/
def floorLog2 (c : Nat) : Int := if c < 2 ^ 23 then (Nat.log2 c : Int) - 149 else (c / 2 ^ 23 : Nat) - 127

/-- The largest magnitude code of the active threads among `ts` whose value is not a NaN; 0 if none (R322). -/
def Wave.largest (w : Wave) (a : Code) (ts : List Nat) : Nat :=
  ((ts.filter (fun t => w.act t && !f32.isNaN (w.vr a t).toNat)).map (fun t => (w.vr a t).toNat % 2 ^ 31)).foldl max 0

/-- X of a block whose largest magnitude has the code m (R322). -/
def blockScale (k m : Nat) : Int :=
  if m = 0 then -127 else if m = 0x7F800000 then 127 else max (-127) (min 127 (floorLog2 m - [8, 15, 4, 2, 2, 0].getD k 0))

/-- The threads of a beat. -/
def beatThreads (b : Nat) : List Nat := (List.range 32).map (32 * b + ·)

/-- Format, d, a and b of `cvtmx` (R322). -/
def cvtmxForm : Instr → Option (Nat × Code × Code × Code)
  | .cvtmxE4m3F32 d a b => some (0, d, a, b)
  | .cvtmxE5m2F32 d a b => some (1, d, a, b)
  | .cvtmxE3m2F32 d a b => some (2, d, a, b)
  | .cvtmxE2m3F32 d a b => some (3, d, a, b)
  | .cvtmxE2m1F32 d a b => some (4, d, a, b)
  | .cvtmxMxi8F32 d a b => some (5, d, a, b)
  | _ => none

/-- Format, d, a and b of `dqmx` (R323). -/
def dqmxForm : Instr → Option (Nat × Code × Code × Code)
  | .dqmxE4m3F32 d a b => some (0, d, a, b)
  | .dqmxE5m2F32 d a b => some (1, d, a, b)
  | .dqmxE3m2F32 d a b => some (2, d, a, b)
  | .dqmxE2m3F32 d a b => some (3, d, a, b)
  | .dqmxE2m1F32 d a b => some (4, d, a, b)
  | .dqmxMxi8F32 d a b => some (5, d, a, b)
  | _ => none

/-- An element under a scale byte, in binary32 (R92, R323). -/
def scaledElement (k el sc : Nat) : Nat × FFlags :=
  match sc, mxVal k el with
  | 255, _ => (f32.defNaN, 0)
  | _, .nan _ _ _ => (f32.defNaN, 0)
  | _, .inf n => (f32.inf n, 0)
  | _, .zero n => (f32.zero n, 0)
  | _, .fin n m e => f32.round .rne ⟨n, m, e + ((sc : Int) - 127)⟩



/-! ### The function store, from 11 -/

/-- The bounds of R201 on a descriptor's bytes. -/
def descriptorLegal (bs : List Byte) : Prop :=
  let n := fun (o k : Nat) => leNat ((bs.drop o).take k)
  let finite := fun (x : Nat) => x / 2 ^ 52 % 2 ^ 11 ≠ 2047
  let least0 := fun (x : Nat) => finite x ∧ x ≤ 2 ^ 63
  (1 ≤ n 0 1 ∧ n 0 1 ≤ 8) ∧ (1 ≤ n 1 1 ∧ n 1 1 ≤ 8) ∧ n 2 1 ≤ 1 ∧ (3 ≤ n 3 1 ∧ n 3 1 ≤ 24) ∧ n 4 4 = 0 ∧ (n 8 8 ≠ 0 ∧ n 8 8 % 4 = 0) ∧ n 0x18 8 = 0 ∧
    (∀ i, i < n 0 1 → finite (n (0x20 + 8 * i) 8) ∧ finite (n (0x60 + 8 * i) 8) ∧ 0 < n (0x60 + 8 * i) 8 ∧ n (0x60 + 8 * i) 8 < 2 ^ 63 ∧
      least0 (n (0xA0 + 8 * i) 8)) ∧
    (∀ j, j < n 1 1 → least0 (n (0xE0 + 8 * j) 8) ∧ least0 (n (0x120 + 8 * j) 8))

/-- A counter of a function entry (R223). -/
def State.fsCounter (s : State) (ctx fid sel : Nat) : Nat := (s.fent ctx fid).cnt.getD sel 0

/-- A function entry has its eight counters, each of 64 bits. -/
def State.fsCounted (s : State) (ctx fid : Nat) : Prop := (s.fent ctx fid).cnt.length = 8 ∧ ∀ x ∈ (s.fent ctx fid).cnt, x < 2 ^ 64

/-- The executing wave posts function-store operations and retires, `r` being the state that its reads leave; FL counts them as one (R213). -/
def State.postsFs (s r : State) (o : Out) (P : State → List FsOp → Prop) : Prop :=
  s.retiresFrom r (fun w => { w with fl := 0 }) o (fun t => ∃ new, t.fsOps = s.fsOps ++ new ∧ P t new ∧
    (t.wv s.cur).fl = s.w.fl + (if new = [] then 0 else 1) ∧ (∀ p ∈ new, p.wave = s.cur ∧ p.ctx = s.ctxN s.cur.g ∧ p.grp = r.nextUid))

/-- A wave whose threads hold elements of n words from an allocation row on, where `vals` gives some; every other word is as it was. -/
def Wave.HasElems (w x : Wave) (row n : Nat) (vals : Nat → Option (List Nat)) : Prop :=
  ∀ k t, t < threads → x.cell k t = match vals t with
    | some vs => if row ≤ k ∧ k < row + n * vs.length then BitVec.ofNat 32 (vs.getD ((k - row) / n) 0 / 2 ^ (32 * ((k - row) % n))) else w.cell k t
    | none => w.cell k t

/-- m elements of n words that thread t holds from an allocation row on (R218). -/
def Wave.elements (w : Wave) (row n m t : Nat) : List Nat :=
  (List.range m).map (fun i => (w.cell (row + n * i) t).toNat + (if n = 2 then (w.cell (row + n * i + 1) t).toNat * 2 ^ 32 else 0))

/-- A wave without what `fcall` and `fret` change. -/
def Wave.sansCall (w : Wave) : Wave := { w.sansPc with v := [], badRows := [], w := [], tokens := [], frame := none, search := none, wbase := 0, fl := 0 }

/-- Bit t of a mask of three wave registers is set for the threads of a list alone. -/
def Wave.maskIs (x : Wave) (ts : List Nat) : Prop := ∀ t, t < threads → x.act t = ts.contains t

/-- The first operation posted has one store left, and is the last of its instruction. -/
def State.firstOp (s : State) (o : FsOp) (st : Nat) (os : List FsOp) : Prop :=
  s.fsOps = o :: os ∧ o.stores = [st] ∧ ∀ p ∈ os, p.grp ≠ o.grp

/-- The larger of two half-widths (R211). -/
def FDesc.larger (f : FDesc) (a b : Nat) : Nat :=
  match f.fmt.val a, f.fmt.val b with
  | .inf _, _ => a
  | _, .inf _ => b
  | x, y => if x.term.lt y.term then b else a

/-- The distance of an argument from a centre along one coordinate, rounded up (R211). -/
def FDesc.reach (f : FDesc) (x c : Nat) : Nat := if (distOf f.fmt x c).m = 0 then 0 else (f.fmt.round .rup (distOf f.fmt x c)).1

/-- A bucket stands in its store with these ways. -/
def State.bucketIs (s : State) (ctx fid b : Nat) (ways : List (Option FRec)) : Prop := aget s.buckets (ctx, fid, b) = some ⟨true, ways⟩

/-- Only one counter of an entry has risen, by one (R223); GEN, state and descriptor are as they were. -/
def State.rose (s t : State) (ctx fid : Nat) (sels : List Nat) : Prop :=
  (∀ k, k < 8 → t.fsCounter ctx fid k = (s.fsCounter ctx fid k + (if sels.contains k then 1 else 0)) % 2 ^ 64) ∧
    (t.fent ctx fid).gen = (s.fent ctx fid).gen ∧ (t.fent ctx fid).defined = (s.fent ctx fid).defined ∧ (t.fent ctx fid).desc = (s.fent ctx fid).desc

/-- The way that a new record takes (R211): the lowest that is not valid, else the lowest of those with the lowest HITS. -/
def takesWay (gen : Nat) (ways : List (Option FRec)) (w : Nat) : Prop :=
  let valid := fun (k : Nat) => ∃ r, ways.getD k none = some r ∧ r.gen = gen
  let hits := fun (k : Nat) => ((ways.getD k none).map (·.hits)).getD 0
  w < 8 ∧ ((¬ valid w ∧ ∀ k, k < w → valid k) ∨
    ((∀ k, k < 8 → valid k) ∧ (∀ k, k < 8 → hits w ≤ hits k) ∧ ∀ k, k < w → hits w < hits k))



/-! ### The steward, the host and the fabric, from 22, 24 and 27 -/


/-- Charge of a core for a leave class (R427). -/
def leaveCharge (c : Nat) : Nat := if c = 2 then 5 else 6

/-- A sector's steward. -/
def State.sectorOf_ (s : State) (n : Nat) : Sector := (aget s.sectors n).getD {}

/-- The charges that a sector's cores are charged, one for each core and class held (R427). -/
def State.heldCharges (s : State) (sector : Nat) : Nat :=
  ((List.range 32).map (fun k => (([1, 2, 3, 4, 5].filter (fun c => s.coreHolds (32 * sector + k) c)).map leaveCharge).sum)).sum

/-- A request for a leave class stands: a wave's own, or, 8 above its class, the engine's for the wave's commands (R326; their being kept apart is
the model's choice of log 12). -/
def State.requests (s : State) (r : WaveId × Nat) : Prop :=
  (s.wv r.1).exited = false ∧ (if r.2 < 8 then (s.wv r.1).lvGnt = false ∧ (s.wv r.1).lvCls = r.2
    else (s.wv r.1).engGnt = false ∧ (s.wv r.1).engCls + 8 = r.2)

/-- Waves, grids and crews are as they were, but for bytes of a local store that serve an access to its image (R239). -/
def State.sameRuns (s t : State) : Prop :=
  t.waves = s.waves ∧ t.grids = s.grids ∧
    ∀ c, { t.crewOf c with ls := [], lsDirty := [], lsBad := [] } = { s.crewOf c with ls := [], lsDirty := [], lsBad := [] }

/-- No core, gang or walker cache holds a translation of a context. -/
def State.forgets (t : State) (ctx : Nat) : Prop :=
  (∀ k ∈ t.cores, ∀ e ∈ k.2.tlb, e.ctx ≠ ctx) ∧ (∀ k ∈ t.gangTlb, ∀ e ∈ k.2, e.ctx ≠ ctx) ∧ ∀ k ∈ t.walkTlb, ∀ e ∈ k.2, e.ctx ≠ ctx

/-- A device link takes no flit: it is none of the eight, no boot has brought it up, it is down, it retrains, or its device is dead (R414, R417,
R428). -/
def State.linkShut (s : State) (k : Nat) : Prop :=
  8 ≤ k ∨ s.portUp = false ∨ (s.linkOf k).up = false ∨ (s.linkOf k).training = true ∨ (aget s.peers (s.linkOf k).dev).any (·.dead) = true

/-- A link asks for the flit that it expects, by a retry request (R414). -/
def State.asksAgain (s : State) (k : Nat) (o : Out) : Prop :=
  ∃ r : Flit, o = .next (s.setLink k { s.linkOf k with request := some r }) ∧ r.seq = (s.linkOf k).expect ∧ r.ty = 2

/-- An answer of the host port stands before those given earlier. -/
def State.answers (s t : State) (data : List Byte) (error : Bool) : Prop := ∃ poison, t.hostReply = (data, error, poison) :: s.hostReply



/-! ### Launch, binding, issue and the end of a grid, from 07, 10 and 21 -/

/-- A run of n bytes of device memory, aligned to n, that lies in no open line and no bound crew's image, and of which the host holds no half
modified. -/
def State.plainAt (s : State) (pa n : Nat) : Prop :=
  pa % n = 0 ∧ pa + n ≤ deviceEnd ∧ aget s.frames (pa / 128) = none ∧ s.imageAt (pa / 128) = none ∧
    ∀ h, h < 2 → s.holdOf (2 * (pa / 128) + h) ≠ 3

/-- A record has been admitted as grid `n` (R182): its bytes, its context and its queue, and the STATUS of a record that is malformed. -/
def State.admitted (s t : State) (die ctx : Nat) (queue : Option Nat) (bs : List Byte) : Prop :=
  t.nextGrid = s.nextGrid + 1 ∧ (∀ n, n ≠ s.nextGrid → t.gridOf n = s.gridOf n) ∧ ∃ g, t.gridOf s.nextGrid = g ∧ g.lrec = bs ∧ g.ctx = ctx ∧ g.die = die ∧
    g.queue = queue ∧ g.order = s.nextGrid ∧ g.nextCrew = 0 ∧ g.ended = false ∧ (g.ending = true ↔ g.status ≠ 0) ∧
    (g.malformed = true → g.status = 0x0101) ∧ (g.malformed = false → g.badQuant = true → g.status = 0x0107)

/-- The record in a queue's slot for a count, and the state that reading it leaves (R179). -/
def State.ringRead (s : State) (x : LQueue) (n : Nat) : List Byte × State :=
  let a := x.ring + 256 * (n % x.size)
  let s := s.homeLook a 256 (s.queueKey x.ctx a)
  (s.homeSee a 128 (s.queueKey x.ctx a) ++ s.homeSee (a + 128) 128 (s.queueKey x.ctx a), s)

/-- The state once `k` records from HEAD on have been read and admitted one by one, HEAD written after each (R179). -/
def State.copied (s : State) (die q : Nat) (x : LQueue) : Nat → State
  | 0 => s
  | k + 1 =>
    let t := s.copied die q x k
    let (bs, t) := t.ringRead x (x.head + k)
    let h := (x.head + k + 1) % 2 ^ 64
    ((t.admitRecord die x.ctx (some q) bs).setQueue die q { x with head := h }).stewardWrite x.headAt
      ((t.admitRecord die x.ctx (some q) bs).queueKey x.ctx x.headAt) (leBytes 8 h)

/-- A wave as it stands when its crew is first bound (R6, R7, R131, R184): registers from the launch record, everything else zero. -/
structure Wave.Fresh (x : Wave) (g : Grid) (core slot id : Nat) : Prop where
  pc : x.pc = BitVec.ofNat 49 g.entry
  rows : x.alloc = g.rows ∧ x.wbase = 0 ∧ ∀ k t, x.cell k t = 0
  args : ∀ i, i < 61 → x.wr i = if i < g.fld 0x17 1 then BitVec.ofNat 32 (g.fld (0x80 + 4 * i) 4) else 0
  mask : g.fld 0x17 1 ≤ 32 → ∀ b, b < 3 → x.wr (61 + b) = BitVec.ofNat 32 (g.fld (0x34 + 4 * b) 4)
  lanes : (∀ t, x.fsrOf t = 0) ∧ (∀ k t, x.latch k t = 0)
  control : x.sup = false ∧ x.count = 0 ∧ x.tokens = [] ∧ x.spilled = 0 ∧ x.frame = none ∧ x.cause = 0 ∧ x.lvCls = 0 ∧ x.lvGnt = false
  vector : x.tvecl = BitVec.ofNat 32 (g.fld 0x70 4) ∧ x.tvech.toNat = g.fld 0x74 4 % 2 ^ 17
  counters : x.vl = 0 ∧ x.wl = 0 ∧ x.st = 0 ∧ x.ec = 0 ∧ x.fl = 0 ∧ x.next = 0 ∧ x.arm = 0 ∧ x.done = 0 ∧ x.inflight = [] ∧ x.faults = []
  place : x.core = core ∧ x.slot = slot ∧ x.wid = id ∧ x.exited = false

/-- The waves of a core that are active. -/
def State.actives (s : State) (core : Nat) : List WaveId := (s.onCore core).filter (fun i => (s.wv i).active)

/-- Nothing but waves has changed, and of them the named alone. -/
def State.onlyWaves (s t : State) (ids : List WaveId) : Prop :=
  (∀ j, j ∉ ids → t.wv j = s.wv j) ∧ t.hbm = s.hbm ∧ t.llc = s.llc ∧ t.sysMem = s.sysMem ∧ t.crews = s.crews ∧ t.cores = s.cores ∧ t.grids = s.grids



/-! ### Steps and words -/

/-- An instruction's word decodes to it. -/
def decodesTo (w : Word) (i : Instr) : Prop := decodeWord w = .instr i


end Sys2Proof.Machine

open Sys2Proof Sys2Proof.Machine

/-- R98 with R51 and R52: every instruction of major 0x01 writes the result of its row for each active thread into d, or nowhere with NW, and
into q0; no other register, flag or byte of memory changes. Operands are read before anything is written (R95). -/
def Obligations.VectorIntegersWriteTheirResult : Prop :=
  ∀ (i : Instr) (s : State) (k : Nat) (d a b : Code) (nw : Bool), vecIntForm i = some (k, d, a, b, nw) → s.issues i →
    s.writesRow d nw 4 (fun w t => intResult k (w.vr a t) (w.vr b t) (w.vr d t)) (exec i s)

/-- R101: the instructions of major 0x03 write a pair, or the 0 or 1 of a compare. -/
def Obligations.PairIntegersWriteTheirResult : Prop :=
  (∀ (i : Instr) (s : State) (k : Nat) (d a b : Code), pairIntForm i = some (k, d, a, b) → s.issues i →
    s.writesPair d (fun w t => pairResult k (w.vr2 a t) (w.vr2 b t) (w.vr a t) (w.vr b t)) (exec i s)) ∧
  (∀ (i : Instr) (s : State) (k : Nat) (d a b : Code) (nw : Bool), pairCmpForm i = some (k, d, a, b, nw) → s.issues i →
    s.writesRow d nw 4 (fun w t => if pairCompare k (w.vr2 a t) (w.vr2 b t) then 1 else 0) (exec i s))

/-- R102: the instructions of major 0x08 compute once, on wave registers, under no mask. -/
def Obligations.WaveIntegersWriteTheirResult : Prop :=
  (∀ (i : Instr) (s : State) (k : Nat) (d a b : Code) (nw : Bool), waveIntForm i = some (k, d, a, b, nw) → s.issues i →
    s.writesReg d nw 4 (fun w => intResult k (w.ws a) (w.ws b) (w.ws d)) (exec i s)) ∧
  (∀ (s : State) (d a b : Code) (nw : Bool), s.issues (.waveAddN64 d a b nw) →
    s.writesRegPair d (fun w => BitVec.ofNat 64 ((w.ws2 a).toNat + (w.ws2 b).toNat)) (exec (.waveAddN64 d a b nw) s)) ∧
  (∀ (s : State) (d a b : Code) (nw : Bool), s.issues (.waveSubN64 d a b nw) →
    s.writesRegPair d (fun w => BitVec.ofInt 64 ((w.ws2 a).toNat - (w.ws2 b).toNat)) (exec (.waveSubN64 d a b nw) s)) ∧
  (∀ (s : State) (d a b : Code) (nw : Bool), s.issues (.waveSltN64 d a b nw) →
    s.writesReg d nw 4 (fun w => if (w.ws2 a).toNat < (w.ws2 b).toNat then 1 else 0) (exec (.waveSltN64 d a b nw) s))

/-- R54, R100: the add of an immediate writes A + SignExt(imm12), in both forms; behind a LIT prefix (R17, R54, R56) the pair is one instruction
of 8 bytes that adds payload[19:0] × 2^12 + imm12. -/
def Obligations.ImmediatesAreAdded : Prop :=
  (∀ (s : State) (d a : Code) (nw : Bool) (imm : BitVec 12), s.issues (.addImmN32 d a nw imm) →
    s.writesRow d nw 4 (fun w t => BitVec.ofInt 32 ((w.vr a t).toNat + imm.toInt)) (exec (.addImmN32 d a nw imm) s)) ∧
  (∀ (s : State) (d a : Code) (nw : Bool) (imm : BitVec 12), s.issues (.waveAddImmN32 d a nw imm) →
    s.writesReg d nw 4 (fun w => BitVec.ofInt 32 ((w.ws a).toNat + imm.toInt)) (exec (.waveAddImmN32 d a nw imm) s)) ∧
  (∀ (s : State) (pay : BitVec 27) (x : Word) (d a : Code) (nw : Bool) (imm : BitVec 12), pay.toNat < 2 ^ 20 →
    s.fetchWord s.cur (s.w.pc + 4).toNat = .ok x →
    (decodeWord x = .instr (.addImmN32 d a nw imm) → s.issues (.addImmN32 d a nw imm) →
      s.writesRow d nw 8 (fun w t => BitVec.ofNat 32 ((w.vr a t).toNat + (pay.toNat * 2 ^ 12 + imm.toNat))) (exec (.lit pay) s)) ∧
    (decodeWord x = .instr (.waveAddImmN32 d a nw imm) → s.issues (.waveAddImmN32 d a nw imm) →
      s.writesReg d nw 8 (fun w => BitVec.ofNat 32 ((w.ws a).toNat + (pay.toNat * 2 ^ 12 + imm.toNat))) (exec (.lit pay) s)))

/-- R104, R106: `add`, `sub`, `mul` and `fma` in every format and mode deliver `FpCore` of the operands that `ReadF` reads, and OR in its flags,
where no enabled exception is raised. -/
def Obligations.FloatArithmeticWritesItsResult : Prop :=
  (∀ (i : Instr) (s : State) (op : FOp) (F : Fmt) (m : Option RM) (d a b : Code) (nw : Bool),
    fpForm i = some (op, F, m, d, a, b, nw) → s.issues i →
    s.writesFpRow d nw (fun w t => fpArith op F (w.env m t) ((w.vr a t).toNat % 2 ^ (1 + F.eb + F.fb))
      ((w.vr b t).toNat % 2 ^ (1 + F.eb + F.fb)) ((w.vr d t).toNat % 2 ^ (1 + F.eb + F.fb))) (exec i s)) ∧
  (∀ (i : Instr) (s : State) (op : FOp) (m : Option RM) (d a b : Code), fpForm64 i = some (op, m, d, a, b) → s.issues i →
    s.writesFpPair d (fun w t => fpArith op f64 (w.env m t) (w.vr2 a t).toNat (w.vr2 b t).toNat (w.vr2 d t).toNat) (exec i s))

/-- R110-R112: the special functions round in the thread's mode and deliver the code and the flags of their function. The operand values of R112
have the fixed results of its table, and a NaN operand goes first, in the order a, b. For finite operands outside that table `div`, `sqrt`,
`rcp` and `rsq` deliver RoundTo, through FlushOut, of the exact x / y, √x, 1 / x and 1 / √x. -/
def Obligations.SpecialFunctionsWriteTheirResult : Prop :=
  (∀ (F : Fmt) (v : FEnv) (a b : Nat), F ∈ [f64, f32] →
    let x := F.readF v.fzi a
    let y := F.readF v.fzi b
    let nv : FFlags := if F.isSNaN x = true ∨ F.isSNaN y = true then fNV else 0
    let invalid := (F.defNaN, fNV)
    (F.isNaN x = true → fpDiv F v a b = (F.quiet x, nv) ∧ ∀ f, fpSpecial f F v a = (F.quiet x, if F.isSNaN x = true then fNV else 0)) ∧
    (F.isNaN x = false → F.isNaN y = true → fpDiv F v a b = (F.quiet y, nv)) ∧
    (∀ p n : Bool, (x = F.zero p → y = F.zero n → fpDiv F v a b = invalid) ∧ (x = F.inf p → y = F.inf n → fpDiv F v a b = invalid) ∧
      (∀ m e, F.val x = .fin p m e → y = F.zero n → fpDiv F v a b = (F.inf (p != n), fDZ)) ∧
      (∀ m e, x = F.inf p → (F.val y = .fin n m e ∨ y = F.zero n) → fpDiv F v a b = (F.inf (p != n), 0)) ∧
      (∀ m e, (F.val x = .fin p m e ∨ x = F.zero p) → y = F.inf n → fpDiv F v a b = (F.zero (p != n), 0)) ∧
      (∀ m e, x = F.zero p → F.val y = .fin n m e → fpDiv F v a b = (F.zero (p != n), 0))) ∧
    (∀ p : Bool,
      (x = F.zero p → fpSpecial .sqrt F v a = (F.zero p, 0) ∧ fpSpecial .rcp F v a = (F.inf p, fDZ) ∧ fpSpecial .rsq F v a = (F.inf p, fDZ) ∧
        fpSpecial .log2 F v a = (F.inf true, fDZ) ∧ fpSpecial .sinpi F v a = (F.zero p, 0)) ∧
      (x = F.inf p → fpSpecial .sqrt F v a = (if p then invalid else (F.inf false, 0)) ∧ fpSpecial .rcp F v a = (F.zero p, 0) ∧
        fpSpecial .rsq F v a = (if p then invalid else (F.zero false, 0)) ∧ fpSpecial .exp2 F v a = (if p then F.zero false else F.inf false, 0) ∧
        fpSpecial .log2 F v a = (if p then invalid else (F.inf false, 0)) ∧ fpSpecial .sinpi F v a = invalid ∧ fpSpecial .cospi F v a = invalid) ∧
      (∀ m e, F.val x = .fin p m e →
        (p = true → fpSpecial .sqrt F v a = invalid ∧ fpSpecial .rsq F v a = invalid ∧ fpSpecial .log2 F v a = invalid) ∧
        (m % 2 ^ (-e).toNat = 0 → fpSpecial .sinpi F v a = (F.zero p, 0)) ∧
        (m % 2 ^ (-e).toNat ≠ 0 → 2 * m % 2 ^ (-e).toNat = 0 → fpSpecial .cospi F v a = (F.zero false, 0)))) ∧
    (∀ p m e, F.val x = .fin p m e →
      (∀ n m' e', F.val y = .fin n m' e' → F.RoundsReal v (p != n) (fun k f => dyadicLt (k * m') (f + e') m e)
        (fun k f => dyadicLt m e (k * m') (f + e')) (fpDiv F v a b)) ∧
      F.RoundsReal v p (fun k f => dyadicLt (k * m) (f + e) 1 0) (fun k f => dyadicLt 1 0 (k * m) (f + e)) (fpSpecial .rcp F v a) ∧
      (p = false →
        F.RoundsReal v p (fun k f => dyadicLt (k * k) (2 * f) m e) (fun k f => dyadicLt m e (k * k) (2 * f)) (fpSpecial .sqrt F v a) ∧
        F.RoundsReal v p (fun k f => dyadicLt (k * k * m) (2 * f + e) 1 0) (fun k f => dyadicLt 1 0 (k * k * m) (2 * f + e))
          (fpSpecial .rsq F v a))) ∧
    (x = F.bias * 2 ^ F.fb → fpSpecial .log2 F v a = (F.zero false, 0))) ∧
  (∀ (i : Instr) (s : State) (f : SFn) (d a : Code) (nw : Bool), specialForm i = some (f, d, a, nw) → s.issues i →
    s.writesFpRow d nw (fun w t => fpSpecial f f32 (w.env none t) (w.vr a t).toNat) (exec i s)) ∧
  (∀ (i : Instr) (s : State) (f : SFn) (d a : Code), specialForm64 i = some (f, d, a) → s.issues i →
    s.writesFpPair d (fun w t => fpSpecial f f64 (w.env none t) (w.vr2 a t).toNat) (exec i s)) ∧
  (∀ (s : State) (d a b : Code) (nw : Bool), s.issues (.divF32 d a b nw) →
    s.writesFpRow d nw (fun w t => fpDiv f32 (w.env none t) (w.vr a t).toNat (w.vr b t).toNat) (exec (.divF32 d a b nw) s)) ∧
  (∀ (s : State) (d a b : Code) (nw : Bool), s.issues (.divF64 d a b nw) →
    s.writesFpPair d (fun w t => fpDiv f64 (w.env none t) (w.vr2 a t).toNat (w.vr2 b t).toNat) (exec (.divF64 d a b nw) s))

/-- R109: `abs` clears the sign bit and `neg` inverts it, every other bit passing unchanged, and `class` writes a one-hot class; none of them
reads or raises a flag, and no thread traps.
In its second part: R107, R108: `min`, `max` and the compares of both formats; a compare delivers the word 1 or 0. Of two numbers the
smaller or the larger goes through FlushOut, -0 being below +0; of a number and a NaN the number; of two NaNs the default NaN. The compares
are those of the values, +0 and -0 being equal; with a NaN only `cun` delivers 1. NV is raised by a signalling NaN, and by any NaN in `clt`
and `cle`. -/
def Obligations.SignsAndFloatChoices : Prop :=
  (∀ (s : State) (d a : Code) (nw : Bool),
     let half := fun (w : Wave) (t : Nat) => (w.vr a t).extractLsb' 0 16
     (s.issues (.absF32 d a nw) → s.writesRow d nw 4 (fun w t => w.vr a t &&& 0x7FFFFFFF) (exec (.absF32 d a nw) s)) ∧
     (s.issues (.negF32 d a nw) → s.writesRow d nw 4 (fun w t => w.vr a t ^^^ 0x80000000) (exec (.negF32 d a nw) s)) ∧
     (s.issues (.absF16 d a nw) → s.writesRow d nw 4 (fun w t => (half w t &&& 0x7FFF#16).setWidth 32) (exec (.absF16 d a nw) s)) ∧
     (s.issues (.negF16 d a nw) → s.writesRow d nw 4 (fun w t => (half w t ^^^ 0x8000#16).setWidth 32) (exec (.negF16 d a nw) s)) ∧
     (s.issues (.absBf16 d a nw) → s.writesRow d nw 4 (fun w t => (half w t &&& 0x7FFF#16).setWidth 32) (exec (.absBf16 d a nw) s)) ∧
     (s.issues (.negBf16 d a nw) → s.writesRow d nw 4 (fun w t => (half w t ^^^ 0x8000#16).setWidth 32) (exec (.negBf16 d a nw) s)) ∧
     (s.issues (.absF64 d a nw) → s.writesPair d (fun w t => w.vr2 a t &&& 0x7FFFFFFFFFFFFFFF) (exec (.absF64 d a nw) s)) ∧
     (s.issues (.negF64 d a nw) → s.writesPair d (fun w t => w.vr2 a t ^^^ 0x8000000000000000) (exec (.negF64 d a nw) s)) ∧
     (s.issues (.classF32 d a nw) → s.writesRow d nw 4 (fun w t => 1#32 <<< f32.classBit (w.vr a t).toNat) (exec (.classF32 d a nw) s)) ∧
     (s.issues (.classF64 d a nw) → s.writesRow d nw 4 (fun w t => 1#32 <<< f64.classBit (w.vr2 a t).toNat) (exec (.classF64 d a nw) s))) ∧
  ((∀ (F : Fmt) (v : FEnv) (a b : Nat), F ∈ [f64, f32] →
     let x := F.readF v.fzi a
     let y := F.readF v.fzi b
     let nv : FFlags := if F.isSNaN x = true ∨ F.isSNaN y = true then fNV else 0
     let flushed := fun (c : Nat) => if v.fzo = true ∧ F.isSub c = true then (F.zero (F.sign c), nv ||| fUF ||| fNX) else (c, nv)
     (∀ mx : Bool,
       (F.isNaN x = true → F.isNaN y = true → fpMinMax mx F v a b = (F.defNaN, nv)) ∧
       (F.isNaN x = true → F.isNaN y = false → fpMinMax mx F v a b = flushed y) ∧
       (F.isNaN x = false → F.isNaN y = true → fpMinMax mx F v a b = flushed x) ∧
       (F.isNaN x = false → F.isNaN y = false → fpMinMax mx F v a b = flushed (if (decide (F.key x < F.key y)) = mx then y else x))) ∧
     (F.isNaN x = true ∨ F.isNaN y = true → fpCompare .eq F v a b = (false, nv) ∧ fpCompare .lt F v a b = (false, fNV) ∧
       fpCompare .le F v a b = (false, fNV) ∧ fpCompare .un F v a b = (true, nv)) ∧
     (F.isNaN x = false → F.isNaN y = false →
       fpCompare .eq F v a b = (decide (F.order x = F.order y), 0) ∧ fpCompare .lt F v a b = (decide (F.order x < F.order y), 0) ∧
       fpCompare .le F v a b = (decide (F.order x ≤ F.order y), 0) ∧ fpCompare .un F v a b = (false, 0))) ∧
   ∀ (s : State) (d a b : Code) (nw : Bool),
     let two := fun (f : FEnv → Nat → Nat → Nat × FFlags) (w : Wave) (t : Nat) => f (w.env none t) (w.vr a t).toNat (w.vr b t).toNat
     let pairs := fun (f : FEnv → Nat → Nat → Nat × FFlags) (w : Wave) (t : Nat) => f (w.env none t) (w.vr2 a t).toNat (w.vr2 b t).toNat
     let cmp_ := fun (c : FCmp) (F : Fmt) (v : FEnv) (x y : Nat) => ((fpCompare c F v x y).1.toNat, (fpCompare c F v x y).2)
     (s.issues (.minF32 d a b nw) → s.writesFpRow d nw (two (fpMinMax false f32)) (exec (.minF32 d a b nw) s)) ∧
     (s.issues (.maxF32 d a b nw) → s.writesFpRow d nw (two (fpMinMax true f32)) (exec (.maxF32 d a b nw) s)) ∧
     (s.issues (.minF64 d a b nw) → s.writesFpPair d (pairs (fpMinMax false f64)) (exec (.minF64 d a b nw) s)) ∧
     (s.issues (.maxF64 d a b nw) → s.writesFpPair d (pairs (fpMinMax true f64)) (exec (.maxF64 d a b nw) s)) ∧
     (s.issues (.ceqF32 d a b nw) → s.writesFpRow d nw (two (cmp_ .eq f32)) (exec (.ceqF32 d a b nw) s)) ∧
     (s.issues (.cltF32 d a b nw) → s.writesFpRow d nw (two (cmp_ .lt f32)) (exec (.cltF32 d a b nw) s)) ∧
     (s.issues (.cleF32 d a b nw) → s.writesFpRow d nw (two (cmp_ .le f32)) (exec (.cleF32 d a b nw) s)) ∧
     (s.issues (.cunF32 d a b nw) → s.writesFpRow d nw (two (cmp_ .un f32)) (exec (.cunF32 d a b nw) s)) ∧
     (s.issues (.ceqF64 d a b nw) → s.writesFpRow d nw (pairs (cmp_ .eq f64)) (exec (.ceqF64 d a b nw) s)) ∧
     (s.issues (.cltF64 d a b nw) → s.writesFpRow d nw (pairs (cmp_ .lt f64)) (exec (.cltF64 d a b nw) s)) ∧
     (s.issues (.cleF64 d a b nw) → s.writesFpRow d nw (pairs (cmp_ .le f64)) (exec (.cleF64 d a b nw) s)) ∧
     (s.issues (.cunF64 d a b nw) → s.writesFpRow d nw (pairs (cmp_ .un f64)) (exec (.cunF64 d a b nw) s)))

/-- R115, R116, R117, R119: the conversions and `rint`, in the mode that their selector names (R114). Between formats a NaN keeps its sign and
the high bits of its fraction, quieted; an infinity and a zero keep their sign; every other value is rounded into the destination and goes
through FlushOut. To an integer, the rounded value goes to the nearest limit with NV outside the range, and a NaN gives 0 with NV. From an
integer, NX is the only flag. `rint` delivers the rounded integer in the same format, a zero with the operand's sign, and raises NX alone. -/
def Obligations.ConversionsWriteTheirResult : Prop :=
  (∀ (S D : Fmt) (v : FEnv) (a : Nat), S ∈ [f64, f32, f16, bf16] → D ∈ [f64, f32, f16, bf16] →
    let x := S.readF v.fzi a
    let nan := D.emaxField * 2 ^ D.fb + S.frac (S.quiet x) * 2 ^ (D.fb - S.fb) / 2 ^ (S.fb - D.fb)
    let ans := cnvFF S D v a
    (S.isNaN x = true → ans = ((if S.sign x then 2 ^ D.mag else 0) + nan, if S.isSNaN x = true then fNV else 0)) ∧
    (∀ p : Bool, (x = S.inf p → ans = (D.inf p, 0)) ∧ (x = S.zero p → ans = (D.zero p, 0)) ∧
      (∀ m e, S.val x = .fin p m e →
        let r := D.round v.rm ⟨p, m, e⟩
        ans = if v.fzo = true ∧ D.isSub r.1 = true then (D.zero p, r.2 ||| fUF ||| fNX) else r))) ∧
  (∀ (F : Fmt) (sg : Bool) (n : Nat) (v : FEnv) (a : Nat), F ∈ [f64, f32] → n ∈ [32, 64] →
    let x := F.readF v.fzi a
    let lo : Int := if sg then -(2 ^ (n - 1)) else 0
    let hi : Int := if sg then 2 ^ (n - 1) - 1 else 2 ^ n - 1
    let code := fun (i : Int) => (i % 2 ^ n).toNat
    (F.isNaN x = true → toInt F sg n v a = (0, fNV)) ∧
    (∀ p : Bool, (x = F.inf p → toInt F sg n v a = (code (if p then lo else hi), fNV)) ∧ (x = F.zero p → toInt F sg n v a = (0, 0)) ∧
      (∀ m e, F.val x = .fin p m e →
        let q := roundAt v.rm p m e 0
        let i : Int := if p then -(q.1 : Int) else q.1
        toInt F sg n v a = if i < lo then (code lo, fNV) else if hi < i then (code hi, fNV) else (code i, if q.2 then fNX else 0)))) ∧
  (∀ (D : Fmt) (v : FEnv) (i : Int), D ∈ [f64, f32] → i.natAbs < 2 ^ 64 →
    (i = 0 → cnvIF D v i = (D.zero false, 0)) ∧ (i ≠ 0 → cnvIF D v i = D.round v.rm ⟨decide (i < 0), i.natAbs, 0⟩) ∧
    ((cnvIF D v i).2 = 0 ∨ (cnvIF D v i).2 = fNX)) ∧
  (∀ (F : Fmt) (v : FEnv) (a : Nat), F ∈ [f64, f32] →
    let x := F.readF v.fzi a
    (F.isNaN x = true → fpRint F v a = (F.quiet x, if F.isSNaN x = true then fNV else 0)) ∧
    (∀ p : Bool, (x = F.inf p ∨ x = F.zero p → fpRint F v a = (x, 0)) ∧
      (∀ m e, F.val x = .fin p m e →
        let q := roundAt v.rm p m e 0
        (q.1 = 0 → (fpRint F v a).1 = F.zero p) ∧ (q.1 ≠ 0 → (F.val (fpRint F v a).1).isReal p q.1 0) ∧
        (fpRint F v a).2 = if q.2 then fNX else 0))) ∧
  (∀ (i : Instr) (s : State) (d : Code) (nw : Bool) (f : Wave → Nat → Nat × FFlags), convForm i = some (d, nw, f) → s.issues i →
    s.writesFpRow d nw f (exec i s)) ∧
  (∀ (i : Instr) (s : State) (d : Code) (f : Wave → Nat → Nat × FFlags), convForm64 i = some (d, f) → s.issues i →
    s.writesFpPair d f (exec i s))

/-- R118: the conversions between integers clamp to the narrow range, or extend; they read and raise no flag. -/
def Obligations.IntegerConversionsClamp : Prop :=
  ∀ (s : State) (d a sel : Code) (nw : Bool),
    let clamp := fun (lo hi : Int) (w : Wave) (t : Nat) => BitVec.ofInt 32 (max lo (min (w.vr a t).toInt hi))
    (s.issues (.cnvS32S16 d a sel nw) → s.writesRow d nw 4 (clamp (-32768) 32767) (exec (.cnvS32S16 d a sel nw) s)) ∧
    (s.issues (.cnvS32N16 d a sel nw) → s.writesRow d nw 4 (clamp 0 65535) (exec (.cnvS32N16 d a sel nw) s)) ∧
    (s.issues (.cnvS32S8 d a sel nw) → s.writesRow d nw 4 (clamp (-128) 127) (exec (.cnvS32S8 d a sel nw) s)) ∧
    (s.issues (.cnvS32N8 d a sel nw) → s.writesRow d nw 4 (clamp 0 255) (exec (.cnvS32N8 d a sel nw) s)) ∧
    (s.issues (.cnvS32S64 d a nw) → s.writesPair d (fun w t => BitVec.ofInt 64 (w.vr a t).toInt) (exec (.cnvS32S64 d a nw) s)) ∧
    (s.issues (.cnvN32N64 d a nw) → s.writesPair d (fun w t => BitVec.ofNat 64 (w.vr a t).toNat) (exec (.cnvN32N64 d a nw) s))

/-- R83, R374: a floating-point operation of which an active thread raises an enabled exception takes the floating-point trap: every active
thread ORs in the flags whose enables are clear, no row and no latch changes, and the handler finds the lowest trapping thread in `tlane`,
its enabled flags in `cause`, and every trapping thread in `tmask0`-`tmask2`. So do the arithmetic operations of every format, the special
functions, minima, maxima and compares, the conversions and `rint`, and `redadd.f32`, whose flags its lowest active thread alone receives. -/
def Obligations.EnabledExceptionsTrap : Prop :=
  (∀ (i : Instr) (s : State) (op : FOp) (F : Fmt) (m : Option RM) (d a b : Code) (nw : Bool), fpForm i = some (op, F, m, d, a, b, nw) → s.issues i →
    s.fpTraps (fun t => (fpArith op F (s.w.env m t) ((s.w.vr a t).toNat % 2 ^ (1 + F.eb + F.fb))
      ((s.w.vr b t).toNat % 2 ^ (1 + F.eb + F.fb)) ((s.w.vr d t).toNat % 2 ^ (1 + F.eb + F.fb))).2) (exec i s)) ∧
  (∀ (i : Instr) (s : State) (op : FOp) (m : Option RM) (d a b : Code), fpForm64 i = some (op, m, d, a, b) → s.issues i →
    s.fpTraps (fun t => (fpArith op f64 (s.w.env m t) (s.w.vr2 a t).toNat (s.w.vr2 b t).toNat (s.w.vr2 d t).toNat).2) (exec i s)) ∧
  (∀ (i : Instr) (s : State) (f : SFn) (d a : Code) (nw : Bool), specialForm i = some (f, d, a, nw) → s.issues i →
    s.fpTraps (fun t => (fpSpecial f f32 (s.w.env none t) (s.w.vr a t).toNat).2) (exec i s)) ∧
  (∀ (i : Instr) (s : State) (f : SFn) (d a : Code), specialForm64 i = some (f, d, a) → s.issues i →
    s.fpTraps (fun t => (fpSpecial f f64 (s.w.env none t) (s.w.vr2 a t).toNat).2) (exec i s)) ∧
  (∀ (i : Instr) (s : State) (d : Code) (nw : Bool) (f : Wave → Nat → Nat × FFlags), convForm i = some (d, nw, f) → s.issues i →
    s.fpTraps (fun t => (f s.w t).2) (exec i s)) ∧
  (∀ (i : Instr) (s : State) (d : Code) (f : Wave → Nat → Nat × FFlags), convForm64 i = some (d, f) → s.issues i →
    s.fpTraps (fun t => (f s.w t).2) (exec i s)) ∧
  (∀ (s : State) (d a b : Code) (nw : Bool) (i : Instr) (f : FEnv → Nat → Nat → FFlags), s.issues i →
    let cmp_ := fun (c : FCmp) (F : Fmt) (v : FEnv) (x y : Nat) => (fpCompare c F v x y).2
    let best := fun (mx : Bool) (F : Fmt) (v : FEnv) (x y : Nat) => (fpMinMax mx F v x y).2
    ((i, f) ∈ [(.divF32 d a b nw, fun v x y => (fpDiv f32 v x y).2), (.minF32 d a b nw, best false f32), (.maxF32 d a b nw, best true f32),
        (.ceqF32 d a b nw, cmp_ .eq f32), (.cltF32 d a b nw, cmp_ .lt f32), (.cleF32 d a b nw, cmp_ .le f32), (.cunF32 d a b nw, cmp_ .un f32)] →
      s.fpTraps (fun t => f (s.w.env none t) (s.w.vr a t).toNat (s.w.vr b t).toNat) (exec i s)) ∧
    ((i, f) ∈ [(.divF64 d a b nw, fun v x y => (fpDiv f64 v x y).2), (.minF64 d a b nw, best false f64), (.maxF64 d a b nw, best true f64),
        (.ceqF64 d a b nw, cmp_ .eq f64), (.cltF64 d a b nw, cmp_ .lt f64), (.cleF64 d a b nw, cmp_ .le f64), (.cunF64 d a b nw, cmp_ .un f64)] →
      s.fpTraps (fun t => f (s.w.env none t) (s.w.vr2 a t).toNat (s.w.vr2 b t).toNat) (exec i s))) ∧
  (∀ (s : State) (d a : Code) (nw : Bool) (l : Nat) (ts : List Nat), s.issues (.redaddF32 d a nw) → s.w.actives = l :: ts →
    let r := fpSumAll (s.w.env none l) ((l :: ts).map (fun t => f32.readF ((s.w.fsrOf t).getLsbD 11) (s.w.vr a t).toNat))
    s.fpTraps (fun t => if t = l then r.2 else 0) (exec (.redaddF32 d a nw) s))

/-- R74-R76: `roundAt` takes m·2^e to a multiple q·2^k in the mode: `rne` and `rna` to a nearest one, a tie going to the even or to the larger
magnitude; `rtz` to the nearest not larger in magnitude; `rup` and `rdn` to the nearest not below and not above the value. `RoundTo` a
format rounds to its precision first: a result above the largest finite value overflows, as the table of R75 says, with OF and NX; otherwise
the value is rounded in the format itself, NX being raised where that is inexact, and UF with it where the first rounding was below the
smallest normal.
In its second part: R104, R105: what `FpCore` delivers without rounding: a NaN operand goes first, in the order a, b, d, quieted, with NV
where an operand is a signalling NaN or the operation is ∞ × 0; ∞ × 0 in either order and an effective addition of opposite infinities
deliver the default NaN with NV; a NaN in d behind ∞ × 0 is delivered, with NV; an infinite term is the result, a product's sign being that
of its operands; an exact zero has the sign of R76, terms that cancel giving +0, or -0 in the mode `rdn`. -/
def Obligations.RoundingAndSpecialOperands : Prop :=
  ((∀ (F : Fmt) (rm : RM) (x : Term), F ∈ [f64, f32, f16, bf16] → 0 < x.m →
     let k := (x.m.log2 : Int) + x.e - F.fb
     let u := (roundAt rm x.neg x.m x.e k).1
     let top := (u.log2 : Int) + k
     let k' := max k (F.emin - F.fb)
     let q := roundAt rm x.neg x.m x.e k'
     let most := F.emaxField * 2 ^ F.fb - 1
     (F.emax < top → F.round rm x = ((if x.neg then 2 ^ F.mag else 0) + (match rm, x.neg with
       | .rne, _ | .rna, _ | .rup, false | .rdn, true => most + 1
       | .rtz, _ | .rup, true | .rdn, false => most), fOF ||| fNX)) ∧
     (top ≤ F.emax → (q.1 = 0 → (F.round rm x).1 = F.zero x.neg) ∧ (q.1 ≠ 0 → (F.val (F.round rm x).1).isReal x.neg q.1 k') ∧
       (F.round rm x).2 = (if q.2 = false then 0 else if top < F.emin then fUF ||| fNX else fNX))) ∧
   ∀ (rm : RM) (neg : Bool) (m : Nat) (e k : Int), e < k →
     let u := 2 ^ (k - e).toNat
     let q := (roundAt rm neg m e k).1
     let away := match rm with | .rup => !neg | .rdn => neg | _ => false
     ((roundAt rm neg m e k).2 = true ↔ q * u ≠ m) ∧
     (rm = .rtz ∨ (rm = .rup ∧ neg = true) ∨ (rm = .rdn ∧ neg = false) → q * u ≤ m ∧ m < (q + 1) * u) ∧
     (away = true → m ≤ q * u ∧ q * u < m + u) ∧
     (rm = .rne ∨ rm = .rna → ∀ n : Nat, ((m : Int) - q * u).natAbs ≤ ((m : Int) - n * u).natAbs) ∧
     (rm = .rne → ∀ n : Nat, n ≠ q → ((m : Int) - n * u).natAbs = ((m : Int) - q * u).natAbs → q % 2 = 0) ∧
     (rm = .rna → ∀ n : Nat, n ≠ q → ((m : Int) - n * u).natAbs = ((m : Int) - q * u).natAbs → n < q)) ∧
  (∀ (F : Fmt), F ∈ [f64, f32, f16, bf16] → ∀ (op : FOp) (v : FEnv) (x y z : Nat), x < 2 ^ (1 + F.eb + F.fb) → y < 2 ^ (1 + F.eb + F.fb) →
     z < 2 ^ (1 + F.eb + F.fb) →
     (F.isNaN x = true → (fpCore op F v x y z).1 = F.quiet x) ∧
     (F.isNaN x = false → F.isNaN y = true → (fpCore op F v x y z).1 = F.quiet y) ∧
     (op = .fma → F.isNaN x = false → F.isNaN y = false → F.isNaN z = true → (fpCore op F v x y z).1 = F.quiet z) ∧
     (let ops := if op = .fma then [x, y, z] else [x, y]
      let void := (op = .mul ∨ op = .fma) ∧ ∃ p n : Bool, (x = F.inf p ∧ y = F.zero n) ∨ (x = F.zero n ∧ y = F.inf p)
      ((∃ c ∈ ops, F.isNaN c = true) → ((∃ c ∈ ops, F.isSNaN c = true) ∨ void → (fpCore op F v x y z).2 = fNV) ∧
        ((∀ c ∈ ops, F.isSNaN c = false) → ¬ void → (fpCore op F v x y z).2 = 0)) ∧
      ((∀ c ∈ ops, F.isNaN c = false) → void → fpCore op F v x y z = (F.defNaN, fNV)) ∧
      (op = .fma → F.isNaN z = true → void → fpCore op F v x y z = (F.quiet z, fNV))) ∧
     (op = .add → ∀ p : Bool, x = F.inf p → y = F.inf (!p) → fpCore op F v x y z = (F.defNaN, fNV)) ∧
     (op = .sub → ∀ p : Bool, x = F.inf p → y = F.inf p → fpCore op F v x y z = (F.defNaN, fNV)) ∧
     (∀ p : Bool, (x = F.inf p ∧ F.isNaN y = false ∧ y ≠ F.inf (!p)) ∨ (y = F.inf p ∧ F.isNaN x = false ∧ x ≠ F.inf (!p)) → op = .add →
       fpCore op F v x y z = (F.inf p, 0)) ∧
     (∀ p n : Bool, (x = F.inf p ∧ F.isNaN y = false ∧ y % 2 ^ F.mag ≠ 0 ∧ n = F.sign y) ∨ (y = F.inf p ∧ F.isNaN x = false ∧ x % 2 ^ F.mag ≠ 0 ∧ n = F.sign x) →
       (op = .mul → fpCore op F v x y z = (F.inf (p != n), 0)) ∧
       (op = .fma → F.isNaN z = true ∨ z = F.inf (p == n) ∨ fpCore op F v x y z = (F.inf (p != n), 0)) ∧
       (op = .fma → z = F.inf (p == n) → fpCore op F v x y z = (F.defNaN, fNV))) ∧
     (∀ p n : Bool, x = F.zero p → y = F.zero n →
       (op = .add → fpCore op F v x y z = (F.zero (if p = n then p else decide (v.rm = .rdn)), 0)) ∧
       (op = .sub → fpCore op F v x y z = (F.zero (if p ≠ n then p else decide (v.rm = .rdn)), 0)) ∧
       (op = .mul → fpCore op F v x y z = (F.zero (p != n), 0)) ∧
       (op = .fma → ∀ r : Bool, z = F.zero r → fpCore op F v x y z = (F.zero (if (p != n) = r then r else decide (v.rm = .rdn)), 0))) ∧
     (∀ p n m e, F.val x = .fin p m e → F.val y = .fin n m e →
       (op = .add → p ≠ n → fpCore op F v x y z = (F.zero (decide (v.rm = .rdn)), 0)) ∧
       (op = .sub → p = n → fpCore op F v x y z = (F.zero (decide (v.rm = .rdn)), 0))) ∧
     (∀ p n r m1 m2 m3 e1 e2 e3, op = .fma → F.val x = .fin p m1 e1 → F.val y = .fin n m2 e2 → F.val z = .fin r m3 e3 → r ≠ (p != n) →
       m1 * m2 * 2 ^ (e1 + e2 - e3).toNat = m3 * 2 ^ (e3 - (e1 + e2)).toNat → fpCore op F v x y z = (F.zero (decide (v.rm = .rdn)), 0)))

/-- R10, R47, R50: what an operand field of each space reads, for a wave that is held at nothing. -/
def Obligations.OperandCodesReadTheirRegister : Prop :=
  ∀ (w : Wave) (c : Code) (t : Nat), w.hold = none → isVectorRead w c.toNat t (w.vr c t) ∧
    (c.toNat ≤ 94 → w.vr2 c t = w.cell (w.wbase + c.toNat + 1) t ++ w.cell (w.wbase + c.toNat) t) ∧
    (96 ≤ c.toNat → c.toNat ≤ 110 → w.vr2 c t = w.wr (c.toNat - 95) ++ w.wr (c.toNat - 96)) ∧
    (c.toNat = 112 → w.vr2 c t = 0 ∧ w.ws c = 0 ∧ w.ws2 c = 0) ∧
    (c.toNat ≤ 63 → w.ws c = w.wr c.toNat) ∧ (c.toNat ≤ 62 → w.ws2 c = w.wr (c.toNat + 1) ++ w.wr c.toNat) ∧
    (c.toNat = 114 → w.ws c = BitVec.ofNat 32 w.wid) ∧ (c.toNat = 115 → w.ws c = BitVec.ofNat 32 w.core) ∧
    (120 ≤ c.toNat → w.ws c = w.latch (c.toNat - 120) 0)

/-- R9, R67, R379: an instruction that names a row outside the allocation takes the illegal-state trap 0x01, and one whose rows are all inside
and that reads a row or a latch with an uncorrectable error takes the data-error fault with address zero. `wsr` checks its mode first (R67). -/
def Obligations.OperandsAreCheckedAtIssue : Prop :=
  ∀ (i : Instr) (s : State), i.wellFormed = true →
    ((∃ o ∈ i.operands, ∃ r ∈ o.rows, s.w.alloc ≤ s.w.wbase + r) → exec i s = .next (s.trap (.state 0x01))) ∧
    ((∀ o ∈ i.operands, ∀ r ∈ o.rows, s.w.wbase + r < s.w.alloc) → (∀ a n, i = .wsr a n → s.w.sup = true) →
      (∃ o ∈ i.operands, (∃ r ∈ o.srcRows, s.w.wbase + r ∈ s.w.badRows) ∨ ∃ k, latchOf o = some k ∧ k ∈ s.w.badQ) →
      exec i s = .next (s.trap (.xlat 0x06 0)))

/-- R159-R161, R163, R165: the cross-lane instructions with a wave destination; every operand is read for all 96 threads (R158), and only active
threads contribute to a gather.
In its second part: R166: `redadd.f32` with no thread active writes 0; otherwise it rounds once in the mode of the lowest active thread,
which alone receives the flags. -/
def Obligations.GathersWriteOneRegister : Prop :=
  (∀ (s : State) (d a b : Code) (nw : Bool),
     (s.issues (.vany d a nw) →
       s.writesReg d nw 4 (fun w => if (activeValues w a).any (· ≠ 0) then 1 else 0) (exec (.vany d a nw) s)) ∧
     (s.issues (.vall d a nw) →
       s.writesReg d nw 4 (fun w => if (activeValues w a).all (· ≠ 0) then 1 else 0) (exec (.vall d a nw) s)) ∧
     (s.issues (.mpop d a nw) →
       s.writesReg d nw 4 (fun w => BitVec.ofNat 32 ((List.range 96).filter (tripleBit w a)).length) (exec (.mpop d a nw) s)) ∧
     (s.issues (.mffs d a nw) →
       s.writesReg d nw 4 (fun w => BitVec.ofNat 32 (((List.range 96).takeWhile (fun t => !tripleBit w a t)).length)) (exec (.mffs d a nw) s)) ∧
     (s.issues (.bcast d a b nw) →
       s.writesReg d nw 4 (fun w => if (w.ws b).toNat ≤ 95 then w.vr a (w.ws b).toNat else 0) (exec (.bcast d a b nw) s)) ∧
     (s.issues (.redaddN32 d a nw) →
       s.writesReg d nw 4 (fun w => BitVec.ofNat 32 ((activeValues w a).map BitVec.toNat).sum) (exec (.redaddN32 d a nw) s)) ∧
     (s.issues (.redminS32 d a nw) →
       s.writesReg d nw 4 (fun w => BitVec.ofInt 32 (((activeValues w a).map BitVec.toInt).foldl min (2 ^ 31 - 1))) (exec (.redminS32 d a nw) s)) ∧
     (s.issues (.redmaxS32 d a nw) →
       s.writesReg d nw 4 (fun w => BitVec.ofInt 32 (((activeValues w a).map BitVec.toInt).foldl max (-2 ^ 31))) (exec (.redmaxS32 d a nw) s)) ∧
     (s.issues (.redandN32 d a nw) →
       s.writesReg d nw 4 (fun w => (activeValues w a).foldr (· &&& ·) 0xFFFFFFFF) (exec (.redandN32 d a nw) s)) ∧
     (s.issues (.redorN32 d a nw) →
       s.writesReg d nw 4 (fun w => (activeValues w a).foldr (· ||| ·) 0) (exec (.redorN32 d a nw) s)) ∧
     (s.issues (.ballot d a) →
       s.ends (exec (.ballot d a) s) (fun x => s.w.Retired x s.w.past ∧ (∀ b, b < 3 → isBallot s.w a b (x.wr (d.toNat + b)))
         ∧ (∀ m, ¬(d.toNat ≤ m ∧ m ≤ d.toNat + 2) → x.wr m = s.w.wr m) ∧ s.w.Shifted x (fun _ => x.wr d.toNat) ∧ s.w.OnlyRegs x))) ∧
  (∀ (s : State) (d a : Code) (nw : Bool), s.issues (.redaddF32 d a nw) →
     (s.w.actives = [] → s.writesReg d nw 4 (fun _ => 0) (exec (.redaddF32 d a nw) s)) ∧
     (∀ (t0 : Nat) (ts : List Nat), s.w.actives = t0 :: ts →
       let r := fpSumAll (s.w.env none t0) ((t0 :: ts).map (fun t => f32.readF ((s.w.fsrOf t).getLsbD 11) (s.w.vr a t).toNat))
       r.2 &&& s.w.enables t0 = 0 →
       s.ends (exec (.redaddF32 d a nw) s) (fun x => s.w.Retired x s.w.past ∧ s.w.RegSet x (!nw) d.toNat (BitVec.ofNat 32 r.1)
         ∧ s.w.Shifted x (fun _ => BitVec.ofNat 32 r.1) ∧ s.w.FlagsSet x (fun t => t == t0) (fun _ => r.2) ∧ s.w.OnlyRegsFlags x)))

/-- R162, R164: the cross-lane instructions with a vector destination: a shuffle gives thread t the old value of the thread its index names, or
its own where it names none; a scan gives it the sum over the active threads up to it, or below it. -/
def Obligations.ShufflesAndScansWriteARow : Prop :=
  ∀ (s : State) (d a b : Code) (nw : Bool),
    let from_ := fun (w : Wave) (t : Nat) (k : Int) => if 0 ≤ k ∧ k ≤ 95 then w.vr a k.toNat else w.vr a t
    (s.issues (.lsel d a b nw) → s.writesRow d nw 4 (fun w t => from_ w t (w.vr b t).toNat) (exec (.lsel d a b nw) s)) ∧
    (s.issues (.lbck d a b nw) → s.writesRow d nw 4 (fun w t => from_ w t ((t : Int) - (w.vr b t).toNat)) (exec (.lbck d a b nw) s)) ∧
    (s.issues (.lfwd d a b nw) → s.writesRow d nw 4 (fun w t => from_ w t ((t : Int) + (w.vr b t).toNat)) (exec (.lfwd d a b nw) s)) ∧
    (s.issues (.lmir d a b nw) → s.writesRow d nw 4 (fun w t => from_ w t ((t ^^^ (w.vr b t).toNat : Nat) : Int)) (exec (.lmir d a b nw) s)) ∧
    (s.issues (.scanN32 d a nw) → s.writesRow d nw 4
      (fun w t => BitVec.ofNat 32 ((w.actives.filter (fun k => decide (k ≤ t))).map (fun k => (w.vr a k).toNat)).sum) (exec (.scanN32 d a nw) s)) ∧
    (s.issues (.xscanN32 d a nw) → s.writesRow d nw 4
      (fun w t => BitVec.ofNat 32 ((w.actives.filter (fun k => decide (k < t))).map (fun k => (w.vr a k).toNat)).sum) (exec (.xscanN32 d a nw) s))

/-- R125, R18: the uniform branches. A target is PC + 4·SignExt(off24), modulo 2^49 (how PC wraps is the choice of log 28); `call` writes PC + 4
to w54.d and moves in the same retirement; no branch shifts the latches, and a branch that goes back leaves the mask and the token stack as
they are, so the path that spins goes on and no held path runs instead (R152).
In its second part: R123, R126: a register jump goes to the 64-bit value of its pair, `jalr` leaving PC + 4 in its destination after it has
read its source. A target with bits [63:49] set faults as not present and a target that is not a multiple of 4 as misaligned, with the
target as the fault address, and the jump does not retire. -/
def Obligations.BranchesAndJumpsMovePc : Prop :=
  (∀ (s : State) (off : BitVec 24),
     let target : BitVec 49 := BitVec.ofInt 49 (s.w.pc.toNat + 4 * off.toInt)
     s.moves target (exec (.br off) s) ∧
     s.moves (if s.w.wr 56 = 0 then target else s.w.past) (exec (.bz off) s) ∧
     s.moves (if s.w.wr 56 = 0 then s.w.past else target) (exec (.bnz off) s) ∧
     s.ends (exec (.call off) s) (fun x => s.w.Retired x target ∧ s.w.RegPairSet x 54 (s.w.past.setWidth 64) ∧ s.w.Unshifted x ∧ s.w.OnlyRegs x)) ∧
  (∀ (s : State) (d a : Code),
     let jumps := fun (t : BitVec 64) (P : Wave → Prop) (o : Out) =>
       (2 ^ 49 ≤ t.toNat → o = .next (s.trap (.xlat 0x01 t.toNat))) ∧
       (t.toNat < 2 ^ 49 → t.toNat % 4 ≠ 0 → o = .next (s.trap (.xlat 0x03 t.toNat))) ∧
       (t.toNat < 2 ^ 49 → t.toNat % 4 = 0 → s.ends o (fun x => s.w.Retired x (BitVec.ofNat 49 t.toNat) ∧ P x))
     jumps (s.w.wr 55 ++ s.w.wr 54) s.w.OnlyPc (exec .ret s) ∧
     jumps (s.w.ws2 a) s.w.OnlyPc (exec (.jr a) s) ∧
     jumps (s.w.ws2 a) (fun x => s.w.RegPairSet x d.toNat (s.w.past.setWidth 64) ∧ s.w.Unshifted x ∧ s.w.OnlyRegs x) (exec (.jalr d a) s))

/-- R124, R127, R138, R149, R190, R215, R399: `exit` retires in user mode and ends the wave, discarding its token stack, its frame and its
grant. Its registers and latches stay, in a deterministic grid too (the model's choice between R124, R398, R399, R423 and R154, R156: log
57); its outstanding work stays, no memory changes, a pending wave may enter the vacancy of the active set and no other wave changes, and
the crew ends with its last wave. In supervisor mode it is illegal state. -/
def Obligations.ExitEndsTheWave : Prop :=
  ∀ (s : State),
    (s.w.sup = true → exec .exit s = .next (s.trap (.state 0x03))) ∧
    (s.w.sup = false → ∃ t, exec .exit s = .next t ∧
      ((t.wv s.cur).exited = true ∧ (t.wv s.cur).active = false ∧ (t.wv s.cur).tokens = [] ∧ (t.wv s.cur).spilled = 0 ∧ (t.wv s.cur).lvCls = 0
        ∧ (t.wv s.cur).lvGnt = false ∧ (t.wv s.cur).frame = none ∧ (t.wv s.cur).search = none
        ∧ (t.wv s.cur).q = s.w.q ∧ (t.wv s.cur).v = s.w.v ∧ (t.wv s.cur).w = s.w.w
        ∧ (t.wv s.cur).count = s.w.count + 1 ∧ (t.wv s.cur).inflight = s.w.inflight
        ∧ (t.wv s.cur).buf = s.w.buf ∧ (t.wv s.cur).st = s.w.st ∧ (t.wv s.cur).ec = s.w.ec) ∧
      (∀ id, id ≠ s.cur → t.wv id = s.wv id ∨ ((s.wv id).active = false ∧ (s.wv id).exited = false
        ∧ ∃ n, t.wv id = { s.wv id with active := true, waitFrom := n })) ∧
      t.hbm = s.hbm ∧ t.sysMem = s.sysMem ∧ t.llc = s.llc ∧ t.arrivals = s.arrivals ∧
      ((∃ p ∈ s.waves.eraseP (fun p => p.1 = s.cur), p.2.exited = false ∧ p.1.g = s.cur.g ∧ s.crewId p.1 = s.ci) → t.crewOf s.ci = s.cr) ∧
      ((∀ p ∈ s.waves.eraseP (fun p => p.1 = s.cur), p.2.exited = false → p.1.g = s.cur.g → s.crewId p.1 ≠ s.ci) →
        (t.crewOf s.ci).ended = true ∧ (t.crewOf s.ci).bound = false ∧ (t.crewOf s.ci).ls = s.cr.ls))

/-- R22, R134, R135, R369: taking a precise trap. In user mode the wave enters its handler; with no handler installed its grid is terminated,
the completion record carrying STATUS 0x0001, the cause and the trap PC; in supervisor mode the grid is terminated with CLASS 0x0A and the
class of the second trap as SUB.
In its second part: R134, R135, R20: `svc` retires, counts and enters the handler with PC + 4; `trap` does not retire and enters with its
own PC; each writes its number to CODE. In supervisor mode both are illegal state, and so end the grid. A word that is no instruction takes
CLASS 0x01 (R66). -/
def Obligations.TrapsEnterTheHandlerOrEndTheGrid : Prop :=
  (∀ (s : State) (t : Trap), t.cls < 256 → t.sub < 256 → t.code < 128 →
     let cause := t.cls * 2 ^ 24 + t.sub * 2 ^ 16 + t.code
     let at_ := t.epc.getD s.w.pc
     (s.w.sup = false → s.w.tvecl.toNat + s.w.tvech.toNat % 2 ^ 17 * 2 ^ 32 ≠ 0 →
       s.ends (.next (s.trap t)) (fun x => s.w.Entered x cause at_ ∧ x.count = s.w.count
         ∧ (∀ a, t.tval = some a → x.FaultAddr a) ∧ (t.tval = none → x.tvall = s.w.tvall ∧ x.tvalh = s.w.tvalh)
         ∧ (t.fp = none → x.tmask0 = s.w.tmask0 ∧ x.tmask1 = s.w.tmask1 ∧ x.tmask2 = s.w.tmask2 ∧ x.tlane = s.w.tlane))) ∧
     (s.g.ending = false → s.g.ended = false → s.w.sup = false → s.w.tvecl.toNat + s.w.tvech.toNat % 2 ^ 17 * 2 ^ 32 = 0 →
       s.Terminated (s.trap t) s.cur.g cause at_.toNat s.cur.w) ∧
     (s.g.ending = false → s.g.ended = false → s.w.sup = true →
       s.Terminated (s.trap t) s.cur.g (0x0A * 2 ^ 24 + t.cls * 2 ^ 16) at_.toNat s.cur.w)) ∧
  (∀ (s : State) (n : BitVec 7), s.w.tvecl.toNat + s.w.tvech.toNat % 2 ^ 17 * 2 ^ 32 ≠ 0 →
     (s.w.sup = false →
       s.ends (exec (.svc n) s) (fun x => s.w.Entered x (0x08000000 + n.toNat) s.w.past ∧ x.count = s.w.count + 1
         ∧ x.tvall = s.w.tvall ∧ x.tvalh = s.w.tvalh) ∧
       s.ends (exec (.trap n) s) (fun x => s.w.Entered x (0x09000000 + n.toNat) s.w.pc ∧ x.count = s.w.count
         ∧ x.tvall = s.w.tvall ∧ x.tvalh = s.w.tvalh) ∧
       s.ends (exec .illegalInstruction s) (fun x => s.w.Entered x 0x01000000 s.w.pc ∧ x.count = s.w.count)) ∧
     (s.w.sup = true → s.g.ending = false → s.g.ended = false → ∃ t1 t2 t3,
       exec (.svc n) s = .next t1 ∧ s.Terminated t1 s.cur.g 0x0A020000 s.w.pc.toNat s.cur.w ∧
       exec (.trap n) s = .next t2 ∧ s.Terminated t2 s.cur.g 0x0A020000 s.w.pc.toNat s.cur.w ∧
       exec .illegalInstruction s = .next t3 ∧ s.Terminated t3 s.cur.g 0x0A010000 s.w.pc.toNat s.cur.w))

/-- R134, R135, R149: `eret` restores the saved latches, clears SUP and goes to the trap PC, and changes nothing else; in user mode it is
illegal state 0x02; with another token depth than at entry it ends the grid. It is not counted (R20).
In its second part: R137, R138: `win` moves the window, or traps with illegal state 0x04 and leaves it; `leave` replaces the wave's request
at its sector's steward and waits for nothing: it is granted at once where a wave of the core, itself included, holds the class (R427), and
class 0 only gives the grant back. That the engine's own requests for its commands (class + 8) stay, and that a class the engine holds
counts as held, is the model's choice (log 12). -/
def Obligations.EretWindowAndLeave : Prop :=
  (∀ (s : State),
     (s.w.sup = false → exec .eret s = .next (s.trap (.state 0x02))) ∧
     (s.w.sup = true → s.w.tokens.length + s.w.spilled = s.w.entryDepth →
       s.ends (exec .eret s) (fun x => x = { s.w with q := s.w.qSaved, badQ := s.w.badQSaved, sup := false, pc := (s.w.epch ++ s.w.epcl).setWidth 49 })) ∧
     (s.w.sup = true → s.w.tokens.length + s.w.spilled ≠ s.w.entryDepth → s.g.ending = false → s.g.ended = false →
       ∃ t, exec .eret s = .next t ∧ s.Terminated t s.cur.g 0x0A020000 s.w.pc.toNat s.cur.w)) ∧
  (∀ (s : State) (b : BitVec 6) (n : BitVec 7),
     let now := n ≠ 0 && s.coreHolds s.w.core n.toNat
     (s.w.alloc ≤ 8 * b.toNat → exec (.win (b.setWidth 7)) s = .next (s.trap (.state 0x04))) ∧
     (8 * b.toNat < s.w.alloc → s.ends (exec (.win (b.setWidth 7)) s) (fun x => s.w.Retired x s.w.past ∧ x.wbase = 8 * b.toNat
       ∧ ({ x with wbase := 0 } : Wave).sansPc = ({ s.w with wbase := 0 } : Wave).sansPc)) ∧
     (n.toNat ≤ 5 → ∃ t x, exec (.leave n) s = .next t ∧ t.w = x ∧ s.w.Retired x s.w.past ∧ x.lvCls = n.toNat ∧ x.lvGnt = now
       ∧ ({ x with lvCls := 0, lvGnt := false } : Wave).sansPc = ({ s.w with lvCls := 0, lvGnt := false } : Wave).sansPc
       ∧ (∀ id, id ≠ s.cur → t.wv id = s.wv id)
       ∧ (((aget t.sectors (s.w.core / 32)).getD {}).reqs = (((aget s.sectors (s.w.core / 32)).getD {}).reqs.filter (fun p => p.1 ≠ s.cur || decide (8 ≤ p.2)))
           ++ (if n = 0 ∨ now = true then [] else [(s.cur, n.toNat)]))))

/-- R143, R168, R146, R147: `split` pushes a RECONV token of its target and the current mask; `bl` splits the active threads by the bits of
w57-w59, pushing a PATH token only when both parts have threads, and the threads that fall through go first. That a target, in the token and
in the jump, is taken modulo 2^49 is the model's choice (log 28). -/
def Obligations.SplitsPushTokens : Prop :=
  ∀ (s : State) (off : BitVec 24),
    let target : BitVec 49 := BitVec.ofInt 49 (s.w.pc.toNat + 4 * off.toInt)
    let here := fun b => s.w.wr (61 + b)
    let taken := fun b => here b &&& s.w.wr (57 + b)
    let falls := fun b => here b &&& ~~~ s.w.wr (57 + b)
    s.pushes ⟨0, target.toNat, here 0, here 1, here 2⟩ (fun x => s.w.Retired x s.w.past ∧ x.w = s.w.w ∧ s.w.Unshifted x) (exec (.split off) s) ∧
    ((∀ b, b < 3 → taken b = 0) → s.moves s.w.past (exec (.bl off) s)) ∧
    ((∃ b, b < 3 ∧ taken b ≠ 0) → (∀ b, b < 3 → falls b = 0) → s.moves target (exec (.bl off) s)) ∧
    ((∃ b, b < 3 ∧ taken b ≠ 0) → (∃ b, b < 3 ∧ falls b ≠ 0) →
      s.pushes ⟨1, target.toNat, taken 0, taken 1, taken 2⟩ (fun x => s.w.Retired x s.w.past ∧ x.Masked falls
        ∧ (∀ n, n < 61 ∨ 63 < n → x.wr n = s.w.wr n) ∧ s.w.Unshifted x) (exec (.bl off) s))

/-- R144: `join` by the token on top. A zero mask pops again at once, and then a RECONV token continues behind its ADDR whatever the PC. -/
def Obligations.JoinPopsByTheTopToken : Prop :=
  ∀ (s : State) (t u : Token) (ts : List Token),
    (s.w.tokens = [] → s.w.spilled = 0 → exec .join s = .next (s.trap (.state 0x11))) ∧
    (s.w.tokens = t :: ts → t.kind = 1 → t.live → s.popsTo t.mask ts t.addr (exec .join s)) ∧
    (s.w.tokens = t :: ts → t.kind = 0 → t.addr = s.w.pc.toNat → t.live → s.popsTo t.mask ts (t.addr + 4) (exec .join s)) ∧
    (s.w.tokens = t :: ts → t.kind = 0 → t.addr ≠ s.w.pc.toNat → exec .join s = .next (s.trap (.state 0x12))) ∧
    (s.w.tokens = t :: ts → t.kind = 2 → exec .join s = .next (s.trap (.state 0x13))) ∧
    (s.w.tokens = t :: u :: ts → t.kind = 1 → ¬ t.live → u.live → u.kind = 0 → s.popsTo u.mask ts (u.addr + 4) (exec .join s)) ∧
    (s.w.tokens = t :: u :: ts → t.kind = 1 → ¬ t.live → u.live → u.kind = 1 → s.popsTo u.mask ts u.addr (exec .join s)) ∧
    (s.w.tokens = [t] → s.w.spilled = 0 → t.kind = 1 → ¬ t.live → exec .join s = .next (s.trap (.state 0x11)))

/-- R145, R216: `brk` clears its threads from the mask and from every token above the innermost RECONV token of its target, which keeps them.
With no such token, or with one only beneath an FCALL token, it is illegal state 0x14. When no thread is left in the mask and in those
tokens, they all go on behind the target. That the target compared with a token's ADDR is taken modulo 2^49 is the model's choice (log 28). -/
def Obligations.BrkLeavesTheLoop : Prop :=
  ∀ (s : State) (off : BitVec 24) (above below : List Token) (loop : Token),
    let target := (BitVec.ofInt 49 (s.w.pc.toNat + 4 * off.toInt) : BitVec 49).toNat
    let b := fun k => s.w.wr (61 + k) &&& s.w.wr (57 + k)
    let cut := fun (t : Token) => (⟨t.kind, t.addr, t.m0 &&& ~~~ b 0, t.m1 &&& ~~~ b 1, t.m2 &&& ~~~ b 2⟩ : Token)
    let none_ := ∀ t ∈ above, ¬(t.kind = 0 ∧ t.addr = target)
    (s.w.spilled = 0 → s.w.tokens = above → none_ → exec (.brk off) s = .next (s.trap (.state 0x14))) ∧
    (∀ call, s.w.tokens = above ++ call :: below → call.kind = 2 → none_ → exec (.brk off) s = .next (s.trap (.state 0x14))) ∧
    (s.w.tokens = above ++ loop :: below → loop.kind = 0 → loop.addr = target → none_ → (∀ t ∈ above, t.kind ≠ 2) →
      ((∃ k, k < 3 ∧ s.w.wr (61 + k) &&& ~~~ b k ≠ 0) →
        s.ends (exec (.brk off) s) (fun x => s.w.Retired x s.w.past ∧ x.Masked (fun k => s.w.wr (61 + k) &&& ~~~ b k)
          ∧ x.tokens = above.map cut ++ loop :: below ∧ (∀ n, n < 61 ∨ 63 < n → x.wr n = s.w.wr n) ∧ s.w.Unshifted x
          ∧ ({ x with tokens := [] } : Wave).sansRegs = ({ s.w with tokens := [] } : Wave).sansRegs)) ∧
      ((∀ k, k < 3 → s.w.wr (61 + k) &&& ~~~ b k = 0) → (∃ k, k < 3 ∧ s.w.wr (61 + k) ≠ 0) → loop.live →
        (∀ t ∈ above, ¬ (cut t).live) → s.popsTo loop.mask below (target + 4) (exec (.brk off) s)))

/-- R130-R132, R136, R138: the reads of system state. `rsr` and `clk` enter the latches as wave instructions do; `vrsr` reads `fsr` per thread;
`clk` returns the count before its own retirement.
In its second part: R67, R129, R130, R133: `wsr` writes the writable bits of its register in supervisor mode, every other bit of the
register reading zero, and changes no other register; in user mode it is illegal state 0x02. `vwsr` writes `fsr` of the active threads. -/
def Obligations.SystemRegistersAreReadAndWritten : Prop :=
  (∀ (s : State) (d n : Code) (nw : Bool),
     (s.issues (.rsr d n nw) → s.writesReg d nw 4 (fun w => sysValue w n.toNat) (exec (.rsr d n nw) s)) ∧
     (s.issues (.vrsr d n nw) → s.writesRow d nw 4 (fun w t => w.fsrOf t) (exec (.vrsr d n nw) s)) ∧
     (s.issues (.clk d nw) → s.writesRegPair d (fun w => w.count) (exec (.clk d nw) s))) ∧
  (∀ (s : State) (a n : Code),
     ((Instr.wsr a n).wellFormed = true → s.w.sup = false → exec (.wsr a n) s = .next (s.trap (.state 0x02))) ∧
     (s.issues (.wsr a n) → s.w.sup = true → s.ends (exec (.wsr a n) s) (fun x => s.w.Retired x s.w.past
       ∧ (∀ k, k ≤ 0x23 → sysValue x k = if k = n.toNat then s.w.ws a &&& sysMask n.toNat else sysValue s.w k) ∧ x.sansSys = s.w.sansSys)) ∧
     (s.issues (.vwsr a n) → s.ends (exec (.vwsr a n) s) (fun x => s.w.Retired x s.w.past
       ∧ (∀ t, t < threads → x.fsrOf t = if s.w.act t then 0#18 ++ (s.w.vr a t).extractLsb' 0 14 else s.w.fsrOf t)
       ∧ ({ x with fsr := [] } : Wave).sansPc = ({ s.w with fsr := [] } : Wave).sansPc)))

/-- R241-R246, R250, R170: a load, store or atomic whose checks pass goes in flight, with the address and the operands of every active thread,
and retires. A vector form with no active thread accesses nothing. A release first writes the core's dirty bytes down to its level: those of
every wave of the core, which is the model's choice (log 9); an access that stands behind one held by a fault is held too (R376).
In its second part: R242: every active thread is checked before any access is performed; the lowest thread whose check fails is the one
reported, and nothing is performed. -/
def Obligations.AccessesIssueOrTrapWhole : Prop :=
  (∀ (i : Instr) (s : State) (m : MemOp) (ps : List Place), accessForm i = some m → s.issues i → s.w.quant = 0 → s.w.mayCount m →
     s.places s.cur m.kind m.sc m.size (s.w.requests m) = .ok ps →
     (m.isRelease = false → s.w.requests m ≠ [] → s.ends (exec i s) (fun x => s.w.Posted x m (atPlaces (s.w.requests m) ps) s.nextUid)) ∧
     (m.sc = 0 ∨ m.sc = 6 → s.w.requests m = [] → s.moves s.w.past (exec i s)) ∧
     (∀ t, m.isRelease = true → s.w.quiet = true → s.writeDown s.cur s.w.core (scopeLevel (BitVec.ofNat 3 m.sc)) = (t, none) →
       (m.sc = 5 → t.unacked = false) →
       s.w.requests m ≠ [] → t.w = s.w → ∃ x, exec i s = .next (t.setW x) ∧ s.w.Posted x m (atPlaces (s.w.requests m) ps) t.nextUid)) ∧
  (∀ (i : Instr) (s : State) (m : MemOp) (pre post : List Acc1) (a : Acc1) (tr : Trap), accessForm i = some m → s.issues i → s.w.quant = 0 →
     s.w.mayCount m → s.w.inflight = [] → s.w.requests m = pre ++ a :: post →
     (∀ b ∈ pre, ∃ p, s.place s.cur m.kind m.sc b.addr m.size = .ok p) → s.place s.cur m.kind m.sc a.addr m.size = .error tr →
     exec i s = .next (s.trap tr))

/-- R235, R236, R241, R259, R260: the checks of one access of `size` bytes at address or local offset `a`, in their order. Two points are the
model's choices: a store or an atomic on a mapped page with R = 0 is not-present, as R259's table has it, whatever its W (log 62), and a
fault reports the first byte of the access (log 37). -/
def Obligations.AccessesAreCheckedInOrder : Prop :=
  ∀ (s : State) (id : WaveId) (k : MemKind) (sc a size : Nat),
    let w := s.wv id
    let c := s.crewOf (s.crewId id)
    let top := c.lsLen + c.waves * c.tokLen
    let writes := ∀ g, k ≠ .load g
    let at_ := s.place id k sc a size
    (sc = 6 → a % size ≠ 0 → at_ = .error (.xlat 0x03 a)) ∧
    (sc = 6 → a % size = 0 → top < a + size → at_ = .error (.xlat 0x04 a)) ∧
    (sc = 6 → a % size = 0 → writes → c.lsLen < a + size → at_ = .error (.xlat 0x04 a)) ∧
    (sc = 6 → a % size = 0 → a + size ≤ top → (writes → a + size ≤ c.lsLen) → at_ = .ok (.ls (s.crewId id) a)) ∧
    (sc ≠ 6 → 2 ^ 49 ≤ a → at_ = .error (.xlat 0x01 a)) ∧
    (sc ≠ 6 → a < 2 ^ 49 → a % size ≠ 0 → at_ = .error (.xlat 0x03 a)) ∧
    (sc ≠ 6 → 0x1FFFFFFF00000 ≤ a → a < 2 ^ 49 → a % size = 0 →
      let n := (a - 0x1FFFFFFF00000) / 2 ^ 18
      let off := a % 2 ^ 18
      let crews := (s.gridOf id.g).crews
      let d : CrewId := ⟨id.g, (s.crewId id).n - (s.crewId id).n % crews + n⟩
      (crews ≤ n → at_ = .error (.xlat 0x05 a)) ∧
      (n < crews → (aget s.crews d).isSome = true → (s.crewOf d).ended = false → off + size ≤ (s.crewOf d).lsLen → at_ = .ok (.ls d off)) ∧
      (n < crews → (aget s.crews d).isNone = true ∨ (s.crewOf d).ended = true ∨ (s.crewOf d).lsLen < off + size → at_ = .error (.xlat 0x05 a))) ∧
    (sc ≠ 6 → a < 0x1FFFFFFF00000 → a % size = 0 →
      (∀ l, s.lookup w.core (s.ctxN id.g) a = .ok l → s.leafLive l = .ok l →
        (l.r = false → at_ = .error (.xlat 0x01 a)) ∧
        (writes → l.r = true → l.w = false → at_ = .error (.xlat 0x02 a)) ∧
        (l.r = true → (writes → l.w = true) →
          (aget s.frames (l.pa / 128) = none → at_ = .ok (.mem l.pa l.key (s.ctxN id.g) a)) ∧
          (∀ f, aget s.frames (l.pa / 128) = some f →
            (k = .store ∨ k = .stc → at_ = .error (.acc 0x01 a)) ∧
            (¬ writes → at_ = if w.quant = 0 then .ok (.mem l.pa l.key (s.ctxN id.g) a) else .error (.acc 0x02 a)) ∧
            (∀ op, k = .atomic op → 4 ≤ op ∨ (op < 2 ∧ f.tgt < 2) → at_ = .error (.acc 0x01 a)) ∧
            (∀ op, k = .atomic op → op < 4 → (op < 2 → 2 ≤ f.tgt) → l.ap = true → at_ = .ok (.mem l.pa l.key (s.ctxN id.g) a))))) ∧
      (∀ e, s.lookup w.core (s.ctxN id.g) a = .error e → at_ = .error (.xlat e a)))

/-- R248, R249, R21: `stc` at scope `wv`. With w60 above the number of active threads it is illegal state 0x40; otherwise its elements from w60
on are stored at base + E·j up to the first whose check fails, whose number w60 then holds, and w60 is zero when none fails. -/
def Obligations.CompressStoresKeepTheirPlace : Prop :=
  ∀ (s : State) (d : Code) (a : BitVec 6) (wide : Bool),
    let i : Instr := if wide then .stcN64 d a 0 else .stcN32 d a 0
    let size := if wide then 8 else 4
    let m : MemOp := ⟨.store, size, false, d.toNat, 2 * a.toNat, 0, 0⟩
    let n := s.w.actives.length
    let first := (s.w.wr 60).toNat
    let element := fun (j : Nat) => ((s.w.wr2 (2 * a.toNat - 96)).toNat + size * j) % 2 ^ 64
    let access := fun (j : Nat) => (⟨s.w.actives.getD j 0, element j, s.w.valueOf m d.toNat (s.w.actives.getD j 0), 0, none,
      (match s.place s.cur .store 0 (element j) size with | .ok p => some p | .error _ => none), false⟩ : Acc1)
    let passes := fun (j : Nat) => ∃ p, s.place s.cur .store 0 (element j) size = .ok p
    let stores := fun (k : Nat) (x : Wave) =>
      x.inflight = (if k = 0 then [] else [⟨.store, size, false, 0, .none, tab k (fun j => access (first + j)), s.w.sup, s.nextUid⟩])
        ∧ x.st = s.w.st + (if k = 0 then 0 else 1)
    s.issues i → s.w.quant = 0 → s.w.st < 63 → 48 ≤ a.toNat →
    (n < first → exec i s = .next (s.trap (.state 0x40))) ∧
    (first ≤ n → (∀ j, first ≤ j → j < n → passes j) → s.ends (exec i s) (fun x => s.w.Retired x s.w.past ∧ stores (n - first) x
      ∧ (∀ r, x.wr r = if r = 60 then 0 else s.w.wr r) ∧ s.w.Unshifted x ∧ x.v = s.w.v)) ∧
    (∀ j tr, first ≤ j → j < n → (∀ k, first ≤ k → k < j → passes k) → s.place s.cur .store 0 (element j) size = .error tr → tr.cls = 0x06 →
      (∀ k, first ≤ k → k < n → ∀ e, s.place s.cur .store 0 (element k) size = .error e → e.cls = 0x06) → s.w.sup = false → s.w.tvec ≠ 0 →
      s.ends (exec i s) (fun x => x.pc = s.w.tvec ∧ x.sup = true ∧ x.count = s.w.count ∧ stores (j - first) x
        ∧ (∀ r, x.wr r = if r = 60 then BitVec.ofNat 32 j else s.w.wr r))) ∧
    (∀ j adr, first ≤ j → j < n → (∀ k, first ≤ k → k < j → ∀ e, s.place s.cur .store 0 (element k) size = .error e → e.cls ≠ 0x05) →
      s.place s.cur .store 0 (element j) size = .error (.acc 0x01 adr) → exec i s = .next (s.trap (.acc 0x01 adr)))

/-- R245, R70: when a load's data return, every destination takes the bytes at its address, extended as its size says, and the load is no longer
counted. What it reads is each place's value at that instant, or what a deterministic grid's load captured at issue (R197). -/
def Obligations.LoadsDeliverWhatTheyRead : Prop :=
  ∀ (s : State) (id : WaveId) (f : Flight) (ps : List Place) (sgn : Bool), s.canPerform id f ps → f.kind = .load sgn →
    (f.sc = 0 ∨ f.sc = 6) → f.size ∈ [1, 2, 4, 8] →
    let w := s.wv id
    ((∀ p ∈ f.accs.zip ps, p.1.got ≠ none ∨ ∃ c o, p.2 = .ls c o ∧ (s.crewOf c).away = false) → ∃ x, exec (.loadDataReturn id.g id.w 0) s = .next (s.setWv id x) ∧
      w.Performed x f ∧ w.Took x f.dst f.size ((f.accs.zip ps).map (fun p => (p.1.t, extended f.kind f.size (match p.1.got with
        | some v => v
        | none => s.readPlace w.core 0 p.2 f.size))))) ∧
    (∀ a pa key ctx va c, f.sc = 0 → f.accs = [a] → a.got = none → ps = [.mem pa key ctx va] → aget s.frames (pa / 128) = none →
      s.l1Line w.core (pa / 128) = some c → c.key = key → s.l2Line w.core (pa / 128) = none → s.scLine w.core (pa / 128) = none →
      (∀ i, i < f.size → c.bytes.getD (pa % 128 + i) .absent ≠ .absent) →
      ∃ x, exec (.loadDataReturn id.g id.w 0) s = .next (s.setWv id x) ∧ w.Performed x f ∧ w.Took x f.dst f.size
        [(a.t, extended f.kind f.size (leNat (tab f.size (fun i =>
          match c.bytes.getD (pa % 128 + i) .absent with | .dirty b | .clean b => b | .absent => 0))))]) ∧
    (∀ a pa key ctx va, f.sc = 0 → f.accs = [a] → a.got = none → ps = [.mem pa key ctx va] → aget s.frames (pa / 128) = none →
      pa < deviceEnd → pa % 128 + f.size ≤ 128 → (s.coreOf w.core).l1 = [] → s.l2 = [] → s.sc = [] → aget s.remoteX (pa / 128) = none →
      (∀ h, h < 2 → aget s.hostHalf (2 * (pa / 128) + h) = none) → s.llcKey.length < sliceLines → (∀ k, aget s.llcKey (pa / 128) = some k → k = key) →
      ∃ t, exec (.loadDataReturn id.g id.w 0) s = .next t ∧ w.Performed (t.wv id) f ∧ w.Took (t.wv id) f.dst f.size
          [(a.t, extended f.kind f.size (leNat (tab f.size (fun i => s.homeByte (pa / 128) key (pa % 128 + i)))))] ∧
        t.hbm = s.hbm ∧ t.sysMem = s.sysMem ∧ t.llc = s.llc ∧ t.crews = s.crews ∧ ∀ j, j ≠ id → t.wv j = s.wv j)

/-- R246, R247: a store to local store writes its bytes in thread order, the highest thread's value staying; a plain store of one thread writes
its bytes in the core's L1, where a load of the core reads them, and nothing leaves the core. -/
def Obligations.StoresWriteTheirBytes : Prop :=
  ∀ (s : State) (id : WaveId) (f : Flight) (ps : List Place), s.canPerform id f ps → f.kind = .store →
    (f.sc = 6 → ∀ c, (s.crewOf c).bound = true → (∀ p ∈ ps, ∃ o, p = .ls c o) → ∃ t, exec (.storePerformed id.g id.w 0) s = .next t ∧
      (s.wv id).Performed (t.wv id) f ∧ (t.wv id).v = (s.wv id).v ∧ (t.wv id).w = (s.wv id).w ∧ t.hbm = s.hbm ∧ t.sysMem = s.sysMem ∧
      (t.crewOf c).ls = (f.accs.zip ps).foldl (fun m p => match p.2 with | .ls _ o => m.write o (leBytes f.size p.1.data) | _ => m) (s.crewOf c).ls ∧
      (∀ d, d ≠ c → t.crewOf d = s.crewOf d) ∧ ∀ j, j ≠ id → t.wv j = s.wv j) ∧
    (f.sc = 0 → ∀ a pa key ctx va, f.accs = [a] → ps = [.mem pa key ctx va] → f.size ≤ 8 → pa % 128 + f.size ≤ 128 → a.data < 256 ^ f.size →
      (s.coreOf (s.wv id).core).l1.length < l1Lines → aget s.frames (pa / 128) = none → s.l1Line (s.wv id).core (pa / 128) = none → s.l2Line (s.wv id).core (pa / 128) = none →
      s.scLine (s.wv id).core (pa / 128) = none →
      ∃ t, exec (.storePerformed id.g id.w 0) s = .next t ∧ (s.wv id).Performed (t.wv id) f ∧
        (t.wv id).v = (s.wv id).v ∧ (t.wv id).w = (s.wv id).w ∧
        t.readPlace (s.wv id).core 0 (.mem pa key ctx va) f.size = a.data ∧
        t.hbm = s.hbm ∧ t.sysMem = s.sysMem ∧ t.llc = s.llc ∧ t.l2 = s.l2 ∧ t.crews = s.crews)

/-- R251, R252: an atomic of one thread on local store writes the new value of its row and returns the old one; the floating-point adds round
the exact sum once in `rne`, whatever `fsr` holds. -/
def Obligations.AtomicsReturnTheOldValue : Prop :=
  ∀ (s : State) (id : WaveId) (f : Flight) (c : CrewId) (o op : Nat) (a : Acc1), s.canPerform id f [.ls c o] → f.kind = .atomic op →
    f.accs = [a] → f.sc = 6 → op < 15 → f.size = (if op ∈ [1, 3, 12, 14] then 8 else 4) → (s.crewOf c).bound = true →
    a.data < 256 ^ f.size →
    let old := leNat ((s.crewOf c).ls.read o f.size)
    ∃ t, exec (.atomicPerformed id.g id.w 0) s = .next t ∧ (s.wv id).Performed (t.wv id) f ∧ (s.wv id).Took (t.wv id) f.dst f.size [(a.t, old)] ∧
      (t.crewOf c).ls = (s.crewOf c).ls.write o (leBytes f.size (atomicResult op old a.data a.cmp)) ∧ t.hbm = s.hbm ∧ t.sysMem = s.sysMem

/-- R228, R233, R254, R255: bytes written at a line's home are read back there, and a `mem` fence retires only with the bytes that the wave's
core holds dirty written to its L2 (`gg`), its sector (`sp`), the home slice (`dv`) or beyond, to host memory (`sy`), and its L1, and for
`sp` and wider its L2, empty of stale lines: those of every wave of the core, the model's choice (log 9). A line of the wave whose page may
not be written is a deferred fault of ORIGIN 5 at the fence (R256). A fence of the other classes changes nothing, but that an `eng` fence at
`sy` sends what the slices hold of the system range out, and retires once the wave's engine commands, arrivals and function-store operations
are done. A crew's image is written and read under its context's table key (the model's choice, log 30). -/
def Obligations.FencesReleaseAndAcquire : Prop :=
  (∀ (s : State) (ln key : Nat) (ws : List (Nat × Byte)), (∀ p ∈ ws, p.1 < 128) →
    (s.imageAt ln = none ∨ (isSysLine ln = false ∧ ∃ c o, s.imageAt ln = some (c, o) ∧ key = (s.ctxOf (s.ctxN c.g)).tkey
      ∧ (s.crewOf c).ls.wf = true)) → ∀ i b, lastByte ws i = some b →
    (s.homeWrite ln key ws).homeByte ln key i = b) ∧
  (∀ (s : State) (cls : BitVec 4) (sc : BitVec 3), s.issues (.fence cls sc) → s.w.quant = 0 → s.atRest →
    (cls.getLsbD 0 = false → cls.getLsbD 1 = false ∨ sc ≠ 5 → s.moves s.w.past (exec (.fence cls sc) s)) ∧
    (cls.getLsbD 0 = false → cls.getLsbD 1 = true → sc = 5 → s.sysOut.unacked = false → ∃ t, exec (.fence cls sc) s = .next t ∧
      s.w.Retired t.w s.w.past ∧ s.w.OnlyPc t.w ∧ t.hbm = s.hbm ∧ ∀ p ∈ t.llcKey, isSysLine p.1 = false) ∧
    (cls.getLsbD 0 = true → scopeLevel sc = 0 → (s.writeDown s.cur s.w.core 0) = (s, none) → s.moves s.w.past (exec (.fence cls sc) s)) ∧
    (∀ t k va, cls.getLsbD 0 = true → scopeLevel sc ≠ 4 → s.writeDown s.cur s.w.core (scopeLevel sc) = (t, some (k, va)) →
      exec (.fence cls sc) s = .next (t.trap { cls := 0x07, sub := 5 * 32 + k, tval := some va })) ∧
    (cls.getLsbD 0 = true → ∀ k ln c, s.cores = [(s.w.core, k)] → k.l1 = [(ln, c)] → s.l2 = [] → s.sc = [] → c.amo = false →
      s.lineFault s.w.core c = none → s.walked s.w.core c.ctx c.va = s → s.imageAt ln = none →
      let leaves := fun (p : State → Nat → Byte → Prop) (q : State → Prop) => ∃ t, exec (.fence cls sc) s = .next t ∧ s.w.Retired t.w s.w.past ∧ s.w.OnlyPc t.w ∧
        (t.coreOf s.w.core).l1 = [] ∧ q t ∧ ∀ i b, i < 128 → c.bytes.getD i .absent = .dirty b → p t i b
      (sc = 2 → leaves (fun t i b => ∃ x, t.l2Line s.w.core ln = some x ∧ x.key = c.key ∧ x.bytes.getD i .absent = .dirty b) (fun t => t.sc = [] ∧ t.llc = s.llc)) ∧
      (sc = 3 → leaves (fun t i b => t.seeSC s.w.core ln c.key i = b) (fun t => t.l2 = [])) ∧
      (sc = 4 → leaves (fun t i b => t.homeByte ln c.key i = b) (fun t => t.l2 = [])) ∧
      (sc = 5 → (s.writeDown s.cur s.w.core 4).1.unacked = false → (cls.getLsbD 1 = true → s.sysOut.unacked = false) →
        (isSysLine ln = true → windowOf (ln * 128) = none ∧ s.sysMem.wf = true ∧ (s.llc.map (·.1)).Nodup) →
        leaves (fun t i b => t.homeByte ln c.key i = b) (fun t => t.l2 = [] ∧ ∀ p ∈ t.llcKey, isSysLine p.1 = false))))

/-- R257-R259: the cache operations of one thread's line that no frame opens. `cwb.dv` leaves its dirty bytes at home and a clean copy;
`cinv.dv` leaves them at home and no copy; `cinvd.cr` drops the copy, home and HBM staying as they were. With ST at 63 outside a
deterministic grid each waits (R170). `pref` never faults and changes no register.
In its second part: R231, R386-R388, R391: an eviction writes a line's dirty bytes to the level below and drops it; a page walk reads the
entries of the four levels at their home slices with the table key and leaves the core holding the translation that they give, which a
lookup then answers. -/
def Obligations.CacheLinesMoveBetweenLevels : Prop :=
  (∀ (s : State) (a : BitVec 6) (b : Code) (t0 : Nat) (l : Leaf) (c : CLine),
     let va := ((s.w.vr2 (BitVec.ofNat 7 (2 * a.toNat)) t0).toNat + (s.w.vr b t0).toInt % 2 ^ 64).toNat % 2 ^ 64
     let ln := l.pa / 128
     s.w.inflight = [] → s.w.actives = [t0] → va < 0x1FFFFFFF00000 → s.lookup s.w.core (s.ctxN s.cur.g) va = .ok l → s.leafLive l = .ok l →
     l.r = true → l.w = true → aget s.frames ln = none → (s.coreOf s.w.core).l1 = [(ln, c)] → c.amo = false → s.l2 = [] → s.sc = [] →
     s.imageAt ln = none → s.walked s.w.core (s.ctxN s.cur.g) va = s →
     let home := fun (t : State) => ∀ i x, i < 128 → c.bytes.getD i .absent = .dirty x → t.homeByte ln c.key i = x
     (s.issues (.cwb a b 4) → s.w.st < 63 → ∃ t, exec (.cwb a b 4) s = .next t ∧ s.w.Retired t.w s.w.past ∧ s.w.OnlyPc t.w ∧ home t ∧
       (∀ x, t.l1Line s.w.core ln = some x → x.isDirty = false)) ∧
     (s.issues (.cinv a b 4) → s.w.st < 63 → ∃ t, exec (.cinv a b 4) s = .next t ∧ s.w.Retired t.w s.w.past ∧ s.w.OnlyPc t.w ∧ home t ∧
       t.l1Line s.w.core ln = none ∧ t.l2Line s.w.core ln = none) ∧
     (s.issues (.cinvd a b 1) → s.w.st < 63 → ∃ t, exec (.cinvd a b 1) s = .next t ∧ s.w.Retired t.w s.w.past ∧ s.w.OnlyPc t.w ∧
       t.l1Line s.w.core ln = none ∧ t.llc = s.llc ∧ t.hbm = s.hbm) ∧
     (∀ sc, ∀ i ∈ [Instr.cwb a b sc, .cinv a b sc, .cinvd a b sc], s.issues i → s.w.quant = 0 → s.w.hold = none → 63 ≤ s.w.st →
       s.ends (exec i s) (fun x => x.hold ≠ none ∧ x = { s.w with hold := x.hold })) ∧
     (∀ sc, s.issues (.pref a b sc) → ∃ t, exec (.pref a b sc) s = .next t ∧ s.w.Retired t.w s.w.past ∧ s.w.OnlyPc t.w)) ∧
  ((∀ (s : State) (core ln : Nat) (c : CLine), s.l1Line core ln = some c → (s.coreOf core).l1 = [(ln, c)] → s.l2 = [] → (∀ p ∈ s.cores, ∀ q ∈ p.2.l1, q.2.amo = false) → c.amo = false →
     ∃ t, exec (.cacheEviction 0 core ln) s = .next t ∧ t.l1Line core ln = none ∧ t.hbm = s.hbm ∧ t.waves = s.waves ∧
       ∀ i b, i < 128 → c.bytes.getD i .absent = .dirty b → ∃ x, t.l2Line core ln = some x ∧ x.key = c.key ∧ x.bytes.getD i .absent = .dirty b) ∧
   (∀ (s : State) (core ctx va : Nat) (c : Ctx) (e3 e2 e1 e0 : Nat), aget s.ctxs ctx = some c → va < 2 ^ 49 → (∀ ln i, s.homeBad ln i = false) →
     (∀ k, k < 12 → (aget s.keys (k * 256 + c.tkey)).isSome = true) →
     (∀ lvl, lvl < 4 → s.walkHeld (sectorOf core) ctx va lvl = none) →
     let entry := fun (table shift n : Nat) => leNat (s.homeRead (table + 8 * (va / 2 ^ shift % n)) 8 c.tkey)
     let next := fun (e : Nat) => e / 2 ^ 8 % 2 ^ 44 * 2 ^ 8
     entry c.root 39 1024 = e3 → entry (next e3) 30 512 = e2 → entry (next e2) 21 512 = e1 → entry (next e1) 16 32 = e0 →
     e3 % 4 = 1 → e2 % 4 = 1 → e1 % 4 = 1 → e0 % 4 = 3 →
     badPointer 3 e3 = false → badPointer 2 e2 = false → badPointer 1 e1 = false → badLeaf 0 e0 = false →
     let r := s.walkRead (s.walkHeld (sectorOf core) ctx va) ctx va
     ∃ t, exec (.pageWalk core ctx va) s = .next t ∧ t.waves = s.waves ∧ t.hbm = r.hbm ∧ t.llc = r.llc ∧ t.hostHalf = r.hostHalf ∧
       t.lookup core ctx va = .ok ⟨e0 / 2 ^ 16 % 2 ^ 36 * 2 ^ 16 + va % 2 ^ 16, e0 / 2 ^ 56, e0.testBit 9, e0.testBit 8, e0.testBit 7, e0.testBit 6,
         e0.testBit 5, e0.testBit 4⟩))

/-- R154-R156, R171, R343, R344: the waiting instructions over the wave's own counters, batches and tags. Each retires when its condition holds,
else the wave is held at it; a yielding instruction of a deterministic grid clears the latches when it retires.
In its second part: R193, R194: `dwait` retires once the 64-bit word is at or above its threshold, unsigned, and raises a precise
translation fault on a misaligned address. An owner's refusal of its window is the deferred not-present fault, taken at the instruction (how
a refusal shows is log 60). `gbar` needs COOP, arrives in its phase, and retires when every live wave of the grid has arrived in it. -/
def Obligations.WaitsRetireOnTheirCondition : Prop :=
  (∀ (s : State) (tv tw ts te tf : BitVec 4) (a : Code),
     let below := fun (t : BitVec 4) (n : Nat) => t = 15 ∨ n ≤ t.toNat
     let counted := below tv s.w.vl ∧ below tw s.w.wl ∧ below ts s.w.st ∧ below te s.w.ec ∧ below tf s.w.fl
     let n := (s.w.ws a).toNat
     let m := s.w.wr2 a.toNat
     (s.w.quant = 0 → counted → s.moves s.w.past (exec (.waitc tv tw ts te tf) s)) ∧
     (s.w.quant ≠ 0 → te = 15 → counted → s.ends (exec (.waitc tv tw ts te tf) s) (fun x => s.w.Retired x s.w.past
       ∧ (∀ k t, t < threads → x.latch k t = 0) ∧ x.sansQ = s.w.sansQ)) ∧
     (s.w.quant = 0 → s.w.hold = none → ¬ counted → s.waits (exec (.waitc tv tw ts te tf) s)) ∧
     (s.w.quant = 0 → s.w.hold = none → s.nextPending s.w.core = none → s.moves s.w.past (exec .yield s)) ∧
     (s.issues (.cwait a) → s.w.quant = 0 → (n + 2 ^ 32 - s.w.next) % 2 ^ 32 < 2 ^ 31 → exec (.cwait a) s = .next (s.trap (.state 0x63))) ∧
     (s.issues (.cwait a) → s.w.quant = 0 → 2 ^ 31 ≤ (n + 2 ^ 32 - s.w.next) % 2 ^ 32 → s.openBatches s.cur = [] → s.moves s.w.past (exec (.cwait a) s)) ∧
     (s.w.quant = 0 → s.cr.tags &&& m ≠ 0 ∨ m = 0 → s.moves s.w.past (exec (.twaitany a) s)) ∧
     (s.w.quant = 0 → s.w.hold = none → s.cr.tags &&& m = 0 → m ≠ 0 → s.waits (exec (.twaitany a) s)) ∧
     (s.w.quant = 0 → s.cr.tags &&& m = m → s.moves s.w.past (exec (.twaitall a) s)) ∧
     (s.w.quant = 0 → s.w.hold = none → s.cr.tags &&& m ≠ m → s.waits (exec (.twaitall a) s))) ∧
  (∀ (s : State) (a b : Code) (l : Leaf),
     let va := (s.w.ws2 a).toNat
     let p := Place.mem l.pa l.key (s.ctxN s.cur.g) va
     let r := s.walked s.w.core (s.ctxN s.cur.g) va
     let word := (r.touchPlace s.w.core 4 p 8).readPlace s.w.core 4 p 8
     let refused := (s.peerFor l.pa).isSome && s.refuses s.w.core l.pa
     let readable := s.check s.w.core (s.ctxN s.cur.g) va 8 .load = .ok l ∧ s.readBad s.w p 8 = false
     (s.w.quant = 0 → va < 2 ^ 49 → va % 8 ≠ 0 → exec (.dwait a b) s = .next (s.trap (.xlat 0x03 va))) ∧
     (s.w.quant = 0 → readable → refused = true → exec (.dwait a b) s = .next (s.trap (.refused va))) ∧
     (s.w.quant = 0 → readable → refused = false → s.w.inflight = [] → (s.w.ws2 b).toNat ≤ word → ∃ t, exec (.dwait a b) s = .next t ∧ s.w.Retired t.w s.w.past ∧ s.w.OnlyPc t.w) ∧
     (s.w.quant = 0 → s.w.hold = none → readable → refused = false → word < (s.w.ws2 b).toNat → s.waits (exec (.dwait a b) s)) ∧
     (s.w.quant = 0 → s.g.coop = false → exec .gbar s = .next (s.trap (.state 0x20))) ∧
     (s.plain → s.g.coop = true →
       let arrived := fun (id : WaveId) => id = s.cur ∨ s.w.gphase < (s.wv id).gphase ∨ ((s.wv id).gphase = s.w.gphase ∧ (s.wv id).gArrived = true)
       ((∀ id ∈ s.live s.cur.g, arrived id) → s.retires (fun w => { w with gphase := 0, gArrived := false }) (exec .gbar s) (fun t =>
         (t.wv s.cur).gphase = s.w.gphase + 1 ∧ (t.wv s.cur).gArrived = false ∧ t.crews = s.crews)) ∧
       ((∃ id ∈ s.live s.cur.g, ¬ arrived id) → s.w.hold = none → s.w.gArrived = false → s.ends (exec .gbar s) (fun x =>
         x.gArrived = true ∧ x.pc = s.w.pc ∧ x.gphase = s.w.gphase ∧ x.hold ≠ none))))

/-- R346, R347: the barrier instructions. An arrival on a barrier whose MEM is 0, or whose ARR equals MEM, is illegal state 0x62; the arrival
that makes ARR = MEM with PEND = 0 completes the phase at once, inverting PHASE, clearing ARR and setting DONE of every wave whose ARM is 1.
`bexp` adds to PEND or traps with BAR_OVERFLOW. `barv` is a release at `cr`: a dirty line of the wave whose page may not be written is its
deferred fault of ORIGIN 5, and it does not arrive (R271).
In its second part: R348: a stream register is a queue. `binit` sets its DEPTH, from 4 to 16, and empties it, or is illegal state 0x64.
`spush` appends its pair and writes 0, or writes 1 when the stream holds DEPTH entries; `spop` takes the oldest entry, and waits while there
is none; both are illegal state 0x65 on a stream of DEPTH 0. `spush` is a release at `cr` (R271). -/
def Obligations.BarriersAndStreamsSynchroniseACrew : Prop :=
  (∀ (s : State) (d a : Code),
     let n := d.toNat
     let c := s.ci
     let b := s.cr.bar n
     let x := (s.w.wr2 a.toNat).toNat
     let bit_ : BitVec 16 := 1#16 <<< n
     s.w.quant = 0 → s.w.buf = [] → n < 16 → (aget s.waves s.cur).isSome = true →
     (x % 2 ^ 10 = 0 ∨ x / 2 ^ 10 % 2 ^ 22 ≠ 0 ∨ 2 ^ 33 ≤ x → exec (.binit d a) s = .next (s.trap (.state 0x64))) ∧
     (x % 2 ^ 10 ≠ 0 → x / 2 ^ 10 % 2 ^ 22 = 0 → x < 2 ^ 33 → s.retires id (exec (.binit d a) s) (fun t =>
       t.barIs c n 0 (x.testBit 32) 0 (x % 2 ^ 10) ∧ ∀ k, k ≠ n → (t.crewOf c).bar k = s.cr.bar k)) ∧
     (b.mem = 0 ∨ b.mem ≤ b.arr → exec (.barv d) s = .next (s.trap (.state 0x62))) ∧
     let clean := s.writeDown s.cur s.w.core 0 = (s, none)
     (∀ t k va, s.w.inflight = [] → b.arr < b.mem → s.writeDown s.cur s.w.core 0 = (t, some (k, va)) →
       exec (.barv d) s = .next (t.trap { cls := 0x07, sub := 5 * 32 + k, tval := some va })) ∧
     (clean → s.w.inflight = [] → b.arr < b.mem → b.arr + 1 < b.mem ∨ b.pend ≠ 0 → s.retires Wave.sansArm (exec (.barv d) s) (fun t =>
       t.barIs c n b.pend b.phase (b.arr + 1) b.mem ∧ (t.wv s.cur).arm = s.w.arm ||| bit_ ∧ (t.wv s.cur).done = s.w.done &&& ~~~ bit_)) ∧
     (clean → s.w.inflight = [] → b.arr + 1 = b.mem → b.pend = 0 → b.held = 0 → ∃ t, exec (.barv d) s = .next t ∧
       s.w.Retired (t.wv s.cur) s.w.past ∧ t.barIs c n 0 (!b.phase) 0 b.mem ∧ (t.wv s.cur).arm = s.w.arm ||| bit_ ∧
       (t.wv s.cur).done = s.w.done ||| bit_ ∧ t.hbm = s.hbm ∧
       ∀ id, id ≠ s.cur → (aget s.waves id).isSome = true → s.crewId id = c → (s.wv id).arm.getLsbD n = true →
         (t.wv id).done = (s.wv id).done ||| bit_ ∧ (t.wv id).pc = (s.wv id).pc) ∧
     (b.mem = 0 → exec (.bwait d) s = .next (s.trap (.state 0x62))) ∧
     (b.mem ≠ 0 → s.w.arm.getLsbD n = true → s.w.done.getLsbD n = true → s.ends (exec (.bwait d) s) (fun y => s.w.Retired y s.w.past ∧
       y.arm = s.w.arm &&& ~~~ bit_ ∧ y.done = s.w.done &&& ~~~ bit_ ∧ y.sansArm.sansPc = s.w.sansArm.sansPc)) ∧
     (b.mem ≠ 0 → s.w.hold = none → (s.w.arm.getLsbD n = true → s.w.done.getLsbD n = false) → s.waits (exec (.bwait d) s)) ∧
     (s.issues (.bexp d a) →
       (b.mem = 0 → exec (.bexp d a) s = .next (s.trap (.state 0x62))) ∧
       (b.mem ≠ 0 → 2 ^ 24 - 1 < b.pend + (s.w.ws a).toNat → exec (.bexp d a) s = .next (s.trap { cls := 0x04, sub := n })) ∧
       (b.mem ≠ 0 → b.pend + (s.w.ws a).toNat < 2 ^ 24 → s.retires id (exec (.bexp d a) s) (fun t =>
         t.barIs c n (b.pend + (s.w.ws a).toNat) b.phase b.arr b.mem ∧ ∀ k, k ≠ n → (t.crewOf c).bar k = s.cr.bar k)))) ∧
  (∀ (s : State) (d a b : Code),
     let q := s.cr.stream b.toNat
     let after := fun (t : State) => (t.crewOf s.ci).stream b.toNat
     s.w.quant = 0 → s.w.buf = [] → s.w.inflight = [] →
     (∀ n : Code, 16 ≤ n.toNat → n.toNat ≤ 19 →
       let x := (s.w.wr2 a.toNat).toNat
       (x < 4 ∨ 16 < x → exec (.binit n a) s = .next (s.trap (.state 0x64))) ∧
       (4 ≤ x → x ≤ 16 → (∀ y ∈ s.cr.xfers, y.stage ≠ 1) → s.retires id (exec (.binit n a) s) (fun t =>
         (t.crewOf s.ci).stream (n.toNat - 16) = ⟨x, []⟩ ∧ (∀ k, k ≠ n.toNat - 16 → (t.crewOf s.ci).stream k = s.cr.stream k) ∧
         ∀ k, (t.crewOf s.ci).bar k = s.cr.bar k))) ∧
     (q.depth = 0 → exec (.spush d a b) s = .next (s.trap (.state 0x65)) ∧ exec (.spop d b) s = .next (s.trap (.state 0x65))) ∧
     let clean := s.writeDown s.cur s.w.core 0 = (s, none)
     (∀ t k va, q.depth ≠ 0 → s.writeDown s.cur s.w.core 0 = (t, some (k, va)) →
       exec (.spush d a b) s = .next (t.trap { cls := 0x07, sub := 5 * 32 + k, tval := some va })) ∧
     (clean → q.depth ≠ 0 → q.depth ≤ q.ents.length → s.retires Wave.sansW (exec (.spush d a b) s) (fun t => s.regSet t d.toNat 1 ∧ t.crews = s.crews)) ∧
     (clean → q.ents.length < q.depth → s.retires Wave.sansW (exec (.spush d a b) s) (fun t => s.regSet t d.toNat 0 ∧ (after t).depth = q.depth ∧
       (after t).ents = q.ents ++ [(s.w.wr2 a.toNat).toNat] ∧ ∀ k, k ≠ b.toNat → (t.crewOf s.ci).stream k = s.cr.stream k)) ∧
     (q.depth ≠ 0 → q.ents = [] → s.w.hold = none → s.waits (exec (.spop d b) s)) ∧
     (∀ e es, q.depth ≠ 0 → q.ents = e :: es → s.retires Wave.sansW (exec (.spop d b) s) (fun t => (after t).ents = es ∧ (after t).depth = q.depth ∧
       s.w.RegPairSet (t.wv s.cur) d.toNat (BitVec.ofNat 64 e) ∧ ∀ k, k ≠ b.toNat → (t.crewOf s.ci).stream k = s.cr.stream k)))

/-- R335-R339: a copy instruction whose control word or block is invalid is illegal state 0x60; one that passes its checks on a tag without a
gathering copy opens a copy on it, clears its bit of `tags`, starts it when NP is 0, cuts every row into chunks of at most 4096 bytes, and
joins the wave's open batch.
In its second part: R342, R344: `cseal` numbers the open batch with NEXT and raises NEXT; `tagrd` reads `tags`, `tagclr` clears the bits of
its mask, and `tffr` finds and clears the lowest set bit under its mask, writing 64 when there is none. -/
def Obligations.CopiesBatchesAndTags : Prop :=
  (∀ (i : Instr) (s : State) (a b : Code) (minor : Nat),
     (i = .copy a b ∧ minor = 0) ∨ (i = .copybox a b ∧ minor = 1) ∨ (i = .copyred a b ∧ minor = 2) → s.issues i → s.plain →
     let g := s.w.copyArgs minor a.toNat b.toNat
     let ctl := (s.w.ws b).toNat
     let tag := ctl % 2 ^ 6
     (ctl / 2 ^ 12 % 8 ≠ 0 ∨ ctl / 2 ^ 15 % 32 < ctl / 2 ^ 20 % 32 ∨ g.len < 4 ∨ 65536 < g.len → exec i s = .next (s.trap (.state 0x60))) ∧
     (s.copyTrap minor g = none → (∀ x ∈ s.cr.xfers, x.tag ≠ tag) → s.retires Wave.sansBatch (exec i s) (fun t =>
       (t.wv s.cur).w = s.w.w ∧ (t.wv s.cur).sealed = s.w.sealed ∧ (t.wv s.cur).next = s.w.next ∧
       (∀ k, k < 64 → (t.crewOf s.ci).tags.getLsbD k = (s.cr.tags.getLsbD k && k != tag)) ∧ (t.crewOf s.ci).ls = s.cr.ls ∧
       ∃ x, (t.crewOf s.ci).xfers = s.cr.xfers ++ [x] ∧ x.tag = tag ∧ x.minor = minor ∧ x.np = ctl / 2 ^ 15 % 32 ∧
         x.started = decide (ctl / 2 ^ 15 % 32 = 0) ∧ x.uid ∈ (t.wv s.cur).openBatch ∧
         x.units = g.rows.flatMap (fun r => tab ((r.2.2 + 4095) / 4096) (fun k =>
           ⟨ctl / 2 ^ 20 % 32, r.1 + 4096 * k, r.2.1 + 4096 * k, min 4096 (r.2.2 - 4096 * k), 0, 0⟩))))) ∧
  (∀ (s : State) (d a : Code), s.w.quant = 0 →
     let found := s.cr.tags &&& s.w.wr2 a.toNat
     ((s.openBatches s.cur).length < 16 → s.w.next < 2 ^ 32 → s.retires Wave.sansBatch (exec (.cseal d) s) (fun t =>
       s.regSet t d.toNat (BitVec.ofNat 32 s.w.next) ∧ (t.wv s.cur).next = (s.w.next + 1) % 2 ^ 32 ∧ (t.wv s.cur).openBatch = [] ∧
       (t.wv s.cur).sealed = s.openBatches s.cur ++ [⟨s.w.next, s.w.openBatch⟩] ∧ t.crews = s.crews)) ∧
     (16 ≤ (s.openBatches s.cur).length → s.w.hold = none → s.waits (exec (.cseal d) s)) ∧
     s.retires Wave.sansW (exec (.tagrd d) s) (fun t => s.w.RegPairSet (t.wv s.cur) d.toNat s.cr.tags ∧ t.crews = s.crews) ∧
     s.retires id (exec (.tagclr a) s) (fun t => (t.crewOf s.ci).tags = s.cr.tags &&& ~~~ (s.w.wr2 a.toNat)) ∧
     (found = 0 → s.retires Wave.sansW (exec (.tffr d a) s) (fun t => s.regSet t d.toNat 64 ∧ t.crews = s.crews)) ∧
     (∀ n, n < 64 → found.getLsbD n = true → (∀ k, k < n → found.getLsbD k = false) →
       s.retires Wave.sansW (exec (.tffr d a) s) (fun t => s.regSet t d.toNat (BitVec.ofNat 32 n) ∧
         ∀ k, k < 64 → (t.crewOf s.ci).tags.getLsbD k = (s.cr.tags.getLsbD k && k != n))))

/-- R353-R357, R362, R364: `gview` and `gstn` fill the view and the weight set they name, an invalid block being illegal state; a grid transfer
that passes its checks is posted with a copy of its views and weight sets, in units of at most 256 points of a line. -/
def Obligations.GridTransfersArePosted : Prop :=
  ∀ (s : State) (d a b : Code), s.plain →
    let fw := (s.w.wr (a.toNat + 6)).toNat
    let size := match fw % 4 with | 0 => 8 | 1 => 4 | _ => 2
    let shape := (s.w.ws b).toNat
    let va := (s.w.wr2 a.toNat).toNat
    let count := (shape % 4 + 1) * (shape / 4 % 4 + 1) * (shape / 16 % 4 + 1)
    (2 ^ 8 ≤ fw ∨ fw.testBit 2 = true ∨ fw / 32 % 4 = 0 → exec (.gview d a) s = .next (s.trap (.state 0x70))) ∧
    (badView (s.w.viewOf a.toNat) (s.w.wr (a.toNat + 3)).toNat fw = false → va % size = 0 →
      (s.w.wr (a.toNat + 4)).toInt % size = 0 → (s.w.wr (a.toNat + 5)).toInt % size = 0 →
      s.retires id (exec (.gview d a) s) (fun t => ∀ n, (t.crewOf s.ci).views.getD n View.none_ =
        if n = d.toNat then s.w.viewOf a.toNat else s.cr.views.getD n View.none_)) ∧
    (s.issues (.gstn d a b) → 2 ^ 6 ≤ shape → exec (.gstn d a b) s = .next (s.trap (.state 0x71))) ∧
    (∀ bs r, s.issues (.gstn d a b) → shape < 2 ^ 6 → s.uniRead va (4 * count) 4 = .ok (bs, r) →
      s.retiresFrom r id (exec (.gstn d a b) s) (fun t => ∀ n, (t.crewOf s.ci).wsets.getD n WSet.unit = if n = d.toNat then
          ⟨shape % 4 + 1, shape / 4 % 4 + 1, shape / 16 % 4 + 1, tab count (fun k => leNat ((bs.drop (4 * k)).take 4))⟩
        else s.cr.wsets.getD n WSet.unit)) ∧
    (∀ i minor, (i = .grst a b ∧ minor = 2) ∨ (i = .gprol a b ∧ minor = 3) ∨ (i = .gproladd a b ∧ minor = 4) ∨ (i = .gred a b ∧ minor = 5) →
      s.issues i → s.gridTrap minor shape (s.w.wr a.toNat).toNat (s.w.wr (a.toNat + 1)).toNat = none →
      s.retires Wave.sansBatch (exec i s) (fun t => (t.wv s.cur).w = s.w.w ∧ (t.crewOf s.ci).ls = s.cr.ls ∧
        (∀ k, k < 64 → (t.crewOf s.ci).tags.getLsbD k = (s.cr.tags.getLsbD k && k != shape % 64)) ∧
        ∃ x j, (t.crewOf s.ci).xfers = s.cr.xfers ++ [x] ∧ x.tag = shape % 64 ∧ x.started = true ∧ x.job = some j ∧ j.kind = minor ∧
          j.sv = s.cr.views.getD (shape / 2 ^ 28) View.none_ ∧ j.dv = s.cr.views.getD (shape / 2 ^ 24 % 16) View.none_ ∧ j.wsets = s.cr.wsets ∧
          x.uid ∈ (t.wv s.cur).openBatch ∧ ∀ u ∈ x.units, u.len ≤ 256 ∧ u.src % 256 = 0 ∧ u.src + u.len ≤ j.dv.nx))

/-- R339, R340, R346, R347, R364: the engine's events. The one chunk of a copy within the local store writes its bytes, lands them on its
barrier, and completes the copy, whose bit of `tags` is set; a push that is due is made when its stream has room; a row of a grid transfer
writes its points and no wave register. -/
def Obligations.EngineEventsCompleteTransfers : Prop :=
  ∀ (s : State) (c : CrewId) (x : Xfer) (p : Slice),
    let k := s.crewOf c
    s.running c x.tag = some x → k.bound = true → k.lsBad = [] → x.slices = [p] → p.part = 0 → k.xfers = [x] →
    (∀ u, x.job = none → x.minor = 0 → x.stage = 0 → x.units = [u] → u.st = 0 → u.part = 0 → p.dir = 3 → p.bm = 0 → p.sp = false →
      ∃ t, exec (.copyChunk c.g c.n x.tag 0) s = .next t ∧ (t.crewOf c).ls = k.ls.write u.dst (k.ls.read u.src u.len) ∧
        (t.crewOf c).tags = k.tags ||| (1#64 <<< x.tag) ∧ (t.crewOf c).xfers = [] ∧ t.waves = s.waves ∧ t.hbm = s.hbm) ∧
    (∀ u, x.job = none → x.minor = 0 → x.stage = 0 → x.units = [u] → u.st = 0 → u.part = 0 → p.dir = 3 → p.bm = 2 → p.sp = false →
      u.len < (k.bar p.bar).pend → ∃ t, exec (.copyChunk c.g c.n x.tag 0) s = .next t ∧
        ((t.crewOf c).bar p.bar).pend = (k.bar p.bar).pend - u.len ∧ ((t.crewOf c).bar p.bar).arr = (k.bar p.bar).arr) ∧
    (x.stage = 1 → p.sp = true → k.ended = false → (k.stream p.sq).ents.length < (k.stream p.sq).depth → x.job = none →
      ∃ t, exec (.engineStreamPush c.g c.n x.tag) s = .next t ∧ ((t.crewOf c).stream p.sq).ents = (k.stream p.sq).ents ++ [p.push] ∧
        (t.crewOf c).tags = k.tags ||| (1#64 <<< x.tag) ∧ (t.crewOf c).xfers = [] ∧ t.waves = s.waves) ∧
    (∀ u j acc fl, x.job = some j → x.stage = 0 → x.units = [u] → u.st = 0 → u.part = 0 → u.len = 1 → j.kind = 2 → j.dv.ls = true → j.dv.fmt = 0 →
      p.bm = 0 → p.sp = false → gridPoint p.wave j u.src (u.dst % j.dv.ny) (u.dst / j.dv.ny) s = .ok ((acc, fl), s) →
      ∃ t, exec (.gridTransferRow c.g c.n x.tag 0) s = .next t ∧ t.hbm = s.hbm ∧ (t.crewOf c).xfers = [] ∧
        (t.crewOf c).tags = k.tags ||| (1#64 <<< x.tag) ∧
        (t.crewOf c).ls = k.ls.write (j.dv.addr u.src (u.dst % j.dv.ny : Nat) (u.dst / j.dv.ny : Nat))
          (leBytes 8 (cnvFF f64 f64 ⟨gridRM j.rm, false, false⟩ acc).1) ∧
        (∀ n, (t.wv p.wave).wr n = (s.wv p.wave).wr n))

/-- R282-R284, R290, R302: `aopen` and `aopennb`. An invalid control word is ACC_CONTROL, which leaves `tvall` and `tvalh` as they are by the
model's choice (log 37), and a misaligned base a misaligned fault; where the frames and the quota allow, the lowest FREE or SEALED entry
becomes OPEN under the next sequence number, every line is open for it, and W(d) is the handle; where they do not, `aopennb` writes 0 and
`aopen` waits. -/
def Obligations.SessionsOpen : Prop :=
  ∀ (s : State) (d a b : Code) (nb : Bool),
    let i : Instr := if nb then .aopennb d a b else .aopen d a b
    let c := (s.w.ws b).toNat
    let base := (s.w.wr2 a.toNat).toNat
    let ctx := s.ctxN s.cur.g
    s.issues i → s.plain →
    (c / 2 ^ 20 = 0 ∨ 5 ≤ c / 8 % 8 ∨ (c / 2 ^ 8 % 2 ^ 12 ≠ 0 ∧ (c.testBit 2 = false ∨ 2 ≤ c % 4)) ∨ (c / 8 % 8 ≠ 0 ∧ 2 ≤ c % 4) →
      exec i s = .next (s.trap { cls := 0x05, sub := 0x0A })) ∧
    (badControl c = false → base % 128 ≠ 0 → exec i s = .next (s.trap (.xlat 0x03 base))) ∧
    (∀ ls, badControl c = false → base % 128 = 0 → s.openLines base (c / 2 ^ 20) 0 = .ok ls → (∀ l ∈ ls, aget s.frames l.1 = none) →
      (∀ k, s.canOpen ctx (ls.map (·.1)) = some k →
        let e := (s.ctxOf ctx).session k
        let seq := if e.seq + 1 = 2 ^ 20 then 1 else e.seq + 1
        ∃ t, exec i s = .next t ∧ s.w.Retired (t.wv s.cur) s.w.past ∧ s.regSet t d.toNat (BitVec.ofNat 32 (seq * 2 ^ 12 + k)) ∧
          ((t.ctxOf ctx).session k).state = 1 ∧ ((t.ctxOf ctx).session k).seq = seq ∧ ((t.ctxOf ctx).session k).ctrl = c ∧
          ((t.ctxOf ctx).session k).lines = ls.map (·.1) ∧ ((t.ctxOf ctx).session k).broken = false ∧
          (∀ l ∈ ls, t.openFor l.1 ctx k (c.testBit 2) (c % 4)) ∧ (t.wv s.cur).v = s.w.v ∧ (t.wv s.cur).q = s.w.q) ∧
      (s.canOpen ctx (ls.map (·.1)) = none →
        (nb = true → s.retires Wave.sansW (exec i s) (fun t => s.regSet t d.toNat 0 ∧ t.frames = s.frames ∧ t.ctxs = s.ctxs)) ∧
        (nb = false → s.w.hold = none → s.waits (exec i s))))

/-- R303, R295, R170: `ared` posts one arrival for every active thread, in ascending order, of its value to base + t·stride, counted once on EC;
with no active thread it posts nothing.
In its second part: R283, R304-R306: `aseal` of a handle that is not current is ACC_HANDLE, which leaves `tvall` and `tvalh` as they are by
the model's choice (log 37); of a SEALED session it writes the stored flags; of an OPEN one it makes it SEALING and waits. `aqry` of a
handle that is not current reads zero; of a SEALED session it shows the state, the mode, the target and the flags, and of an OPEN or SEALING
one the flags that sealing every line now would report, and whether a frame is spilled. `asnap` reads 8 bytes as a uniform load does: of an
open line, its snapshot; an owner's refusal of its window traps (log 60). -/
def Obligations.ArrivalsArePostedAndSessionsSealed : Prop :=
  (∀ (i : Instr) (s : State) (d a b : Code) (ty : Nat),
     (i = .aredF32 d a b ∧ ty = 0) ∨ (i = .aredF64 d a b ∧ ty = 1) ∨ (i = .aredS32 d a b ∧ ty = 2) ∨ (i = .aredS64 d a b ∧ ty = 3) → s.issues i →
     let base := (s.w.wr2 a.toNat).toNat
     let stride := (s.w.ws b).toNat
     let value := fun (t : Nat) => if ty = 0 ∨ ty = 2 then (s.w.vr d t).toNat else (s.w.vr2 d t).toNat
     (s.w.actives = [] → s.moves s.w.past (exec i s)) ∧
     (∀ ps, s.w.actives ≠ [] → s.w.quant = 0 → s.w.ec < 63 → s.aredPlaces base stride (tySize ty) s.w.actives = .ok ps →
       s.retires (fun w => { w with ec := 0 }) (exec i s) (fun t => (t.wv s.cur).ec = s.w.ec + 1 ∧ t.frames = s.frames ∧
         ∃ new, t.arrivals = s.arrivals ++ new ∧
           new.map (fun n => (n.wave, n.va, n.val)) = s.w.actives.map (fun k => (s.cur, (base + k * stride) % 2 ^ 64, AVal.code ty (value k))))) ∧
     (∀ tr, s.w.actives ≠ [] → s.w.ec < 63 → s.aredPlaces base stride (tySize ty) s.w.actives = .error tr → exec i s = .next (s.trap tr))) ∧
  (∀ (s : State) (d a : Code) (l : Leaf),
     let ctx := s.ctxN s.cur.g
     let h := (s.w.ws a).toNat
     let k := h % 2 ^ 12
     let e := (s.ctxOf ctx).session k
     let isCurrent := e.state ≠ 0 ∧ e.seq = h / 2 ^ 12
     let va := (s.w.wr2 a.toNat).toNat
     let p := Place.mem l.pa l.key ctx va
     let r := s.walked s.w.core ctx va
     let refused := (s.peerFor l.pa).isSome && s.refuses s.w.core l.pa
     let readable := s.check s.w.core ctx va 8 .load = .ok l ∧ s.readBad s.w p 8 = false
     (s.issues (.aseal d a) → s.plain → ¬ isCurrent → exec (.aseal d a) s = .next (s.trap { cls := 0x05, sub := 0x08 })) ∧
     (s.issues (.aseal d a) → s.plain → s.atRest → isCurrent → e.state = 3 →
       s.retires Wave.sansW (exec (.aseal d a) s) (fun t => s.regSet t d.toNat (BitVec.ofNat 32 e.flags) ∧ t.ctxs = s.ctxs)) ∧
     (s.issues (.aseal d a) → s.plain → s.atRest → s.w.hold = none → e.seq = h / 2 ^ 12 → e.state = 1 → ∃ t, exec (.aseal d a) s = .next t ∧
       (t.ctxOf ctx).session k = { e with state := 2, broken := false } ∧ (t.wv s.cur).pc = s.w.pc ∧ (t.wv s.cur).hold ≠ none ∧ t.frames = s.frames) ∧
     (s.issues (.aqry d a) → ¬ isCurrent → s.retires Wave.sansW (exec (.aqry d a) s) (fun t => s.regSet t d.toNat 0)) ∧
     (s.issues (.aqry d a) → isCurrent → e.state = 3 → (∀ p ∈ s.frames, ¬(p.2.ctx = ctx ∧ p.2.idx = k)) →
       s.retires Wave.sansW (exec (.aqry d a) s) (fun t => s.regSet t d.toNat (BitVec.ofNat 32
         (e.flags % 32 * 2 ^ 11 + e.broken.toNat * 2 ^ 10 + (e.ctrl.testBit 2).toNat * 2 ^ 8 + e.ctrl % 4 * 2 ^ 6 + 3)))) ∧
     (s.issues (.aqry d a) → isCurrent → e.state ≠ 3 →
       let own := s.frames.filter (fun p => decide (p.2.ctx = ctx ∧ p.2.idx = k))
       let flags := (own.map (fun p => p.2.flags)).foldl (· ||| ·) e.flags
       s.retires Wave.sansW (exec (.aqry d a) s) (fun t => s.regSet t d.toNat (BitVec.ofNat 32 (flags % 32 * 2 ^ 11 + e.broken.toNat * 2 ^ 10
         + (own.any (fun p => p.2.spilled.isSome)).toNat * 2 ^ 9 + (e.ctrl.testBit 2).toNat * 2 ^ 8 + e.ctrl % 4 * 2 ^ 6 + e.state)))) ∧
     (s.w.quant = 0 → va < 2 ^ 49 → va % 8 ≠ 0 → exec (.asnap d a) s = .next (s.trap (.xlat 0x03 va))) ∧
     (s.w.quant = 0 → readable → refused = true → exec (.asnap d a) s = .next (s.trap (.refused va))) ∧
     (s.w.quant = 0 → s.w.inflight = [] → readable → refused = false →
       ∃ t, exec (.asnap d a) s = .next t ∧ s.w.Retired t.w s.w.past ∧ t.frames = s.frames ∧ s.w.Unshifted t.w ∧ s.w.OnlyRegs t.w ∧
         (aget s.frames (l.pa / 128) = none →
           s.w.RegPairSet t.w d.toNat (BitVec.ofNat 64 ((r.touchPlace s.w.core 0 p 8).readPlace s.w.core 0 p 8))) ∧
         (∀ f, aget s.frames (l.pa / 128) = some f →
           s.w.RegPairSet t.w d.toNat (BitVec.ofNat 64 (leNat (tab 8 (fun j => f.bytes.getD (l.pa % 128 + j) 0)))))))

/-- R286, R287, R288, R289, R295, R296, R393: an arrival that heads its channel is dropped when its number is not above the high-water mark. It
is translated afresh (its line is one of this device's own): a failure holds it in its place and raises a deferred fault, and a page without
the accumulate-permit rejects it. On a line not open it is reported as ACC_CLOSED, or as ACC_BROKEN when the line's last session was broken;
where its class is not the target's or it starts inside an element (the model's reading of R311, R318 and R289, log 17), as ACC_TYPE; where
the frame's count is exhausted, as ACC_LIMIT. Otherwise it is applied once. An EXACT arrival sets the status bits of a NaN or an infinity,
or anchors its value and adds it, or records that it is too big; in EXACT mode the frame after two arrivals does not depend on their order,
and the value that a seal delivers is that of R287. A FAST arrival writes its one rounded sum, or its sum modulo 2^width.
In its second part: R283, R287, R291, R304: sealing a line of a SEALING session writes the frame's values at the line's home as ordinary
data and frees the frame, and the last line makes the session SEALED. A spill and a reload change no value, flag or count of a frame. -/
def Obligations.ArrivalsApplyOnceAndLinesSeal : Prop :=
  ((∀ (f : Frame) (o p : Nat) (u v : AVal), f.exact = true → (f.arrive o u).arrive p v = (f.arrive p v).arrive o u) ∧
   (∀ (f : Frame) (i : Nat), f.exact = true → f.tgt < 4 → f.value i = sealedElement f i) ∧
   (∀ (f : Frame) (o : Nat) (v : AVal), f.exact = true → f.tgt < 4 → o < 128 →
     let n := if f.tgt % 2 = 0 then 4 else 8
     let i := o / n
     let W := if f.tgt % 2 = 0 then 128 else 256
     let g := f.arrive o v
     f.s.length = 128 / n → f.est.length = 128 / n →
     (∀ b, v.statusOf = some b → g = { f with est := f.est.set i (f.est.getD i 0 ||| b), count := f.count + 1 }) ∧
     (∀ k x, v.anchored f.anch = some (k, x) →
       (2 ^ (W - 1) ≤ k → g = { f with est := f.est.set i (f.est.getD i 0 ||| 0x10), nx := f.nx || x, count := f.count + 1 }) ∧
       (k ≤ -(2 ^ (W - 1)) → g = { f with est := f.est.set i (f.est.getD i 0 ||| 0x20), nx := f.nx || x, count := f.count + 1 }) ∧
       (-(2 ^ (W - 1)) < k → k < 2 ^ (W - 1) → g = { f with s := f.s.set i (f.s.getD i 0 + k), nx := f.nx || x, count := f.count + 1 }))) ∧
   (∀ (f : Frame) (o : Nat) (v : AVal), f.exact = false → f.tgt < 4 → f.srm < 5 → o < 128 → f.vals.length = 128 → v.isFloat = decide (f.tgt < 2) →
     let n := if f.tgt % 2 = 0 then 4 else 8
     let i := o / n
     let old := leNat ((f.vals.drop (n * i)).take n)
     let g := f.arrive o v
     g.count = f.count + 1 ∧ g.vals.length = 128 ∧ { g with vals := f.vals, fl := f.fl, count := f.count } = f ∧
       (∀ j, j < n * i ∨ n * (i + 1) ≤ j → g.vals.getD j 0 = f.vals.getD j 0) ∧
       (∀ ty c, 2 ≤ f.tgt → ty < 4 → v = .code ty c → leNat ((g.vals.drop (n * i)).take n) =
         ((old + (if ty = 2 then (BitVec.ofNat 32 c).toInt else (BitVec.ofNat 64 c).toInt)) % 2 ^ (8 * n)).toNat ∧ g.fl = f.fl) ∧
       (f.tgt < 2 →
         let F := if f.tgt = 0 then f32 else f64
         let rm := [RM.rne, .rtz, .rup, .rdn, .rna].getD f.srm .rne
         let x := v.reading
         let signals := F.isSNaN old || x.isS
         let r := fun (new : Nat) (fl : FFlags) => leNat ((g.vals.drop (n * i)).take n) = new % 2 ^ (8 * n) ∧ g.fl = f.fl ||| fl.toNat
         (F.isNaN old = true → r (F.quiet old) (if signals then fNV else 0)) ∧
         (∀ ty c, F.isNaN old = false → x.isN = true → ty < 2 → v = .code ty c → r (if ty = f.tgt then F.quiet c else nanConvert (if ty = 0 then f32 else f64) F c)
           (if signals then fNV else 0)) ∧
         (∀ s, F.val old = .inf s → x = .inf (!s) → r F.defNaN fNV) ∧
         (∀ s, F.val old = .inf s → x.isN = false → x ≠ .inf (!s) → r (F.inf s) 0) ∧
         (∀ s, F.isNaN old = false → (F.val old).isInf = false → x = .inf s → r (F.inf s) 0) ∧
         (F.isNaN old = false → (F.val old).isInf = false → x.isN = false → x.isInf = false →
           r (F.roundSum rm [(F.val old).term, x.term]).1 (F.roundSum rm [(F.val old).term, x.term]).2))) ∧
   (∀ (s : State) (a : Arrival) (as : List Arrival), s.arrivals = a :: as → a.held = false → a.owner = .lane →
     (∀ b ∈ as ++ s.openTxn.filterMap (·.arr), b.grp ≠ a.grp) → (s.wv a.wave).holdsArrival a.grp = false →
     (let u : State := { s with hwm := aput s.hwm (a.src, a.slice) a.num }; u.walked (a.src / 4) (s.ctxN a.wave.g) a.va = u) →
     let mark := (aget s.hwm (a.src, a.slice)).getD 0
     let u : State := { s with hwm := aput s.hwm (a.src, a.slice) a.num }
     let at_ := u.translate (a.src / 4) (s.ctxN a.wave.g) a.va .write
     let reports := fun (sub : Nat) => ∃ t, exec (.accumulationArrival 0) s = .next t ∧ t.arrivals = as ∧ t.frames = s.frames ∧
       aget t.hwm (a.src, a.slice) = some a.num ∧ (t.wv a.wave).ec = (s.wv a.wave).ec - 1 ∧
       (t.wv a.wave).faults = (s.wv a.wave).faults ++ [⟨0x05, sub, a.va⟩]
     (a.num ≤ mark → ∃ t, exec (.accumulationArrival 0) s = .next t ∧ t.arrivals = as ∧ t.frames = s.frames ∧ t.hwm = s.hwm ∧
       (t.wv a.wave).ec = (s.wv a.wave).ec - 1 ∧ (t.wv a.wave).faults = (s.wv a.wave).faults) ∧
     (∀ e, mark < a.num → at_ = .error e → (s.gridOf a.wave.g).ending = false → (s.wv a.wave).exited = false →
       ∃ t, exec (.accumulationArrival 0) s = .next t ∧ t.arrivals = { a with held := true } :: as ∧ t.frames = s.frames ∧
         (t.wv a.wave).ec = (s.wv a.wave).ec ∧ (t.wv a.wave).faults = (s.wv a.wave).faults ++ [⟨0x07, (a.src % 4 + 1) * 32 + e, a.va⟩]) ∧
     (∀ l, mark < a.num → at_ = .ok l → windowOf l.pa = none → (s.wv a.wave).exited = false →
       (l.ap = false → reports 0x89) ∧
       (l.ap = true → aget s.frames (l.pa / 128) = none → s.brokenLines.contains (l.pa / 128) = false → reports 0x85) ∧
       (l.ap = true → aget s.frames (l.pa / 128) = none → s.brokenLines.contains (l.pa / 128) = true → reports 0x84) ∧
       (∀ f, l.ap = true → aget s.frames (l.pa / 128) = some f →
         let n := if f.tgt % 2 = 0 then 4 else 8
         (a.val.isFloat ≠ decide (f.tgt < 2) ∨ l.pa % n ≠ 0 → reports 0x86) ∧
         (a.val.isFloat = decide (f.tgt < 2) → l.pa % n = 0 → 2 ^ 32 - 1 ≤ f.count → reports 0x8B))) ∧
     (∀ l f v, mark < a.num → at_ = .ok l → l.ap = true → windowOf l.pa = none → aget s.frames (l.pa / 128) = some f → f.spilled = none → f.exact = true → f.tgt = 2 → a.val = .code 2 v →
       l.pa % 4 = 0 → f.count < 2 ^ 32 - 1 → f.s.length = 32 → ∃ t g, exec (.accumulationArrival 0) s = .next t ∧ t.arrivals = as ∧
         aget t.frames (l.pa / 128) = some g ∧ g.s.getD (l.pa % 128 / 4) 0 = f.s.getD (l.pa % 128 / 4) 0 + (BitVec.ofNat 32 v).toInt ∧
         (∀ k, k ≠ l.pa % 128 / 4 → g.s.getD k 0 = f.s.getD k 0) ∧ g.count = f.count + 1 ∧ g.est = f.est ∧ g.nx = f.nx ∧
         (∀ ln, ln ≠ l.pa / 128 → aget t.frames ln = aget s.frames ln) ∧ (t.wv a.wave).ec = (s.wv a.wave).ec - 1))) ∧
  ((∀ (s : State) (ctx k ln : Nat) (f : Frame) (e : Session), (s.ctxOf ctx).session k = e → e.state = 2 → e.lines[0]? = some ln →
     s.frames = [(ln, f)] → f.ctx = ctx → f.idx = k → f.spilled = none → f.bytes.length = 128 → s.imageAt ln = none →
     ∃ t, exec (.lineSeal ctx k 0) s = .next t ∧ t.frames = [] ∧ ((t.ctxOf ctx).session k).state = 3 ∧ t.waves = s.waves ∧
       ((t.ctxOf ctx).session k).flags = e.flags ||| f.flags ∧ ∀ i, i < 128 → t.homeByte ln f.key i = f.bytes.getD i 0) ∧
   (∀ (s : State) (ctx ln : Nat) (f : Frame), s.opening = true → s.spillable ctx = true → s.residents ctx = [(ln, f)] → aget s.frames ln = some f →
     (s.ctxOf ctx).slots = [] → 0 < (s.ctxOf ctx).quota →
     ∃ t g, exec (.frameSpill ctx) s = .next t ∧ aget t.frames ln = some g ∧ g = { f with spilled := some 0 } ∧ (t.ctxOf ctx).slots = [0] ∧
       g.bytes = f.bytes ∧ g.flags = f.flags ∧ ∀ l, l ≠ ln → aget t.frames l = aget s.frames l) ∧
   (∀ (s : State) (ctx ln n : Nat) (f : Frame), s.ctxBound ctx = true → s.frames = [(ln, f)] → f.ctx = ctx → f.spilled = some n →
     ∃ t, exec (.frameReload ctx) s = .next t ∧ t.frames = [(ln, { f with spilled := none })] ∧ (t.ctxOf ctx).slots = [] ∧ t.waves = s.waves))

/-- R308-R312, R321, R326, R327: the checks of `mma` and `mmaf` in their order; with none failing, no command for an idle mask, else, under the
leave of the format's class, one command at the queue's end with the operand block as it stands, its first place the lowest block with a
row; without that leave, a request for the class, granted at once where a wave of the core holds it (R427), and a wait; that the engine's
own requests for its commands (class + 8) stay in the steward's queue, and that a class it holds counts as held, is the model's choice (log
12). `scacc` checks its tiles, then its ranges, and needs no leave. That the checks come before the idle mask is the model's choice (log
21), and so are two reported addresses of which R312 does not speak: a misaligned signed stride is reported sign-extended (log 38), and a
range that leaves the local store is reported by C or its first byte (log 37). -/
def Obligations.MatrixCommandsEnterTheQueue : Prop :=
  (∀ (i : Instr) (s : State) (m : Nat) (d a b : Code), mmaForm i = some (m, d, a, b) → s.issues i → s.w.quant = 0 →
    let w := s.w
    let n := a.toNat
    let ctl := (w.ws b).toNat
    let e := mmaAlign m
    let vals := [(w.wr2 n).toNat, (w.wr2 (n + 2)).toNat, ((w.wr (n + 4)).signExtend 64).toNat, ((w.wr (n + 5)).signExtend 64).toNat]
    let C := if 16 ≤ m then (w.ws2 d).toNat else (w.ws d).toNat
    let good := ¬ mmaControlBroken m ctl ∧ (∀ x ∈ vals, x % e = 0) ∧ C % 128 = 0 ∧ (m < 16 → C + 96 * mmaRowBytes m ≤ s.cr.lsLen)
    (mmaControlBroken m ctl → exec i s = .next (s.trap (.state 0x50))) ∧
    (∀ x, ¬ mmaControlBroken m ctl → vals.find? (fun x => decide (x % e ≠ 0)) = some x → exec i s = .next (s.trap (.xlat 0x03 x))) ∧
    (¬ mmaControlBroken m ctl → (∀ x ∈ vals, x % e = 0) → C % 128 ≠ 0 → exec i s = .next (s.trap (.xlat 0x03 C))) ∧
    (¬ mmaControlBroken m ctl → (∀ x ∈ vals, x % e = 0) → C % 128 = 0 → m < 16 → s.cr.lsLen < C + 96 * mmaRowBytes m →
      exec i s = .next (s.trap (.xlat 0x04 C))) ∧
    (good → w.actives = [] → s.moves w.past (exec i s)) ∧
    (good → w.actives ≠ [] → w.lvGnt = true → w.lvCls = mmaLeave m → w.inflight = [] → w.ec < 63 → s.queueRoom →
      s.sends (exec i s) (fun c => c.minor = m ∧ c.aBase = (w.wr2 n).toNat ∧ c.bBase = (w.wr2 (n + 2)).toNat ∧ c.sA = (w.wr (n + 4)).toInt ∧
        c.sB = (w.wr (n + 5)).toInt ∧ c.kLen = ctl / 2 ^ 16 ∧ c.cst = ctl / 2 ^ 8 % 2 ^ 8 ∧ c.zc = ctl.testBit 0 ∧ c.c = C ∧
        (20 ≤ m → c.aScale = (w.wr2 (n + 6)).toNat ∧ c.bScale = (w.wr2 (n + 8)).toNat) ∧
        c.kstep = 0 ∧ c.rb < 3 ∧ w.wr (61 + c.rb) ≠ 0 ∧ ∀ k, k < c.rb → w.wr (61 + k) = 0)) ∧
    (good → w.actives ≠ [] → ¬(w.lvGnt = true ∧ w.lvCls = mmaLeave m) → w.hold = none → ∃ t, exec i s = .next t ∧ t.cores = s.cores ∧
      (t.wv s.cur).pc = w.pc ∧ (t.wv s.cur).hold ≠ none ∧ (t.wv s.cur).lvCls = mmaLeave m ∧
      (t.wv s.cur).lvGnt = s.coreHolds w.core (mmaLeave m) ∧ ((aget t.sectors (w.core / 32)).getD {}).reqs =
        (((aget s.sectors (w.core / 32)).getD {}).reqs.filter (fun p => p.1 ≠ s.cur || decide (8 ≤ p.2))) ++
          (if s.coreHolds w.core (mmaLeave m) then [] else [(s.cur, mmaLeave m)]))) ∧
  (∀ (s : State) (wide : Bool) (d a : Code),
    let i : Instr := if wide then .scaccF64 d a else .scaccF32 d a
    let w := s.w
    let P := (w.wr a.toNat).toNat
    let sa := (w.wr (a.toNat + 1)).toNat
    let sb := (w.wr (a.toNat + 2)).toNat
    let C := (w.ws d).toNat
    let ranges := [(P, 96 * 512), (sa, 96), (sb, 32), (C, if wide then 96 * 256 else 96 * 128)]
    s.issues i → w.quant = 0 →
    (P % 128 ≠ 0 → exec i s = .next (s.trap (.xlat 0x03 P))) ∧
    (P % 128 = 0 → C % 128 ≠ 0 → exec i s = .next (s.trap (.xlat 0x03 C))) ∧
    (∀ r, P % 128 = 0 → C % 128 = 0 → ranges.find? (fun r => decide (s.cr.lsLen < r.1 + r.2)) = some r → exec i s = .next (s.trap (.xlat 0x04 r.1))) ∧
    (P % 128 = 0 → C % 128 = 0 → (∀ r ∈ ranges, r.1 + r.2 ≤ s.cr.lsLen) →
      (w.actives = [] → s.moves w.past (exec i s)) ∧
      (w.actives ≠ [] → w.inflight = [] → w.ec < 63 → s.queueRoom →
        s.sends (exec i s) (fun c => c.minor = (if wide then 0x21 else 0x20) ∧ c.aBase = P ∧ c.aScale = sa ∧ c.bScale = sb ∧ c.c = C ∧
          c.kstep < 32 ∧ c.rb < 3 ∧ w.act (32 * c.rb + c.kstep) = true ∧ ∀ r, r < 32 * c.rb + c.kstep → w.act r = false))))

/-- R314-R319, R321: a step of an `mma` whose reads succeed writes each row of its block whole, changes no other thread's `fsr`, and moves to
the next place; no other byte of the local store changes. A read that faults leaves everything as it was but for the report, and the command
stays at its place, held. A step of an `mmaf` posts its rows' arrivals in order. A `scacc` writes one row and moves to the next active one.
The flags of a row go into its thread's `fsr` (R84). A chunk is rounded once, its NaN and infinity rules are those of R317, and so are those
of the drain of a row into C (R318). -/
def Obligations.MatrixStepsDrainWholeRows : Prop :=
  (∀ (s : State) (core k : Nat) (c : MatCmd) (s1 : State) (rows : List StepRow), s.runs_ core k c → c.minor < 0x10 → (c.kstep, c.rb) ∈ c.places →
    s.arriving c.grp = false → (if 4 ≤ c.minor then mxStep c else floatStep c) s = .ok (rows, s1) →
    let crew := s.crewId c.wave
    let n := mmaRowBytes c.minor
    (s1.crewOf crew).lsBad = [] → (s1.crewOf crew).ls.wf = true →
    ∃ t, exec (.matrixStep core k) s = .next t ∧ s.moved t core k c c.following ∧ t.hbm = s1.hbm ∧ t.llc = s1.llc ∧
      rows.map (·.r) = c.rows c.rb ∧
      (∀ row ∈ rows, (t.crewOf crew).ls.read (c.c + n * row.r) n = (if 4 ≤ c.minor then row.sums
          else (drainRow c.minor (c.zc && decide (c.kstep = 0)) ((s1.crewOf crew).ls.read (c.c + n * row.r) n) row.vals).1)) ∧
      (∀ x, (∀ r ∈ c.rows c.rb, x < c.c + n * r ∨ c.c + n * (r + 1) ≤ x) → (t.crewOf crew).ls.get x = (s1.crewOf crew).ls.get x) ∧
      (∀ row ∈ rows, (t.wv c.wave).fsr.at row.r = (s.wv c.wave).fsr.at row.r ||| (if 4 ≤ c.minor then 0 else
        (drainRow c.minor (c.zc && decide (c.kstep = 0)) ((s1.crewOf crew).ls.read (c.c + n * row.r) n) row.vals).2).setWidth 32) ∧
      (∀ r, r ∉ c.rows c.rb → (t.wv c.wave).fsr.at r = (s.wv c.wave).fsr.at r) ∧ (t.wv c.wave).faults = (s.wv c.wave).faults) ∧
  (∀ (s : State) (core k kd a : Nat) (c : MatCmd), s.runs_ core k c → c.minor < 0x20 → (s.gridOf c.wave.g).ending = false →
    (s.wv c.wave).exited = false → (if 4 ≤ c.minor % 16 then mxStep c else floatStep c) s = .error (.xlat kd a) →
    ∃ t, exec (.matrixStep core k) s = .next t ∧ (t.coreOf core).mq = (s.coreOf core).mq.set k { c with held := true } ∧ t.crews = s.crews ∧
      t.arrivals = s.arrivals ∧ (t.wv c.wave) = { s.wv c.wave with faults := (s.wv c.wave).faults ++ [⟨0x07, 2 * 32 + kd, a⟩] }) ∧
  (∀ (s : State) (core k : Nat) (c : MatCmd) (s1 : State) (rows : List StepRow), s.runs_ core k c → 0x10 ≤ c.minor → c.minor < 0x20 → (s.wv c.wave).quant = 0 →
    (if 4 ≤ c.minor % 16 then mxStep c else floatStep c) s = .ok (rows, s1) → (∀ row ∈ rows, ∀ p ∈ row.tgt, p.2.ap = true) → rows ≠ [] →
    ∃ t new, exec (.matrixStep core k) s = .next t ∧ t.crews = s1.crews ∧ t.arrivals = s.arrivals ++ new ∧
      new.map (fun n => (n.va, n.pa, n.val)) = rows.flatMap (fun row => (row.tgt.zip row.arrs).map (fun p => (p.1.1, p.1.2.pa, p.2))) ∧
      (∀ n ∈ new, n.wave = c.wave ∧ n.grp = c.grp) ∧ ∀ row ∈ rows, (t.wv c.wave).fsr.at row.r =
        (s.wv c.wave).fsr.at row.r ||| (row.vals.foldl (fun (f : FFlags) v => f ||| v.2) 0).setWidth 32) ∧
  (∀ (s : State) (core k : Nat) (c : MatCmd), s.runs_ core k c → (c.minor = 0x20 ∨ c.minor = 0x21) → c.kstep < 32 → c.rb < 3 →
    c.rowAct (32 * c.rb + c.kstep) = true → s.arriving c.grp = false → (s.crewOf (s.crewId c.wave)).lsBad = [] → (s.crewOf (s.crewId c.wave)).ls.wf = true →
    let F := if c.minor = 0x21 then f64 else f32
    let e := if c.minor = 0x21 then 8 else 4
    let r := 32 * c.rb + c.kstep
    let ls := (s.crewOf (s.crewId c.wave)).ls
    let el := fun (j : Nat) => scaccAdd F (leNat (ls.read (c.c + 32 * e * r + e * j) e)) (leNat (ls.read (c.aBase + 512 * r + 16 * j) 16))
      (leNat (ls.read (c.aScale + r) 1)) (ls.get (c.bScale + j)).toNat
    ∃ t, exec (.scaccRow core k) s = .next t ∧
      s.moved t core k c (((List.range 96).find? (fun q => decide (r < q) && c.rowAct q)).map (fun q => (q % 32, q / 32))) ∧
      (∀ j, j < 32 → (t.crewOf (s.crewId c.wave)).ls.read (c.c + 32 * e * r + e * j) e = leBytes e (el j).1) ∧
      (∀ x, (x < c.c + 32 * e * r ∨ c.c + 32 * e * (r + 1) ≤ x) → (t.crewOf (s.crewId c.wave)).ls.get x = ls.get x) ∧
      (t.wv c.wave).fsr.at r = (s.wv c.wave).fsr.at r ||| ((List.range 32).foldl (fun (f : FFlags) j => f ||| (el j).2) 0).setWidth 32 ∧
      (∀ q, q ≠ r → (t.wv c.wave).fsr.at q = (s.wv c.wave).fsr.at q)) ∧
  (∀ (F : Fmt) (ps : List (FVal × FVal)) (acc : Option Nat),
    let terms := ps.map (fun p => p.1.mul p.2) ++ (match acc with | some x => [F.val x] | none => [])
    (∀ p ∈ ps, p.1.isN = false ∧ p.2.isN = false ∧ infTimesZero p.1 p.2 = false) → (∀ x, acc = some x → F.isNaN x = false) →
    (terms.contains (.inf true) = true → terms.contains (.inf false) = true → chunkSum F ps acc = (F.defNaN, fNV)) ∧
    (∀ n, terms.contains (.inf n) = true → terms.contains (.inf (!n)) = false → chunkSum F ps acc = (F.inf n, 0)) ∧
    (terms.contains (.inf true) = false → terms.contains (.inf false) = false → chunkSum F ps acc = F.roundSum .rne (terms.map FVal.term))) ∧
  (∀ (F : Fmt) (ps : List (FVal × FVal)) (acc : Option Nat),
    let spoils := fun (p : FVal × FVal) => p.1.isN || p.2.isN || infTimesZero p.1 p.2
    let terms := (ps.filter (fun p => !spoils p)).map (fun p => p.1.mul p.2) ++
      (match acc with | some x => if F.isNaN x then [] else [F.val x] | none => [])
    ((∃ p ∈ ps, spoils p = true) ∨ ∃ x, acc = some x ∧ F.isNaN x = true) →
    (chunkSum F ps acc).1 = F.defNaN ∧
      ((∃ p ∈ ps, p.1.isS = true ∨ p.2.isS = true ∨ infTimesZero p.1 p.2 = true) ∨ ((.inf true) ∈ terms ∧ (.inf false) ∈ terms) →
        (chunkSum F ps acc).2 = fNV) ∧
      ((∀ p ∈ ps, p.1.isS = false ∧ p.2.isS = false ∧ infTimesZero p.1 p.2 = false) → ¬ ((.inf true) ∈ terms ∧ (.inf false) ∈ terms) →
        (chunkSum F ps acc).2 = 0)) ∧
  (∀ (m : Nat) (first : Bool) (old : List Byte) (vals : List (Nat × FFlags)), m < 4 → vals.length = 32 →
    let F := mmStep m
    let e := (F.mag + 1) / 8
    let C := fun (j : Nat) => leNat ((old.drop (e * j)).take e)
    let d := fun (j : Nat) (v : Nat × FFlags) => if first then (v.1, 0)
      else if F.isNaN (C j) || F.isNaN v.1 then (F.defNaN, if F.isNaN (C j) && !((C j).testBit (F.fb - 1)) then fNV else 0)
      else match F.val (C j), F.val v.1 with
        | .inf n, .inf k => if n = k then (F.inf n, 0) else (F.defNaN, fNV)
        | .inf n, _ | _, .inf n => (F.inf n, 0)
        | x, y => F.roundSum .rne [x.term, y.term]
    drainRow m first old vals = ((vals.zip (List.range 32)).flatMap (fun p => leBytes e (d p.2 p.1).1),
      (vals.zip (List.range 32)).foldl (fun (f : FFlags) p => f ||| (p.1.2 ||| (d p.2 p.1).2)) 0))

/-- R322-R325: `cvtmx` writes the codes of the active threads, the three scales to W(b+1) and the maxima to `amxn`, and raises its flags without
a trap; `dqmx` writes RoundTo(f32) of the element times its scale; `amxrd` reads a maximum register, or `mrp`, the next step of the wave's
oldest command that has one; `amxclr` clears one; a selector out of range is illegal state 0x51. None shifts the latches. -/
def Obligations.QuantizersAndMaximaWriteTheirResult : Prop :=
  (∀ (i : Instr) (s : State) (k : Nat) (d a b : Code), cvtmxForm i = some (k, d, a, b) → s.issues i →
    let w := s.w
    let n := (w.wr b.toNat).toNat
    let X := fun (t : Nat) => blockScale k (w.largest a (beatThreads (t / 32)))
    let f := fun (t : Nat) => mxRound k .rne ((f32.val (w.vr a t).toNat).scale (-(X t)))
    let sc := fun (beat : Nat) => if (beatThreads beat).any w.act then (X (32 * beat) + 127).toNat else 0
    (4 ≤ n → exec i s = .next (s.trap (.state 0x51))) ∧
    (n < 4 → s.ends (exec i s) (fun x => w.Retired x w.past ∧ w.RowSet x true d.toNat (fun t => BitVec.ofNat 32 (f t).1) ∧
      w.FlagsSet x w.act (fun t => (f t).2) ∧ w.RegSet x true (b.toNat + 1) (BitVec.ofNat 32 (sc 0 + sc 1 * 2 ^ 8 + sc 2 * 2 ^ 16)) ∧ w.Unshifted x ∧
      (∀ m, m ≠ n → x.amx.getD m 0 = w.amx.getD m 0) ∧
      (x.amx.getD n 0).toNat % 2 ^ 31 = max ((w.amx.getD n 0).toNat % 2 ^ 31) (w.largest a (List.range 96)) ∧
      (x.amx.getD n 0).getLsbD 31 = ((w.amx.getD n 0).getLsbD 31 || w.actives.any (fun t => f32.isNaN (w.vr a t).toNat)) ∧
      ({ x with v := [], badRows := [], w := [], fsr := [], amx := [] } : Wave).sansPc = ({ w with v := [], badRows := [], w := [], fsr := [], amx := [] } : Wave).sansPc))) ∧
  (∀ (i : Instr) (s : State) (k : Nat) (d a b : Code), dqmxForm i = some (k, d, a, b) → s.issues i →
    let w := s.w
    let f := fun (t : Nat) => scaledElement k ((w.vr a t).toNat % 2 ^ [8, 8, 6, 6, 4, 8].getD k 8) ((w.ws b).toNat / 2 ^ (8 * (t / 32)) % 2 ^ 8)
    s.ends (exec i s) (fun x => w.Retired x w.past ∧ w.RowSet x true d.toNat (fun t => BitVec.ofNat 32 (f t).1) ∧ w.FlagsSet x w.act (fun t => (f t).2) ∧
      w.Unshifted x ∧ ({ x with v := [], badRows := [], fsr := [] } : Wave).sansPc = ({ w with v := [], badRows := [], fsr := [] } : Wave).sansPc)) ∧
  (∀ (s : State) (d a : Code), s.issues (.amxrd d a) →
    let n := (s.w.ws a).toNat
    let oldest := ((s.coreOf s.w.core).mq ++ s.cr.cmds).find? (fun c => c.wave = s.cur)
    let mrp := match oldest with | some c => 2 ^ 31 + c.kstep * 2 ^ 16 + c.rb | none => 0
    (4 < n → exec (.amxrd d a) s = .next (s.trap (.state 0x51))) ∧
    (n ≤ 4 → (n = 4 → ∀ c, oldest = some c → c.over = false) → s.ends (exec (.amxrd d a) s) (fun x => s.w.Retired x s.w.past ∧
      s.w.RegSet x true d.toNat (if n = 4 then BitVec.ofNat 32 mrp else s.w.amx.getD n 0) ∧ s.w.Unshifted x ∧ s.w.OnlyRegs x))) ∧
  (∀ (s : State) (a : Code), s.issues (.amxclr a) →
    let n := (s.w.ws a).toNat
    (3 < n → exec (.amxclr a) s = .next (s.trap (.state 0x51))) ∧
    (n ≤ 3 → s.ends (exec (.amxclr a) s) (fun x => s.w.Retired x s.w.past ∧ (∀ m, x.amx.getD m 0 = if m = n then 0 else s.w.amx.getD m 0) ∧
      ({ x with amx := [] } : Wave).sansPc = ({ s.w with amx := [] } : Wave).sansPc)))

/-- R201, R213, R219, R222-R224: `fdef` reads a descriptor, checks it and its table, and posts the definition to all twelve stores; `finv` posts
an invalidation to all twelve; `fstat` reads a counter; `fpre` posts every record that it does not reject, and counts the others. Each
raises the illegal-state trap of its table entry where its operands are not legal, and none changes a register but `fstat`. That a
misaligned TABLE is reported after every other field of the descriptor is the model's choice (log 68). -/
def Obligations.FunctionStoreInstructionsPost : Prop :=
  (∀ bs : List Byte, bs.length = 352 → (descFault bs = none ↔ descriptorLegal bs)) ∧
  (∀ (s : State) (a b : Code), s.issues (.fdef a b) → s.w.quant = 0 → s.w.inflight = [] →
    let fid := (s.w.ws b).toNat
    let va := (s.w.ws2 a).toNat
    (255 < fid → exec (.fdef a b) s = .next (s.trap (.state 0x33))) ∧
    (∀ tr, fid ≤ 255 → s.uniRead va 352 64 = .error tr → exec (.fdef a b) s = .next (s.trap tr)) ∧
    (∀ bs r, fid ≤ 255 → s.uniRead va 352 64 = .ok (bs, r) →
      (∀ o, descFault bs = some o → exec (.fdef a b) s = .next (r.trap { cls := 0x02, sub := 0x36, tval := some ((va + o) % 2 ^ 64) })) ∧
      (∀ tr, descFault bs = none → r.tableFault (s.ctxN s.cur.g) (FDesc.parse bs) = some tr → exec (.fdef a b) s = .next (r.trap tr) ∧
        let f := FDesc.parse bs
        let illegal := fun (p : Nat) => tr = { cls := 0x02, sub := 0x36, tval := some p }
        (f.table % 2 ^ 16 ≠ 0 → illegal f.table) ∧
        (f.table % 2 ^ 16 = 0 → ∃ i k, 2 ^ 16 * i < 2 ^ f.lognb * 8 * f.size ∧ r.tableAt (s.ctxN s.cur.g) (f.table + i * 2 ^ 16) = .error k ∧
          (∀ j, j < i → ∃ l, r.tableAt (s.ctxN s.cur.g) (f.table + j * 2 ^ 16) = .ok l) ∧
          (if k = 0x06 then tr = { cls := 0x01, sub := 0x06, tval := some (f.table + i * 2 ^ 16) } else illegal (f.table + i * 2 ^ 16)))) ∧
      (descriptorLegal bs → bs.length = 352 → r.tableFault (s.ctxN s.cur.g) (FDesc.parse bs) = none → s.w.fl < 63 →
        s.postsFs r (exec (.fdef a b) s) (fun t new => t.ctxs = s.ctxs ∧
          new.map (fun o => (o.fid, o.stores, o.kind)) = [(fid, List.range 12, .define (FDesc.parse bs))])))) ∧
  (∀ (s : State) (b : Code), s.issues (.finv b) → s.w.quant = 0 →
    let fid := (s.w.ws b).toNat
    let known := fid ≤ 255 ∧ (s.fent (s.ctxN s.cur.g) fid).defined = true
    (¬ known → exec (.finv b) s = .next (s.trap (.state 0x33))) ∧
    (known → s.w.fl < 63 → s.postsFs s (exec (.finv b) s) (fun t new => t.ctxs = s.ctxs ∧
      new.map (fun o => (o.fid, o.stores, o.kind)) = [(fid, List.range 12, .invalidate)]))) ∧
  (∀ (s : State) (d a b : Code), s.issues (.fstat d a b) →
    let fid := (s.w.ws a).toNat
    let sel := (s.w.ws b).toNat
    let known := fid ≤ 255 ∧ (s.fent (s.ctxN s.cur.g) fid).defined = true
    (7 < sel → exec (.fstat d a b) s = .next (s.trap (.state 0x37))) ∧
    (sel ≤ 7 → ¬ known → exec (.fstat d a b) s = .next (s.trap (.state 0x33))) ∧
    (sel ≤ 7 → known → s.ends (exec (.fstat d a b) s) (fun x => s.w.Retired x s.w.past ∧
      s.w.RegPairSet x d.toNat (BitVec.ofNat 64 (s.fsCounter (s.ctxN s.cur.g) fid sel)) ∧ s.w.Unshifted x ∧ s.w.OnlyRegs x))) ∧
  (∀ (s : State) (a b : Code), s.issues (.fpre a b) → s.w.quant = 0 → s.w.inflight = [] →
    let c := (s.w.ws b).toNat
    let fid := c % 2 ^ 8
    let m := c / 2 ^ 16
    let ctx := s.ctxN s.cur.g
    let f := (s.fent ctx fid).desc
    let va := (s.w.ws2 a).toNat
    (c / 2 ^ 8 % 2 ^ 8 ≠ 0 → exec (.fpre a b) s = .next (s.trap (.state 0x38))) ∧
    (c / 2 ^ 8 % 2 ^ 8 = 0 → (s.fent ctx fid).defined = false → exec (.fpre a b) s = .next (s.trap (.state 0x33))) ∧
    (c / 2 ^ 8 % 2 ^ 8 = 0 → (s.fent ctx fid).defined = true →
      (∀ tr, s.uniRead va (m * f.size) 64 = .error tr → exec (.fpre a b) s = .next (s.trap tr)) ∧
      (∀ bs r, s.uniRead va (m * f.size) 64 = .ok (bs, r) → s.w.fl < 63 → s.fsCounted ctx fid →
        s.postsFs r (exec (.fpre a b) s) (fun t new =>
          let made := (List.range m).map (fun i => s.fpreOne fid f ((bs.drop (i * f.size)).take f.size))
          new.map (·.kind) = (made.filter (fun o => !o.stores.isEmpty)).map (·.kind) ∧ (∀ o ∈ new, o.fid = fid ∧ o.stores.length = 1) ∧
          t.fsCounter ctx fid 6 = (s.fsCounter ctx fid 6 + (m - new.length)) % 2 ^ 64 ∧ ∀ k, k < 6 → t.fsCounter ctx fid k = s.fsCounter ctx fid k))))

/-- R209, R210, R213, R217, R220, R221, R225: `fcall` searches for every active thread, an argument that is not storable being a miss; with
every search answered, hit threads take their values, the counters and the increments follow, and the misses run ROUTINE under their own
mask behind an FCALL token and a frame. Behind a definition, an invalidation or a preload of its FID that its wave holds in a deterministic
grid it stops the wave for the round (the model's choice of log 57). ROUTINE is taken modulo 2^49 (the model's choice of log 29). `fret`
gives each active miss thread its values, posts the inserts of those that may be inserted, counts the others, those of inactive miss threads
too (the model's choice of log 56), and goes on at the token's address under its mask. -/
def Obligations.FcallAndFretServeMisses : Prop :=
  (∀ (s : State) (d a b : Code), s.issues (.fcall d a b) → s.w.quant ≠ 0 → s.w.search = none → s.w.sup = false → s.w.frame = none →
    s.w.holdsRemake (s.w.ws b).toNat = true → exec (.fcall d a b) s = .next (s.setW { s.w with stopped := some .full })) ∧
  (∀ (s : State) (d a b : Code), s.issues (.fcall d a b) → s.w.quant = 0 → s.w.buf = [] → (∀ o ∈ s.fsOps, o.wave ≠ s.cur) →
    let w := s.w
    let i : Instr := .fcall d a b
    let ctx := s.ctxN s.cur.g
    let fid := (w.ws b).toNat
    let e := s.fent ctx fid
    let f := e.desc
    let n := if f.f64 then 2 else 1
    let known := fid ≤ 255 ∧ e.defined = true
    let placed := (n = 2 → a.toNat % 2 = 0 ∧ d.toNat % 2 = 0) ∧ w.wbase + a.toNat + n * f.d ≤ w.alloc ∧ w.wbase + d.toNat + n * f.k ≤ w.alloc
    let counts := fun (t : State) (fid h m : Nat) => t.fsCounter ctx fid 0 = (s.fsCounter ctx fid 0 + h) % 2 ^ 64 ∧
      t.fsCounter ctx fid 1 = (s.fsCounter ctx fid 1 + m) % 2 ^ 64
    let sent := fun (t : State) (fid : Nat) (hs : List Search1) => ∃ new, t.fsOps = s.fsOps ++ new ∧ new.map (fun o => (o.wave, o.fid, o.stores, o.kind)) =
      hs.filterMap (fun x => match x.res with | some (some r) => some (s.cur, fid, [x.bucket % 12], FsKind.increment x.bucket r.1 r.2.1) | _ => none)
    (w.search = none → w.sup = true → exec i s = .next (s.trap (.state 0x35))) ∧
    (w.search = none → w.sup = false → w.frame ≠ none → exec i s = .next (s.trap (.state 0x30))) ∧
    (w.search = none → w.sup = false → w.frame = none → ¬ known → exec i s = .next (s.trap (.state 0x33))) ∧
    (w.search = none → w.sup = false → w.frame = none → known → ¬ placed → exec i s = .next (s.trap (.state 0x34))) ∧
    (w.search = none → w.sup = false → w.frame = none → known → placed → w.badRows = [] →
      (w.actives = [] → s.moves w.past (exec i s)) ∧
      (w.actives ≠ [] → w.hold = none → (∃ t ∈ w.actives, (f.cells (w.elements (w.wbase + a.toNat) n f.d t)).isSome = true) →
        s.ends (exec i s) (fun x => x.pc = w.pc ∧ x.hold ≠ none ∧ x = { w with hold := x.hold, search := x.search } ∧ ∃ q, x.search = some q ∧ q.fid = fid ∧ q.gen = e.gen ∧
          q.desc = f ∧ q.err = none ∧ q.list.map (·.t) = w.actives ∧ ∀ y ∈ q.list, y.x = w.elements (w.wbase + a.toNat) n f.d y.t ∧
            (match f.cells y.x with
              | some cs => y.storable = true ∧ y.bucket = f.bucket fid cs ∧ y.res = none
              | none => y.storable = false ∧ y.res = some none)))) ∧
    (∀ q, w.sup = false → w.frame = none → w.search = some q → q.err = none → (∀ y ∈ q.list, y.res.isSome = true) → (q.list.map (·.t)).Nodup →
        (∀ y ∈ q.list, y.t < threads ∧ ∀ r, y.res = some (some r) → r.2.2.length = q.desc.k) → s.fsCounted ctx q.fid →
        let f := q.desc
        let n := if f.f64 then 2 else 1
        let value := fun (t : Nat) => (q.list.find? (fun y => decide (y.t = t))).bind (fun y => (y.res.bind id).map (·.2.2))
        let miss := q.list.filter (fun y => decide (y.res = some none))
        let tok : Token := ⟨2, w.past.toNat, w.wr 61, w.wr 62, w.wr 63⟩
        (miss = [] → ∃ t, exec i s = .next t ∧ w.Retired t.w w.past ∧ w.HasElems t.w (w.wbase + d.toNat) n value ∧ (∀ k, t.w.wr k = w.wr k) ∧
          t.w.tokens = w.tokens ∧ t.w.frame = none ∧ t.w.sansCall = w.sansCall ∧ t.w.wbase = w.wbase ∧ t.w.fl = w.fl ∧ counts t q.fid q.list.length 0 ∧
          sent t q.fid q.list) ∧
        (miss ≠ [] → 32 + s.cr.tokLen / 32 ≤ w.tokens.length + w.spilled → exec i s = .next (s.trap (.state 0x10))) ∧
        (miss ≠ [] → w.tokens.length < 32 → w.tokens.length + w.spilled < 32 + s.cr.tokLen / 32 → ∃ t, exec i s = .next t ∧
          w.Retired t.w (BitVec.ofNat 49 f.routine) ∧ w.HasElems t.w (w.wbase + d.toNat) n value ∧ t.w.maskIs (miss.map (·.t)) ∧
          (∀ k, k < 61 → t.w.wr k = w.wr k) ∧ t.w.tokens = tok :: w.tokens ∧ t.w.wbase = w.wbase ∧ t.w.fl = w.fl ∧ t.w.sansCall = w.sansCall ∧
          t.w.frame = some ⟨q.fid, q.gen, f.d, f.k, f.f64, miss.map (·.t), (miss.filter (fun y => !y.storable)).map (·.t), w.wbase + d.toNat,
            w.wbase + a.toNat, w.wbase⟩ ∧
          counts t q.fid (q.list.length - miss.length) miss.length ∧ sent t q.fid q.list))) ∧
  (∀ (s : State) (a b : Code), s.issues (.fret a b) → s.w.quant = 0 →
    let w := s.w
    let i : Instr := .fret a b
    let ctx := s.ctxN s.cur.g
    (w.sup = true → exec i s = .next (s.trap (.state 0x35))) ∧
    (w.sup = false → w.frame = none → exec i s = .next (s.trap (.state 0x31))) ∧
    (w.sup = false → w.frame ≠ none → w.tokens = [] → w.spilled = 0 → exec i s = .next (s.trap (.state 0x32))) ∧
    (∀ tok ts, w.sup = false → w.frame ≠ none → w.tokens = tok :: ts → tok.kind ≠ 2 → exec i s = .next (s.trap (.state 0x32))) ∧
    (∀ fr tok ts, w.sup = false → w.frame = some fr → w.tokens = tok :: ts → tok.kind = 2 →
      let n := if fr.f64 then 2 else 1
      let F := if fr.f64 then f64 else f32
      let f := (s.fent ctx fr.fid).desc
      let val := fun (t : Nat) => w.elements (w.wbase + a.toNat) n fr.k t
      let jac := fun (t : Nat) => w.elements (w.wbase + b.toNat) n (fr.k * fr.d) t
      let placed := (n = 2 → a.toNat % 2 = 0 ∧ b.toNat % 2 = 0) ∧ w.wbase + a.toNat + n * fr.k ≤ w.alloc ∧ w.wbase + b.toNat + n * (fr.k * fr.d) ≤ w.alloc
      (¬ placed → exec i s = .next (s.trap (.state 0x34))) ∧
      (placed → w.badRows = [] → w.fl < 63 → fr.miss.Nodup → s.fsCounted ctx fr.fid → ∃ t new, exec i s = .next t ∧
        w.Retired t.w (BitVec.ofNat 49 tok.addr) ∧ t.w.Masked tok.mask ∧ (∀ k, k < 61 → t.w.wr k = w.wr k) ∧ t.w.wbase = fr.wbase ∧
        t.w.frame = none ∧ t.w.tokens = ts ∧ t.w.sansCall = w.sansCall ∧
        w.HasElems t.w fr.dRow n (fun k => if fr.miss.contains k && w.act k then some (val k) else none) ∧
        (let arg := fun (k : Nat) => t.w.elements fr.aRow n fr.d k
         let inserted := fr.miss.filter (fun k => w.act k && !fr.unst.contains k && (val k ++ jac k).all (fun c => (realOf F c).isSome) && (f.cells (arg k)).isSome)
         t.fsOps = s.fsOps ++ new ∧ new.map (fun o => (o.fid, o.stores, o.kind)) = inserted.map (fun k =>
           let bk := f.bucket fr.fid ((f.cells (arg k)).getD [])
           (fr.fid, [bk % 12], .insert fr.gen bk (arg k) (val k) (jac k))) ∧
         t.w.fl = w.fl + (if inserted = [] then 0 else 1) ∧
         t.fsCounter ctx fr.fid 6 = (s.fsCounter ctx fr.fid 6 + (fr.miss.length - inserted.length)) % 2 ^ 64))))

/-- R200, R206, R207, R211-R213, R219, R222-R224: a search takes the lowest valid way that contains the argument, or misses, as it does when its
function has been defined anew since; an increment reaches the record that the search named, or none; an insert is rejected, covered, grows
the lowest record of its cell that is close enough, its half-widths reaching the argument, or takes the way of R211; a preload takes that
way; a definition or an invalidation raises GEN at each store, and at the core with the last; a spilled bucket keeps its records. -/
def Obligations.FunctionStoresApplyOperations : Prop :=
  (∀ (s : State) (g wv t : Nat) (q : Searching) (y : Search1) (ways : List (Option FRec)) (cs : List Int),
    let id : WaveId := ⟨g, wv⟩
    let ctx := s.ctxN g
    let f := q.desc
    let gen := (aget s.storeGen (ctx, q.fid, y.bucket % 12)).getD 0
    let holds := fun (k : Nat) (r : FRec) => ways.getD k none = some r ∧ r.gen = gen ∧ f.contains r y.x cs = true
    let answer := fun (o : Out) (a : Option (Nat × Nat × List Nat)) => ∃ u, o = .next u ∧ (∀ j, j ≠ id → u.wv j = s.wv j) ∧ u.bucketIs ctx q.fid y.bucket ways ∧
      u.fsOps = s.fsOps ∧ u.wv id = { s.wv id with search := some { q with list := q.list.map (fun z => if z.t = t then { z with res := some a } else z) } }
    (s.wv id).search = some q → q.list.find? (fun z => decide (z.t = t) && z.res.isNone) = some y → (∀ o ∈ s.fsOps, o.wave ≠ id) →
    s.bucketIs ctx q.fid y.bucket ways → f.cells y.x = some cs → (∀ k r, ways.getD k none = some r → r.bad = false) →
    (f ≠ (s.fent ctx q.fid).desc → answer (exec (.fsSearch g wv t) s) none) ∧
    (∀ k r, f = (s.fent ctx q.fid).desc → k < 8 → holds k r → (∀ j r', j < k → ¬ holds j r') → answer (exec (.fsSearch g wv t) s) (some (k, r.rid, f.hit r y.x))) ∧
    ((∀ k r, k < 8 → ¬ holds k r) → answer (exec (.fsSearch g wv t) s) none)) ∧
  (∀ (s : State) (o : FsOp) (os : List FsOp) (st b way rid : Nat) (ways : List (Option FRec)), s.firstOp o st os → o.kind = .increment b way rid →
    st = b % 12 → s.bucketIs o.ctx o.fid b ways → ∃ t, exec (.fsHitIncrement 0) s = .next t ∧ t.fsOps = os ∧ t.waves = s.waves ∧
      (∀ r, ways.getD way none = some r → r.rid = rid → r.gen = (aget s.storeGen (o.ctx, o.fid, st)).getD 0 →
        t.bucketIs o.ctx o.fid b (ways.set way (some { r with hits := min (r.hits + 1) 0xFFFFFFFF }))) ∧
      ((∀ r, ways.getD way none = some r → r.rid ≠ rid) → t.bucketIs o.ctx o.fid b ways)) ∧
  (∀ (s : State) (o : FsOp) (os : List FsOp) (st gen b : Nat) (x v jac : List Nat) (cs : List Int) (ways : List (Option FRec)), s.firstOp o st os →
    o.kind = .insert gen b x v jac → st = b % 12 → s.bucketIs o.ctx o.fid b ways → ways.length = 8 → s.fsCounted o.ctx o.fid →
    let f := (s.fent o.ctx o.fid).desc
    let now := (aget s.storeGen (o.ctx, o.fid, st)).getD 0
    let valid := fun (k : Nat) (r : FRec) => k < 8 ∧ ways.getD k none = some r ∧ r.gen = now
    let done := fun (t : State) => t.fsOps = os ∧ (t.wv o.wave).fl = (s.wv o.wave).fl - 1
    let grows := fun (r : FRec) => f.cells r.c = some cs ∧ ∀ j, j < f.k → f.close j ((f.hit r x).getD j 0) (v.getD j 0) = true
    f.cells x = some cs → ∃ t, exec (.fsInsert 0) s = .next t ∧ done t ∧
      (gen ≠ now → s.rose t o.ctx o.fid [6] ∧ t.bucketIs o.ctx o.fid b ways) ∧
      (∀ k r, gen = now → valid k r → f.contains r x cs = true → s.rose t o.ctx o.fid [5] ∧ t.bucketIs o.ctx o.fid b ways) ∧
      (∀ k r, gen = now → (∀ j r', valid j r' → f.contains r' x cs = false) → valid k r → grows r → (∀ j r', j < k → valid j r' → ¬ grows r') →
        s.rose t o.ctx o.fid [3] ∧ ∃ r', t.bucketIs o.ctx o.fid b (ways.set k (some r')) ∧ r' = { r with rho := r'.rho } ∧ r'.rho.length = f.d ∧
          ∀ i, i < f.d → r'.rho.getD i 0 = f.larger (r.rho.getD i 0) (f.reach (x.getD i 0) (r.c.getD i 0))) ∧
      (∀ k, gen = now → (∀ j r', valid j r' → f.contains r' x cs = false ∧ ¬ grows r') → takesWay now ways k →
        (∃ ev : Bool, (ev = true ↔ ∀ j, j < 8 → ∃ r, valid j r) ∧ s.rose t o.ctx o.fid (if ev then [2, 4] else [2])) ∧ ∃ r, t.bucketIs o.ctx o.fid b (ways.set k (some r)) ∧
          r.c = x ∧ r.f0 = v ∧ r.jac = jac ∧ r.hits = 0 ∧ r.gen = now ∧ r.age = (aget s.fsCount st).getD 0 ∧ r.bad = false ∧ r.rho = f.radii)) ∧
  (∀ (s : State) (o : FsOp) (os : List FsOp) (st b hits k : Nat) (c rho f0 jac : List Nat) (ways : List (Option FRec)), s.firstOp o st os →
    o.kind = .preload b hits c rho f0 jac → st = b % 12 → s.bucketIs o.ctx o.fid b ways → ways.length = 8 → s.fsCounted o.ctx o.fid →
    takesWay ((aget s.storeGen (o.ctx, o.fid, st)).getD 0) ways k →
    ∃ t r, exec (.fsPreloadPlacement 0) s = .next t ∧ t.fsOps = os ∧ (t.wv o.wave).fl = (s.wv o.wave).fl - 1 ∧
      t.bucketIs o.ctx o.fid b (ways.set k (some r)) ∧ r.c = c ∧ r.rho = rho ∧ r.f0 = f0 ∧ r.jac = jac ∧ r.hits = hits ∧
      r.gen = (aget s.storeGen (o.ctx, o.fid, st)).getD 0 ∧ t.fsCounter o.ctx o.fid 2 = (s.fsCounter o.ctx o.fid 2 + 1) % 2 ^ 64) ∧
  (∀ (s : State) (o : FsOp) (os : List FsOp) (st : Nat) (f : FDesc) (def_ : Bool), s.fsOps = o :: os → o.stores.Nodup → st ∈ o.stores →
    (∀ p ∈ os, p.grp ≠ o.grp) → o.kind = (if def_ then .define f else .invalidate) → (aget s.storeGen (o.ctx, o.fid, st)).getD 0 + 1 < 2 ^ 32 →
    let i : Instr := if def_ then .fsDefinitionApply 0 st else .fsInvalidationApply 0 st
    let e := s.fent o.ctx o.fid
    ∃ t, exec i s = .next t ∧ aget t.storeGen (o.ctx, o.fid, st) = some ((aget s.storeGen (o.ctx, o.fid, st)).getD 0 + 1) ∧
      (∀ k, k ≠ (o.ctx, o.fid, st) → aget t.storeGen k = aget s.storeGen k) ∧
      (∀ c k b, aget t.buckets (c, k, b) = if def_ = true ∧ c = o.ctx ∧ k = o.fid ∧ (b % 12 = st ∨ o.stores = [st]) then none
        else aget s.buckets (c, k, b)) ∧
      (o.stores ≠ [st] → t.fsOps = { o with stores := o.stores.filter (· ≠ st) } :: os ∧ t.fent o.ctx o.fid = e ∧ t.waves = s.waves) ∧
      (o.stores = [st] → t.fsOps = os ∧ (t.wv o.wave).fl = (s.wv o.wave).fl - 1 ∧
        t.fent o.ctx o.fid = (if def_ then ⟨true, (e.gen + 1) % 2 ^ 32, f, List.replicate 8 0⟩ else { e with gen := (e.gen + 1) % 2 ^ 32 }))) ∧
  (∀ (s : State) (ctx fid b : Nat) (ways : List (Option FRec)), s.bucketIs ctx fid b ways → s.fsCounted ctx fid →
    let f := (s.fent ctx fid).desc
    let piece := fun (i : Nat) => s.tablePlace ctx (f.table + 8 * b * f.size + 64 * i)
    ((∃ i, i < 8 * f.size / 64 ∧ piece i = none) → exec (.fsBucketSpill ctx fid b) s = .next s) ∧
    ((∀ i, i < 8 * f.size / 64 → (piece i).isSome = true) → ∃ t, exec (.fsBucketSpill ctx fid b) s = .next t ∧
      aget t.buckets (ctx, fid, b) = some ⟨false, ways⟩ ∧ s.rose t ctx fid [7] ∧ t.waves = s.waves ∧ t.fsOps = s.fsOps))

/-- R234, R239, R298, R393, R404, R426, R427: leave is granted at once where the core already holds the class, else to the oldest request alone,
when its charge fits the budget. At 105 degrees C the module shuts down. A bucket does not move while an arrival for it is in flight;
otherwise the table names its new slice. A dirty line of a bound crew's local store goes to its image's home slice, to which every other
copy of that line has come. An entry of the tables is written, every translation of its context is dropped, and the steward's reply is
written last. The model's choices are that an image and a table stand under the context's table key and that a shootdown drops every
translation of its context (logs 30 and 51), that the port reports a shutdown as 0 (log 53), that the reply is one word, and that a page
mapped read-duplicated anew has no owner yet (log 49). -/
def Obligations.StewardsGrantMoveAndTranslate : Prop :=
  (∀ (s : State) (n c : Nat) (id : WaveId) (rest : List (WaveId × Nat)), 1 ≤ c % 8 → c % 8 ≤ 5 → c < 16 →
    let x := s.sectorOf_ n
    let budget := if 95 ≤ x.temp then 96 else 192
    let grants := fun (r : WaveId × Nat) => ∃ t : State, exec (.leaveGrant n) s = .next t ∧ (t.wv r.1) = (if 8 ≤ r.2 then { s.wv r.1 with engGnt := true } else { s.wv r.1 with
          lvGnt := true, hold := (s.wv r.1).hold.map (fun h => match h.op with | .mma _ => { h with op := (s.wv r.1).mmaStall } | _ => h) }) ∧
      (∀ j, j ≠ r.1 → t.wv j = s.wv j) ∧ (t.sectorOf_ n).reqs = x.reqs.filter (· ≠ r)
    (x.reqs = [] → exec (.leaveGrant n) s = .next s) ∧
    (x.reqs = (id, c) :: rest → (∀ r ∈ x.reqs, s.requests r) →
      ((∀ r ∈ x.reqs, s.coreHolds (s.wv r.1).core (r.2 % 8) = false) → s.heldCharges n + leaveCharge (c % 8) ≤ budget → grants (id, c)) ∧
      ((∀ r ∈ x.reqs, s.coreHolds (s.wv r.1).core (r.2 % 8) = false) → budget < s.heldCharges n + leaveCharge (c % 8) → exec (.leaveGrant n) s = .next s) ∧
      (∀ (k : Nat) (r : WaveId × Nat), x.reqs[k]? = some r → s.coreHolds (s.wv r.1).core (r.2 % 8) = true →
        (∀ (j : Nat) (q : WaveId × Nat), j < k → x.reqs[j]? = some q → s.coreHolds (s.wv q.1).core (q.2 % 8) = false) → grants r))) ∧
  (∀ (s : State) (n temp : Nat), ∃ t, exec (.temperatureThreshold n temp) s = .next t ∧ s.sameRuns t ∧
    t.sectorOf_ n = { s.sectorOf_ n with temp := temp } ∧ (∀ m, m ≠ n → aget t.sectors m = aget s.sectors m) ∧
    (temp < 105 → t.moduleUp = s.moduleUp ∧ t.hbm = s.hbm ∧ t.portFault = s.portFault) ∧
    (105 ≤ temp → t.moduleUp = false ∧ t.hbm = [] ∧ t.portFault = s.portFault ++ [0])) ∧
  (∀ (s : State) (b slice : Nat),
    ((∃ a ∈ s.arrivals, bucketOf (a.pa / 128) = b) → exec (.bucketMove b slice) s = .next s) ∧
    (b < 4096 → slice < 192 → s.sliceOfBucket b ≠ slice → (∀ a ∈ s.arrivals, bucketOf (a.pa / 128) ≠ b) → s.frames = [] →
      ∃ t, exec (.bucketMove b slice) s = .next t ∧ s.sameRuns t ∧ t.sliceOfBucket b = slice ∧ (∀ k, k ≠ b → t.sliceOfBucket k = s.sliceOfBucket k) ∧
        (∀ p ∈ t.sc, bucketOf p.1.2 ≠ b) ∧ (∀ p ∈ t.llcKey, isSysLine p.1 = false → bucketOf p.1 ≠ b) ∧ (∀ p ∈ t.remoteX, bucketOf p.1 ≠ b))) ∧
  (∀ (s : State) (g cr ln : Nat),
    let c : CrewId := ⟨g, cr⟩
    let x := s.crewOf c
    let key := (s.ctxOf (s.ctxN g)).tkey
    (x.bound = false ∨ ln ∉ x.lsDirty → exec (.localImageWriteback g cr ln) s = .next s) ∧
    (x.bound = true → ln ∈ x.lsDirty → 128 * ln < x.lsLen → x.image % 2 ^ 16 = 0 → x.image + 128 * ln + 128 ≤ deviceEnd →
      let at_ := x.image / 128 + ln
      let r := ((s.disown at_).recallAll at_ [0, 64]).roomSlice (s.sliceOf at_)
      let y := r.crewOf c
      ∃ t, exec (.localImageWriteback g cr ln) s = .next t ∧ t.waves = s.waves ∧ (t.crewOf c).ls = y.ls ∧ (t.crewOf c).lsDirty = y.lsDirty.filter (· ≠ ln) ∧
        aget t.llcKey (x.image / 128 + ln) = some key ∧
        ∀ i, i < 128 → aget t.llc (x.image + 128 * ln + i) = some ((y.ls.read (128 * ln) 128).getD i 0))) ∧
  (∀ (s : State) (ctx pa value dev reply word : Nat) (c : Ctx), value < 2 ^ 64 →
    (aget s.ctxs ctx = none → exec (.pteChange ctx (pa, value) dev (reply, word)) s = .next s) ∧
    (pa % 8 ≠ 0 → exec (.pteChange ctx (pa, value) dev (reply, word)) s = .next s) ∧
    (aget s.ctxs ctx = some c → s.plainAt pa 8 → ∃ t, exec (.pteChange ctx (pa, value) dev (0, 0)) s = .next t ∧ s.sameRuns t ∧
      leNat (t.homeRead pa 8 c.tkey) = value ∧ t.forgets ctx ∧
      (value.testBit 0 = true → value.testBit 1 = true → value.testBit 7 = true → aget t.replicas (value / 2 ^ 16 % 2 ^ 36 * 2 ^ 16) = none) ∧ (∀ k e, e.ctx ≠ ctx → (e ∈ (t.coreOf k).tlb ↔ e ∈ (s.coreOf k).tlb)) ∧
      (reply ≠ 0 → reply % 8 = 0 → exec (.pteChange ctx (pa, value) dev (reply, word)) s = .next ((t.ctxWrite ctx reply (leBytes 8 word)).getD t))))

/-- R386, R396, R397, R407, R428, R431: a context is created with its tables, its key slots filled on every stack and its host windows open;
torn down once its grids have ended, it leaves no key but another context's table key, no bucket, translation or entry. The boot ROM of a
die stops at an image that is not good, and otherwise boots the die with its key tables empty but for the table keys of live contexts; the
port and the links are up once every die has booted, by the model's choice of log 71, and otherwise stay silent. SPDM key exchanges are
served one at a time, and any other session's request waits; a request for measurements is answered by them, signed with the identity key.
That a context's creation names the key slots of its pages and the host windows is the model's choice of log 50, that the measurements are
the raw bytes and what the three kinds of request are that of log 52, and that another context's table key survives is log 50's too. -/
def Obligations.ContextsAndDiesBeginAndEnd : Prop :=
  (∀ (s : State) (ctx root key quota save : Nat) (ids : List Nat) (win : List (Nat × Nat)),
    let i : Instr := .contextCreate ctx root key quota save ids win
    (s.portUp = false ∨ (aget s.ctxs ctx).isSome = true ∨ key = 0 ∨ 256 ≤ key ∨ root % 8192 ≠ 0 → exec i s = .next s) ∧
    (s.portUp = true → aget s.ctxs ctx = none → 1 ≤ key → key < 256 → root % 8192 = 0 → root + 8192 ≤ deviceEnd → ∃ t, exec i s = .next t ∧ s.sameRuns t ∧
      (∃ c, aget t.ctxs ctx = some c ∧ c.root = root ∧ c.tkey = key ∧ c.quota = quota ∧ c.saveArea = save ∧ c.fids = [] ∧ c.sessions = [] ∧ c.slots = []) ∧
      (∀ k ∈ key :: ids, 1 ≤ k → k < 256 → ∀ st, st < 12 → (aget t.keys (st * 256 + k)).isSome = true) ∧
      (∀ n v, aget s.keys n = some v → aget t.keys n = some v) ∧ (∀ m, m ≠ ctx → aget t.ctxs m = aget s.ctxs m) ∧
      (∀ p, win = [p] → p.1 < 768 → 1 ≤ p.2 → p.2 < 256 → aget t.hostWin p.1 = some p.2))) ∧
  (∀ (s : State) (ctx : Nat) (c : Ctx), aget s.ctxs ctx = some c →
    let others := fun (k : Nat) => s.ctxs.any (fun p => decide (p.1 ≠ ctx) && decide (p.2.tkey = k))
    ((∃ p ∈ s.grids, p.2.ctx = ctx ∧ p.2.ended = false) → exec (.contextTeardown ctx) s = .next s) ∧
    ((∀ p ∈ s.grids, p.2.ctx = ctx → p.2.ended = true) → ∃ t, exec (.contextTeardown ctx) s = .next t ∧ s.sameRuns t ∧ aget t.ctxs ctx = none ∧
      (∀ k ∈ c.tkey :: c.keyIds, ∀ st, k < 256 → aget t.keys (st * 256 + k) = if others k then aget s.keys (st * 256 + k) else none) ∧
      t.forgets ctx ∧ (∀ p ∈ t.buckets, p.1.1 ≠ ctx) ∧ (∀ p ∈ t.replicas, p.2.2.2 ≠ ctx) ∧ (∀ p ∈ t.creators, p.2.2 ≠ ctx) ∧ (∀ p ∈ t.hostWin, p.2 ∈ c.tkey :: c.keyIds → others p.2 = true))) ∧
  (∀ (s : State) (die : Nat) (map hash ver secret image : List Byte), s.moduleUp = true →
    let i : Instr := .powerOn die map hash ver secret image
    let good := Config.imageSigned image = true ∧ Config.shake256 32 (Config.imageKey image) = hash ∧ leNat ver ≤ Config.imageVersion image
    (4 ≤ die ∨ (s.dieOf die).booted = true → exec i s = .next s) ∧
    (die < 4 → (s.dieOf die).booted = false → ∃ t, exec i s = .next t ∧ (∀ d, d ≠ die → t.dieOf d = s.dieOf d) ∧
      (¬ good → t.portUp = false ∧ (t.dieOf die).booted = false ∧ (t.dieOf die).halted = true ∧ (t.dieOf die).bootStep = 2 ∧ t.portFault = s.portFault ++ [2]) ∧
      (good → (t.portUp = true ↔ ∀ d, d < 4 → d ≠ die → (s.dieOf d).booted = true) ∧ (t.dieOf die).booted = true ∧ (t.dieOf die).halted = false ∧ (t.dieOf die).defects = map ∧
        (∀ p ∈ t.keys, p.1 / 256 / 3 = die → ∃ c ∈ s.ctxs, c.2.tkey = p.1 % 256) ∧
        (∀ p ∈ t.frames, s.homeSector p.1 / 3 ≠ die) ∧ t.hbm = s.hbm ∧
        (die = 0 → t.measured = [Config.bootRom, image, map, ver] ∧ t.spdm = [] ∧ t.secure = [] ∧ t.keyExchange = none ∧
          (let seed := Config.shake256 32 (secret ++ leBytes 8 (Config.imageVersion image))
           t.identity = Config.mlDsaPublic seed ∧ t.identityKey = Config.mlDsaPrivate seed) ∧
          ∀ k, k < 8 → t.linkOf k = { s.linkOf k with up := true })))) ∧
  (∀ (s : State) (map hash ver secret image : List Byte), s.moduleUp = false → ∃ t, exec (.powerOn 0 map hash ver secret image) s = .next t ∧
    t.moduleUp = true ∧ t.waves = [] ∧ t.ctxs = [] ∧ t.hbm = [] ∧ t.sysMem = s.sysMem) ∧
  (∀ (s : State) (n m k : Nat),
    (s.portUp = false → exec (.spdmRequest k n) s = .next s) ∧
    (s.portUp = true →
      (s.keyExchange = none ∨ s.keyExchange = some n → exec (.spdmRequest 0 n) s = .next { s with
        attested := (n, s.measured, Config.mlDsaSign s.identityKey s.measured.flatten) :: s.attested }) ∧
      (s.keyExchange = none → exec (.spdmRequest 1 n) s = .next { s with keyExchange := some n }) ∧
      (k < 3 → s.keyExchange = some m → m ≠ n → exec (.spdmRequest k n) s = .next { s with spdm := s.spdm ++ [(k, n)] }) ∧
      (s.keyExchange = none → exec (.spdmRequest 2 n) s = .next s) ∧ (3 ≤ k → exec (.spdmRequest k n) s = .next s) ∧
      (s.keyExchange = some n → ∃ t, exec (.spdmRequest 2 n) s = .next t ∧ s.sameRuns t ∧ (∃ key, (n, key) ∈ t.secure) ∧
        (s.spdm = [] → t.keyExchange = none) ∧ (∀ rest, s.spdm = (1, m) :: rest → (2, m) ∉ rest → t.keyExchange = some m) ∧
        (s.spdm = [(1, m), (2, m)] → t.keyExchange = none ∧ t.spdm = [] ∧ ∃ key, (m, key) ∈ t.secure))))

/-- R294, R396, R402, R403, R407-R409, R421, R428: the host's accesses to device memory. The port answers nothing before it is up. A closed GiB,
or one whose key slot is EMPTY, answers all ones with the error status, and its writes are discarded with it. An ownership read recalls and
drops every local and remote copy and holds the half in E; a shared read recalls the exclusive ones and holds it in S; neither touches an L1
or an L2 (R421); an open line answers its snapshot, which is what an ownership read leaves with the host. A write is merged at home, or in
the host's own copy where it holds the half in E or M, and breaks an open session of the line; a snoop's answer gives the half up with its
bytes. The device gives up its halves of host lines when the host snoops them. That a write to a half that the host holds in E or M stays in
the host's copy, and that a snoop's answer is an event of its own, are the model's choices of log 33; that the stewards look at their words
at each write of the host is that of log 24. -/
def Obligations.HostAccessesKeepTheirHalves : Prop :=
  (∀ (s : State) (pa : Nat) (data : List Byte) (inv : Bool),
    let refuses := fun (o : Out) (d : List Byte) => o = .next { s with hostReply := (d, true, false) :: s.hostReply }
    (deviceEnd ≤ pa ∨ s.portUp = false → exec (.hostMemReadOwnership pa) s = .next s ∧ exec (.hostMemReadShared pa) s = .next s) ∧
    (s.portUp = false → exec (.hostMemWrite pa data) s = .next s ∧ exec (.bisnpResponse pa inv data) s = .next s) ∧
    (∀ k, aget s.hostWin (pa / 2 ^ 30) = some k → s.keyInst (pa / 128) k = none → s.hostOpen pa = false) ∧
    (aget s.hostWin (pa / 2 ^ 30) = none → s.hostOpen pa = false) ∧
    (s.portUp = true → pa < deviceEnd → s.hostOpen pa = false → refuses (exec (.hostMemReadOwnership pa) s) (List.replicate 64 0xFF) ∧
      refuses (exec (.hostMemReadShared pa) s) (List.replicate 64 0xFF) ∧ exec (.bisnpResponse pa inv data) s = .next s ∧
      (data ≠ [] → pa % 64 + data.length ≤ 64 → refuses (exec (.hostMemWrite pa data) s) []))) ∧
  (∀ (s : State) (pa : Nat), s.portUp = true → s.hostOpen pa = true →
    let ln := pa / 128
    let kept := fun (t : State) => s.sameRuns t ∧ t.frames = s.frames ∧ (∀ h, h / 2 ≠ ln → isSysLine (h / 2) = false → t.holdOf h = s.holdOf h) ∧
      t.holdOf (4 * ln + 1 - pa / 64) = s.holdOf (4 * ln + 1 - pa / 64) ∧ t.cores = s.cores ∧ t.l2 = s.l2 ∧ aget t.remoteX ln = none ∧ s.answers t (t.homeSee (pa / 64 * 64) 64 (winKey s.hostWin ln)) false ∧
      (∀ f, aget s.frames ln = some f → s.answers t (tab 64 (fun j => f.bytes.getD (pa / 64 * 64 % 128 + j) 0)) false)
    (∃ t, exec (.hostMemReadOwnership pa) s = .next t ∧ kept t ∧ t.holdOf (pa / 64) = max 2 (s.holdOf (pa / 64)) ∧ (∀ p ∈ t.sc, p.1.2 ≠ ln) ∧
      (∀ f, aget s.frames ln = some f → s.holdOf (pa / 64) < 2 → aget t.hostHalf (pa / 64) = some (2, tab 64 (fun j => f.bytes.getD (pa / 64 * 64 % 128 + j) 0))) ∧
      ∀ d k, aget t.dirs ln = some d → 31 ≤ k → d.getLsbD k = false) ∧
    (∃ t, exec (.hostMemReadShared pa) s = .next t ∧ kept t ∧ t.holdOf (pa / 64) = 1 ∧ (∀ p ∈ t.sc, p.1.2 = ln → p.2.dirt = []))) ∧
  (∀ (s : State) (pa key : Nat) (data : List Byte), s.portUp = true → s.hostOpen pa = true → aget s.hostWin (pa / 2 ^ 30) = some key → data ≠ [] → pa % 64 + data.length ≤ 64 →
    (s.holdOf (pa / 64) < 2 → aget s.frames (pa / 128) = none → s.imageAt (pa / 128) = none → ∃ u : State, exec (.hostMemWrite pa data) s = .next u.look ∧
      s.sameRuns u ∧ u.homeRead pa data.length key = data ∧ u.holdOf (pa / 64) = 0) ∧
    (∀ f, s.holdOf (pa / 64) < 2 → aget s.frames (pa / 128) = some f → ((s.ctxOf f.ctx).session f.idx).state = 1 → ∃ u : State,
      exec (.hostMemWrite pa data) s = .next u.look ∧ ((u.ctxOf f.ctx).session f.idx).broken = true ∧ u.waves = s.waves) ∧
    (∀ h d, aget s.hostHalf (pa / 64) = some (h, d) → h = 2 ∨ h = 3 → ∃ t d', exec (.hostMemWrite pa data) s = .next t ∧ aget t.hostHalf (pa / 64) = some (3, d') ∧
      (∀ j, j < 64 → d'.getD j 0 = if pa % 64 ≤ j ∧ j < pa % 64 + data.length then data.getD (j - pa % 64) 0
        else if h = 3 ∨ d ≠ [] then d.getD j 0 else s.homeByte (pa / 128) key (64 * (pa / 64 % 2) + j)) ∧
      t.hbm = s.hbm ∧ t.llc = s.llc ∧ t.frames = s.frames)) ∧
  (∀ (s : State) (pa : Nat) (inv : Bool) (d : List Byte), s.portUp = true → s.hostOpen pa = true → aget s.hostHalf (pa / 64) = some (3, d) →
    s.imageAt (pa / 128) = none →
    let key := (aget s.hostWin (pa / 2 ^ 30)).getD 0
    ∃ t, exec (.bisnpResponse pa inv []) s = .next t ∧ s.sameRuns t ∧ t.holdOf (pa / 64) = (if inv then 0 else 1) ∧
      (∀ j, j < 64 → t.homeByte (pa / 128) key (64 * (pa / 64 % 2) + j) = d.getD j 0) ∧
      (∀ f, aget s.frames (pa / 128) = some f → ((s.ctxOf f.ctx).session f.idx).state = 1 → ((t.ctxOf f.ctx).session f.idx).broken = true)) ∧
  (∀ (s : State) (pa : Nat), s.portUp = true → pa / 2 ^ 51 % 2 = 1 → windowOf pa = none → windowOf (pa / 128 * 128) = none → (s.llc.map (·.1)).Nodup → s.sysMem.wf = true →
    let gives := fun (t : State) => s.sameRuns t ∧ (∀ a b, aget s.llc a = some b → a / 64 = pa / 64 → t.sysMem.get a = b) ∧
      (∀ p ∈ t.llc, p.1 / 64 ≠ pa / 64) ∧ (∀ a, a / 64 ≠ pa / 64 → t.sysMem.get a = s.sysMem.get a ∧ aget t.llc a = aget s.llc a)
    (∃ t, exec (.hostSnoopInvalidate pa) s = .next t ∧ gives t ∧ aget t.hostHalf (pa / 64) = none) ∧
    ((aget s.hostHalf (pa / 64)).isSome = true → ∃ t, exec (.hostSnoopData pa) s = .next t ∧ gives t ∧ aget t.hostHalf (pa / 64) = some (1, [])))

/-- R395, R411-R419: a link takes flits in SEQ order whose CRC is right, and answers any other by a retry request; the sender resends from the
SEQ asked for, and after 16 failed resends of one SEQ the link retrains; a link to a dead device takes none. Another device's write is
performed once at its home and answered, or refused where its GiB is closed. Domain formation names the devices, the links' ends and the
keys; heartbeats count missed periods, the eighth of which makes a device dead, and the scrub clears it from every directory entry. The
first device to ask becomes the one owner of a read-duplicated block, which is the model's choice of log 49; the SEQ of a retry request and
the kinds and the form of transactions are those of log 26. -/
def Obligations.FabricDevicesExchangeOnce : Prop :=
  (∀ (s : State) (k hdr crc seq : Nat) (payload : List Byte) (ok : Bool),
    let x := s.linkOf k
    let receives := exec (.linkFlitReceive k hdr (payload, crc)) s
    let body := tab 244 (fun i => payload.getD i 0)
    let good := crc = Config.crc64 (leBytes 4 hdr ++ body)
    let ack := hdr / 2 ^ 12 % 2 ^ 12
    let ty := hdr / 2 ^ 24 % 2 ^ 4
    let trained := { x with training := false, again := none, resends := 0, up := ok }
    (s.linkShut k → receives = .next s ∧ exec (.linkRetryRequest k seq) s = .next s) ∧
    (x.training = false → exec (.linkRetrain k ok) s = .next s) ∧
    (x.training = true → ok = true ∨ ((s.setLink k trained).route x.dev = none ∧ ∀ w ∈ s.openTxn, w.link ≠ k) →
      exec (.linkRetrain k ok) s = .next (s.setLink k trained)) ∧
    (x.training = true → ok = false → (s.setLink k trained).route x.dev ≠ none → ∃ t, exec (.linkRetrain k ok) s = .next t ∧ s.sameRuns t ∧
      t.linkOf k = { trained with sent := [] } ∧ t.openTxn.map (fun w => (w.dev, w.num, w.payload)) = s.openTxn.map (fun w => (w.dev, w.num, w.payload)) ∧
      ∀ w ∈ t.openTxn, w.link = k → (s.setLink k trained).route w.dev = none) ∧
    (¬ s.linkShut k →
      (¬ good → s.asksAgain k receives) ∧
      (good → ty ≠ 2 → hdr % 2 ^ 12 ≠ x.expect → s.asksAgain k receives) ∧
      (good → ty = 2 → (∀ f ∈ x.sent, f.seq ≠ ack) → receives = exec (.linkRetryRequest k (hdr % 2 ^ 12)) s) ∧
      (good → ty ≠ 2 → hdr % 2 ^ 12 = x.expect → ∃ y : Link, y.expect = (x.expect + 1) % 4096 ∧ y.request = none ∧
        (ty ≠ 1 → receives = .next (s.setLink k y) ∧ y.taken = x.taken) ∧
        (ty = 1 → receives = .next ((s.setLink k y).takeTxn body) ∧ y.taken = x.taken + 1) ∧
        ((∀ f ∈ x.sent, f.seq ≠ ack) → y.sent = x.sent) ∧
        (∀ l f r, x.sent = l ++ f :: r → f.seq = ack → (∀ e ∈ l, e.seq ≠ ack) → y.sent = r ∧ y.resends = 0)) ∧
      ((∀ f ∈ x.sent, f.seq ≠ seq) → exec (.linkRetryRequest k seq) s = .next (s.setLink k x)) ∧
      (∀ l f r, x.sent = l ++ f :: r → f.seq = seq → (∀ e ∈ l, e.seq ≠ seq) →
        let n := if x.again = some seq then x.resends + 1 else 0
        exec (.linkRetryRequest k seq) s = .next (s.setLink k { x with sent := f :: r, again := some seq, resends := n, training := decide (16 ≤ n) })))) ∧
  (∀ (s : State) (src txn pa size data key inst : Nat) (p : Peer),
    let i : Instr := .peerRemoteTransaction src txn 2 pa size data
    (s.portUp = false ∨ s.reachable src = false → exec i s = .next s) ∧
    (aget s.peers src = some p → s.portUp = true → s.reachable src = true → pa < deviceEnd → 1 ≤ size → pa % 128 + size ≤ 128 →
      (aget s.fabWin (pa / 2 ^ 30) = none → exec i s = .next (s.reply src txn 0x81 pa [])) ∧
      (aget s.fabWin (pa / 2 ^ 30) = some key → s.keyInst (pa / 128) key = none → exec i s = .next (s.reply src txn 0x81 pa [])) ∧
      (aget s.fabWin (pa / 2 ^ 30) = some key → 1 ≤ key → s.keyInst (pa / 128) key = some inst → aget s.frames (pa / 128) = none →
        s.imageAt (pa / 128) = none → (∀ h, h < 2 → s.holdOf (2 * (pa / 128) + h) ≠ 3) → data < 2 ^ (8 * size) →
        (txn ∈ p.doneTxn → exec i s = .next (s.reply src txn 0x80 pa [])) ∧
        (txn ∉ p.doneTxn → ∃ t, exec i s = .next t ∧ s.sameRuns t ∧
          leNat (tab size (fun i => t.homeByte (pa / 128) key (pa % 128 + i))) = data ∧
          ∃ p', aget t.peers src = some p' ∧ p'.doneTxn = p.doneTxn ++ [txn])))) ∧
  (∀ (s : State) (self dev : Nat) (ends : List Nat) (keys : List (Nat × Nat)), dev < 16 → dev ≠ self → (∀ q ∈ keys, q.1 < 768 ∧ 1 ≤ q.2 ∧ q.2 < 256) →
    ∃ t, exec (.fabricDomainFormation self ([dev], ends) keys) s = .next t ∧ s.sameRuns t ∧ t.self = self ∧ t.fabWin = keys ∧ t.reachable dev = true ∧
      (∀ d, d ≠ dev → t.reachable d = false) ∧ ∀ k, k < 8 → t.linkOf k = { s.linkOf k with dev := ends.getD k (s.linkOf k).dev }) ∧
  (∀ (s : State) (dev : Nat) (p : Peer), aget s.peers dev = some p →
    (∃ t, exec .heartbeatSend s = .next t ∧ s.sameRuns t ∧ t.beats = s.beats + 1 ∧
      aget t.peers dev = some (if p.inDomain = true ∧ p.dead = false then { p with missed := if p.beatSeen then 0 else p.missed + 1, beatSeen := false } else p)) ∧
    (p.dead = true → exec (.heartbeatReceive dev) s = .next s) ∧
    (p.dead = false → exec (.heartbeatReceive dev) s = .next { s with peers := aput s.peers dev { p with missed := 0, beatSeen := true } }) ∧
    (p.dead = true ∨ p.missed < 8 → exec (.deviceDead dev) s = .next s) ∧
    (p.dead = false → 8 ≤ p.missed → (∀ w ∈ s.waves, w.2.inflight = []) → (∀ x ∈ s.openTxn, x.dev ≠ dev) → ∃ t, exec (.deviceDead dev) s = .next t ∧
      aget t.peers dev = some { p with dead := true } ∧ (∀ id, t.wv id = s.wv id) ∧ (∀ q ∈ t.llc, windowOf (q.1 / 128 * 128) ≠ some dev) ∧
      (∀ k, (t.linkOf k).dev = dev → t.linkShut k ∧ (t.linkOf k).sent = []) ∧ t.hbm = s.hbm ∧ t.sysMem = s.sysMem) ∧
    (p.dead = false → exec (.deadDeviceScrub dev) s = .next s) ∧
    (p.dead = true → dev < 16 → ∃ t, exec (.deadDeviceScrub dev) s = .next t ∧ s.sameRuns t ∧ (∀ q ∈ t.dirs, q.2.getLsbD (32 + dev) = false) ∧
      (∀ q ∈ s.dirs, q.2.getLsbD (32 + dev) = false → q.2 ≠ 0 → q ∈ t.dirs))) ∧
  (∀ (s : State) (ctx va pa t1 t0 at_ e c0 : Nat) (c : Ctx), aget s.ctxs ctx = some c →
    let i : Instr := .replicaCollapse ctx va s.self pa (t1, t0) (0, 0)
    let blk := e / 2 ^ 16 % 2 ^ 36 * 2 ^ 16
    let attrs := e / 2 ^ 8 % 4 * 2 ^ 8 + e / 2 ^ 6 % 2 * 2 ^ 6 + 0x33
    t1 % 4096 = 0 → t1 + 4096 ≤ deviceEnd → t0 % 256 = 0 → t0 + 256 ≤ deviceEnd → pa + 2 ^ 16 ≤ deviceEnd →
    s.leafAt c.tkey va [3, 2, 1, 0] c.root = some (0, at_, e) →
    (e.testBit 7 = false → exec i s = .next s) ∧
    (∀ owner opa, e.testBit 7 = true → aget s.creators blk = none → s.plainAt at_ 8 → e < 2 ^ 64 → owner < 16 → opa < 2 ^ 44 →
      (aget s.replicas blk = none ∧ owner = s.self ∧ opa = pa) ∨ aget s.replicas blk = some (owner, opa, c0) → ∃ t, exec i s = .next t ∧ s.sameRuns t ∧
        aget t.replicas blk = some (owner, opa, ctx) ∧ t.forgets ctx ∧ leNat (t.homeRead at_ 8 c.tkey) =
          (if owner = s.self then e / 2 ^ 16 * 2 ^ 16 else 0xC * 2 ^ 48 + owner * 2 ^ 44 + opa / 2 ^ 16 * 2 ^ 16) + attrs))

/-- R179, R180, R182, R183, R192: `launch` reads 256 bytes and appends them to its die's device queue, writing 0, or writes 1 when the queue
holds 256 records. A registered queue begins at the HEAD word; a TAIL that is behind, or more than N ahead, stops it with an error
interrupt; every record before TAIL is copied in count order, at one wake of the steward by the model's choice of log 42. The device queue's
oldest record is admitted next. A dependence's signal word takes the value written, and the stewards look at the words they watch. The host
writes through its window, and where that is closed its write is discarded with the error status (R407). That a registration which R179 does
not allow changes nothing, the key under which a queue is read (`queueKey`), and when the stewards look at their words (`look`) are the
model's choices of log 24. -/
def Obligations.LaunchRecordsReachTheirSteward : Prop :=
  (∀ (s : State) (d a : Code), s.issues (.launch d a) → s.plain →
    let va := (s.w.wr2 a.toNat).toNat
    let die := s.w.core / 96
    let i : Instr := .launch d a
    (∀ tr, s.uniRead va 256 64 = .error tr → exec i s = .next (s.trap tr)) ∧
    (∀ bs r, s.uniRead va 256 64 = .ok (bs, r) →
      ((s.dieOf die).devq.length < 256 → s.retiresFrom r Wave.sansW (exec i s) (fun t => s.regSet t d.toNat 0 ∧
        t.dieOf die = { s.dieOf die with devq := (s.dieOf die).devq ++ [(s.ctxN s.cur.g, bs)] } ∧ (∀ n, n ≠ die → t.dieOf n = s.dieOf n))) ∧
      (256 ≤ (s.dieOf die).devq.length → s.retiresFrom r Wave.sansW (exec i s) (fun t => s.regSet t d.toNat 1 ∧ t.dies = s.dies)))) ∧
  (∀ (s : State) (die q ctx ring k headAt tailAt : Nat),
    let i : Instr := .launchQueueRegister die q ctx ring (2 ^ k) headAt tailAt
    let r := s.homeLook headAt 8 (s.queueKey ctx headAt)
    let head := leNat (r.homeSee headAt 8 (r.queueKey ctx headAt))
    let legal := q < 16 ∧ s.portUp = true ∧ (s.dieOf die).booted = true ∧ 1 ≤ k ∧ k ≤ 16 ∧ ring % 256 = 0 ∧ headAt % 64 = 0 ∧ tailAt % 64 = 0 ∧ headAt ≠ tailAt ∧
      (aget s.ctxs ctx).isSome = true
    (¬ legal → exec i s = .next s) ∧
    let u := r.homeLook tailAt 8 (r.queueKey ctx tailAt)
    (legal → leNat (u.homeSee tailAt 8 (u.queueKey ctx tailAt)) = head → ∃ t, exec i s = .next t ∧ t.grids = s.grids ∧ t.errIrqs = s.errIrqs ∧
      t.queueOf die q = some { ctx := ctx, ring := ring, size := 2 ^ k, headAt := headAt, tailAt := tailAt, head := head, tail := head })) ∧
  (∀ (s : State) (die q value : Nat) (d : Die) (x : LQueue) (l r : List (Nat × Die)), s.dies = l ++ (die, d) :: r →
    (∀ p ∈ l ++ r, p.1 ≠ die ∧ p.2.queues = []) → d.queues = [(q, x)] → x.stopped = false → (∀ p ∈ s.grids, p.2.unmet = []) →
    let u := s.hostStore x.tailAt (leBytes 8 value)
    let v := u.homeLook x.tailAt 8 (u.queueKey x.ctx x.tailAt)
    let i : Instr := .tailWrite die q value
    leNat (u.homeSee x.tailAt 8 (u.queueKey x.ctx x.tailAt)) = value → leNat (v.homeSee x.tailAt 8 (v.queueKey x.ctx x.tailAt)) = value →
    (value ≠ x.tail → value < x.tail ∨ value < x.head ∨ x.size < value - x.head → ∃ t, exec i s = .next t ∧ t.queueOf die q = some { x with stopped := true } ∧
      t.errIrqs = u.errIrqs ++ [(die, q)] ∧ t.grids = u.grids) ∧
    (x.tail ≤ value → value = x.head → ∃ t, exec i s = .next t ∧ t.queueOf die q = some { x with tail := value } ∧ t.grids = u.grids ∧ t.errIrqs = u.errIrqs) ∧
    (x.tail < value → value = x.head + 1 → 1 ≤ x.size → value < 2 ^ 64 → ∃ t, exec i s = .next t ∧
      t.queueOf die q = some { x with head := value, tail := value } ∧ u.admitted t die x.ctx (some q)
        (v.ringRead x x.head).1 ∧ t.errIrqs = u.errIrqs) ∧
    (∀ k, x.tail < value → value = x.head + k → 1 ≤ k → k ≤ x.size → value < 2 ^ 64 →
      let c := (v.setQueue die q { x with tail := value }).copied die q { x with tail := value }
      exec i s = .next (c k).lookDeps ∧ ((c k).lookDeps).queueOf die q = some { x with head := value, tail := value } ∧ ((c k).lookDeps).nextGrid = u.nextGrid + k ∧
        ∀ j, j < k → (c j).nextGrid = u.nextGrid + j ∧ (((c k).lookDeps).gridOf (u.nextGrid + j)).lrec = ((c j).ringRead x (x.head + j)).1)) ∧
  (∀ (s : State) (die ctx : Nat) (bs : List Byte) (rest : List (Nat × List Byte)), (s.dieOf die).devq = (ctx, bs) :: rest →
    (∀ p ∈ s.dies, p.2.queues = []) → (∀ p ∈ s.grids, p.2.unmet = []) → ∃ t,
    exec (.deviceQueueRecord die) s = .next t ∧ (t.dieOf die).devq = rest ∧ t.waves = s.waves ∧ s.admitted t die ctx none bs) ∧
  (∀ (s : State) (g k value va th : Nat) (l : Leaf), (s.gridOf g).deps[k]? = some (va, th) → s.ctxLeaf (s.ctxN g) va .load = some l → s.plainAt l.pa 8 →
    value < 2 ^ 64 → s.portUp = true →
    let u := s.hostStore l.pa (leBytes 8 value)
    exec (.dependenceSignalWrite g k value) s = .next u.look ∧ u.look.waves = s.waves ∧
      (s.hostOpen l.pa = true → aget s.hostWin (l.pa / 2 ^ 30) = some l.key → leNat (u.homeSee l.pa 8 l.key) = value) ∧
      (s.hostOpen l.pa = false → u = s.answer [] true false))

/-- R6, R7, R183, R184, R186: a crew of an eligible grid is bound at a spot where it fits, unless it is not the next, or a grid before it could
be bound; its waves begin, with an acquire of the core, with the registers of the launch record and everything else zero, b0 expecting W
arrivals. A vacancy of a core's active set is filled by the oldest ready pending wave (R190). That the event names the spot is the model's
choice of log 13, that the stewards look at their words at every such event that of log 24, and PC is the kernel's entry modulo 2^49 by that
of log 23. -/
def Obligations.CrewsAreBoundWithFreshWaves : Prop :=
  (∀ (s : State) (g cr : Nat) (p : Spot),
    let u := s.look
    let x := u.gridOf g
    let c : CrewId := ⟨g, cr⟩
    let i : Instr := .bindCrew g cr p.core p.slot p.row p.lsBase p.image
    let first := x.eligible = true ∧ x.next = some cr ∧ ∀ h ∈ u.grids, h.2.before x = true → u.couldBind h.1 = false
    (¬ first → exec i s = .next u) ∧
    (first → x.coop = false → x.saved = [] → aget u.crews c = none → u.fits c p = false → exec i s = .next u) ∧
    (first → x.coop = false → x.saved = [] → aget u.crews c = none → u.fits c p = true → 1 ≤ x.nWaves → (∀ a ∈ u.grids, ∀ b ∈ u.grids, a.2.feeds b.2 = false) →
      ∃ t, exec i s = .next t ∧ (∀ k, k < x.nWaves → (t.wv ⟨g, x.nWaves * cr + k⟩).Fresh x p.core (p.slot + k) (x.nWaves * cr + k)) ∧
        t.gridOf g = { x with nextCrew := cr + 1, cores := if x.cores.contains p.core then x.cores else x.cores ++ [p.core],
                                   fsSeen := if cr = 0 then u.fsSnapshot x.ctx else x.fsSeen } ∧ (t.crewOf c).bound = true ∧ (t.crewOf c).core = p.core ∧ (t.crewOf c).waves = x.nWaves ∧
        (t.crewOf c).firstSlot = p.slot ∧ (t.crewOf c).firstRow = p.row ∧ (t.crewOf c).lsBase = p.lsBase ∧ (t.crewOf c).image = p.image ∧
        ((t.crewOf c).bar 0).mem = x.nWaves ∧ (∀ n, 1 ≤ n → n < 16 → ((t.crewOf c).bar n).mem = 0) ∧ (t.crewOf c).tags = 0 ∧
        (∀ j, j.g ≠ g → t.wv j = u.wv j) ∧ t.hbm = u.hbm ∧ t.llc = u.llc ∧ (∀ q ∈ (t.coreOf p.core).l1, q.2.isDirty = true))) ∧
  (∀ (s : State) (core : Nat),
    ((s.coreOf core).halted = true → exec (.vacancyFill core) s = .next s) ∧
    (8 ≤ (s.actives core).length → exec (.vacancyFill core) s = .next s) ∧
    ((∀ j ∈ s.onCore core, (s.wv j).active = false → s.ready j = false) → exec (.vacancyFill core) s = .next s) ∧
    (∀ j, (s.coreOf core).halted = false → (s.actives core).length < 8 → j ∈ s.onCore core → (s.wv j).active = false → s.ready j = true →
      (∀ k ∈ s.onCore core, k ≠ j → (s.wv k).active = false → s.ready k = true → (s.wv j).age < (s.wv k).age) →
      ∃ t, exec (.vacancyFill core) s = .next t ∧ s.onlyWaves t [j] ∧ (t.wv j).active = true ∧
        t.wv j = { s.wv j with active := true, waitFrom := (s.coreOf (s.wv j).core).clock }))

/-- R155, R156, R195, R375: a waiting wave whose condition holds performs its instruction; one that has waited 32 clocks in vain is exchanged,
its latches zero, for the oldest ready pending wave; the oldest deferred fault is taken at an instruction boundary of user mode as a trap,
which leaves `tvall` and `tvalh` as they were where it is a BAR_OVERFLOW, that names no address (R369); a wave at the end of its quantum
stops. Nothing is delivered while the serial phase of its grid waits for another device (log 77). A word that cannot be fetched traps at its
PC, and so does a LIT pair that is none, after a fetch of both its words (R19, R66, R67). -/
def Obligations.WavesWaitExchangeAndTakeFaults : Prop :=
  (∀ (s : State) (id : WaveId) (h : Hold), (s.wv id).hold = some h → (s.wv id).active = true → (s.wv id).exited = false → (s.wv id).stopped = none →
    (s.wv id).faults = [] → s.goes id = true →
    let i : Instr := .waitConditionMet id.g id.w
    let me : State := { s with cur := id }
    (∀ t, me.tryOp h.op = some t → exec i s = .next t) ∧ (me.tryOp h.op = none → exec i s = .next me) ∧
    (∀ tv tw ts te tf, h.op = .waitc tv tw ts te tf → (s.wv id).quant = 0 →
      (tv = 15 ∨ (s.wv id).vl ≤ tv) → (tw = 15 ∨ (s.wv id).wl ≤ tw) → (ts = 15 ∨ (s.wv id).st ≤ ts) → (te = 15 ∨ (s.wv id).ec ≤ te) → (tf = 15 ∨ (s.wv id).fl ≤ tf) →
      ∃ t, exec i s = .next t ∧ s.onlyWaves t [id] ∧ (s.wv id).Retired (t.wv id) (s.wv id).past ∧ (s.wv id).OnlyPc (t.wv id))) ∧
  (∀ (s : State) (id j : WaveId) (h : Hold), (s.wv id).hold = some h → (s.wv id).active = true → (s.wv id).exited = false → (s.wv id).stopped = none →
    s.goes id = true → h.op.yields = true → s.isMet id = false →
    let i : Instr := .waitExchangeTimeout id.g id.w
    let core := (s.wv id).core
    ((s.coreOf core).clock < h.since + 32 → exec i s = .next s) ∧
    ((∀ k ∈ s.onCore core, (s.wv k).active = false → s.ready k = false) → exec i s = .next s) ∧
    (h.since + 32 ≤ (s.coreOf core).clock → j ∈ s.onCore core → (s.wv j).active = false → s.ready j = true →
      (∀ k ∈ s.onCore core, k ≠ j → (s.wv k).active = false → s.ready k = true → (s.wv j).age < (s.wv k).age) →
      ∃ t, exec i s = .next t ∧ s.onlyWaves t [id, j] ∧ (t.wv j).active = true ∧ (t.wv id).active = false ∧ (∀ k u, (t.wv id).latch k u = 0) ∧
        (t.wv id).pc = (s.wv id).pc ∧ (t.wv id).v = (s.wv id).v ∧ (t.wv id).w = (s.wv id).w ∧ (t.wv id).hold = some h)) ∧
  (∀ (s : State) (id : WaveId) (f : Fault1) (fs : List Fault1), (s.wv id).faults = f :: fs → (s.wv id).exited = false → s.goes id = true →
    (∀ p ∈ s.waves, p.1.g = id.g → p.2.tried = false) →
    let i : Instr := .deferredFaultDelivery id.g id.w
    let w := s.wv id
    (w.sup = true → exec i s = .next s) ∧
    (w.sup = false → w.stopped = none → f.cls < 256 → f.sub < 256 → w.tvecl.toNat + w.tvech.toNat % 2 ^ 17 * 2 ^ 32 ≠ 0 → ∃ t, exec i s = .next t ∧
      s.onlyWaves t [id] ∧ ({ w with faults := fs } : Wave).Entered (t.wv id) (f.cls * 2 ^ 24 + f.sub * 2 ^ 16) w.pc ∧
      (if f.cls = 4 then (t.wv id).tvall = w.tvall ∧ (t.wv id).tvalh = w.tvalh else (t.wv id).FaultAddr f.addr) ∧ (t.wv id).count = w.count)) ∧
  (∀ (s : State) (id : WaveId), (aget s.waves id).isSome = true →
    let i : Instr := .quantumExpiry id.g id.w
    let w := s.wv id
    (w.qDue = false ∨ w.sup = true ∨ w.exited = true ∨ w.stopped ≠ none → exec i s = .next s) ∧
    (w.qDue = true → w.sup = false → w.exited = false → w.stopped = none → ∃ t, exec i s = .next t ∧ t.hbm = s.hbm ∧ t.llc = s.llc ∧
      t.wv id = { w with stopped := some .quantum, qDue := false, active := (t.wv id).active } ∧
      ∀ j, j ≠ id → t.wv j = { s.wv j with active := (t.wv j).active, waitFrom := (t.wv j).waitFrom })) ∧
  (∀ (s : State) (k : Nat) (y : Word) (pay : BitVec 27),
    (s.fetchWord s.cur s.w.pc.toNat = .error k → exec .instructionFetchFault s = .next (s.trap (.xlat k s.w.pc.toNat))) ∧
    (s.fetchWord s.cur (s.w.pc + 4).toNat = .error k → exec (.lit pay) s = .next (s.trap (.xlat k (s.w.pc + 4).toNat))) ∧
    (s.fetchWord s.cur (s.w.pc + 4).toNat = .ok y → 2 ^ 20 ≤ pay.toNat ∨ (y.toNat / 2 ^ 27 ≠ 2 ∧ y.toNat / 2 ^ 27 ≠ 9) →
      exec (.lit pay) s = .next (s.trap { cls := 0x01 })))

/-- R195, R198: the commit phase begins only when every live wave of the grid has stopped and owes no fault, and goes on where its serial phase
waits for another device (`tried`, log 77); the held stores of two waves are performed in ascending wave id, each wave's in program order,
and a wave that stopped at its quantum runs again in the next round. Two waves that stopped before a synchronising instruction perform it
one after the other in the serial phase, in ascending retired-instruction count, ties broken by wave id: each appends its pair to one
stream. -/
def Obligations.CommitPhasesPerformHeldEffects : Prop :=
  ∀ (s : State) (g : Nat),
    let i : Instr := .detCommitPhase g
    ((∃ id ∈ s.live g, (s.wv id).stopped = none ∨ (s.wv id).owes = true) → (∀ p ∈ s.waves, p.1.g = g → p.2.tried = false) → exec i s = .next s) ∧
    ((s.gridOf g).det = false → exec i s = .next s) ∧
    (∀ (id : WaveId) (w : Wave) (ws : List (Place × List Byte)), id.g = g → (aget s.grids g).isSome = true → (s.gridOf g).det = true → (s.gridOf g).ended = false →
      s.waves = [(id, w)] → w.exited = false → w.stopped = some .quantum → w.faults = [] → w.commitHeld = false → s.goes id = true → w.buf = [.stores ws] →
      (∀ p ∈ ws, ∃ o, p.1 = .ls (s.crewId id) o) → (∀ c ∈ s.cores, ∀ m ∈ c.2.mq, m.wave.g ≠ g) → (∀ c ∈ s.crews, c.2.cmds = [] ∧ (c.1.g = g → c.2.xfers = [])) →
      (s.crewOf (s.crewId id)).bound = true →
      ∃ t, exec i s = .next t ∧ (t.gridOf g).round = (s.gridOf g).round + 1 ∧ (t.wv id).stopped = none ∧ (t.wv id).qDue = false ∧ (t.wv id).buf = [] ∧ (t.wv id).st = w.st - 1 ∧
        (t.wv id).active = true ∧ (t.wv id).pc = w.pc ∧ (t.wv id).v = w.v ∧ (t.wv id).w = w.w ∧
        (t.crewOf (s.crewId id)).ls = ws.foldl (fun m p => match p.1 with | .ls _ o => m.write o p.2 | _ => m) (s.crewOf (s.crewId id)).ls) ∧
    (∀ (i j : WaveId) (a b : Wave), s.waves = [(i, a), (j, b)] ∨ s.waves = [(j, b), (i, a)] → i.g = g → j.g = g → i ≠ j → s.crewId i = s.crewId j →
      let c := s.crewId i
      let phase := exec (.detCommitPhase g) s
      (aget s.grids g).isSome = true → (s.gridOf g).det = true → (s.gridOf g).ended = false → (s.crewOf c).bound = true → s.goes i = true → s.goes j = true →
      (∀ w ∈ [a, b], w.exited = false ∧ w.faults = [] ∧ w.commitHeld = false) →
      (∀ k ∈ s.cores, ∀ m ∈ k.2.mq, m.wave.g ≠ g) → (∀ k ∈ s.crews, k.2.cmds = [] ∧ (k.1.g = g → k.2.xfers = [])) →
      (∀ wa wb : List (Place × List Byte), i.w < j.w → a.stopped = some .quantum → b.stopped = some .quantum → a.buf = [.stores wa] → b.buf = [.stores wb] →
        (∀ p ∈ wa ++ wb, ∃ o, p.1 = .ls c o) → ∃ t, phase = .next t ∧ (t.wv i).buf = [] ∧ (t.wv j).buf = [] ∧ (t.wv i).stopped = none ∧ (t.wv j).stopped = none ∧
          (t.crewOf c).ls = (wa ++ wb).foldl (fun m p => match p.1 with | .ls _ o => m.write o p.2 | _ => m) (s.crewOf c).ls) ∧
      (∀ (n da xa db xb : Nat), a.count.toNat < b.count.toNat ∨ (a.count = b.count ∧ i.w < j.w) →
        a.stopped = some (.sync (.spush da xa n)) → b.stopped = some (.sync (.spush db xb n)) → (∀ w ∈ [a, b], w.buf = [] ∧ w.hold = none ∧ w.inflight = [] ∧ w.tried = false) →
        s.dirtyLines a.core 0 = [] → s.dirtyLines b.core 0 = [] →
        let q := (s.crewOf c).stream n
        q.ents.length + 2 ≤ q.depth → ∃ t, phase = .next t ∧ (t.wv i).stopped = none ∧ (t.wv j).stopped = none ∧
          ((t.crewOf c).stream n).ents = q.ents ++ [(a.wr2 xa).toNat, (b.wr2 xb).toNat]))

/-- R138, R182, R187, R277, R380-R383, R432: a grid whose waves have exited and whose work is done has the dirty bytes of its cores written down
and its sessions sealed (`u`), waits for the owners of windows to acknowledge, and gets its completion record; with STATUS 0 its SIGINC is
then added to its signal word, with another its SIGOUT is marked failed and its dependents end with 0x0108, as they do, with an error
interrupt, where the record cannot be written. One that is not over is left. A termination request of a handler ends its grid with the
values of the trap as it was taken, one of the host driver with STATUS 0x0002. Pre-emption halts every core of the device, and the leave of
every wave lapses; the save of a named crew unbinds it, and after the last the cores resume. That a request names crews which the steward
chose before, that a wait of `mma` for leave is dropped at the halt, and that the cores resume after the last save are the model's choices
of log 12. -/
def Obligations.GridsEndAndCrewsAreSaved : Prop :=
  (∀ (s : State) (g : Nat), (aget s.grids g).isSome = true →
    let x := s.gridOf g
    let i : Instr := .gridCompletion g
    ((∃ id ∈ s.live g, True) ∨ s.busy g = true ∨ x.ended = true → exec i s = .next s) ∧
    let u := (s.settleGrid g).sealGrid g
    let v := u.setGrid g { x with ended := true }
    let record := leBytes 4 x.status ++ leBytes 4 x.cause.toNat ++ leBytes 8 x.tpc ++ leBytes 4 x.wid ++ List.replicate 12 0
    let fails := fun (t : State) => (x.sigout ≠ 0 → (x.ctx, x.sigout) ∈ t.failed) ∧
      ∀ h, h ≠ g → (aget s.grids h).isSome = true → x.feeds (s.gridOf h) = true → (t.gridOf h).ending = true ∧ (t.gridOf h).status = 0x0108
    (s.live g = [] → s.busy g = false → x.ended = false → x.ending = true ∨ (x.saved = [] ∧ x.nextCrew = x.total) →
      ((∀ p ∈ s.cores, (p.2.l1.map (·.1)).Nodup) → ∀ k ∈ x.cores, ∀ q ∈ (u.coreOf k).l1, q.2.isDirty = false) ∧
      (u.unacked = true → exec i s = .next u) ∧
      (u.unacked = false → v.ctxLeaf x.ctx (x.fld 0x20 8) .write = none → ∃ t, exec i s = .next t ∧ (t.gridOf g).ended = true ∧ t.hbm = u.hbm ∧ t.llc = u.llc ∧
        t.errIrqs = u.errIrqs ++ [(x.die, x.queue.getD 16)] ∧ fails t) ∧
      (∀ (l : Leaf), u.unacked = false → v.ctxLeaf x.ctx (x.fld 0x20 8) .write = some l → v.plainAt l.pa 32 →
        (x.status ≠ 0 ∨ x.sigout = 0 → ∃ t, exec i s = .next t ∧ (t.gridOf g).ended = true ∧ t.homeSee l.pa 32 l.key = record ∧
          (x.status ≠ 0 → fails t) ∧ (x.status = 0 → t.waves = s.waves ∧ ∀ h, h ≠ g → t.gridOf h = s.gridOf h)) ∧
        (∀ (ls : Leaf) (old : Nat), x.status = 0 → x.sigout ≠ 0 →
          let m := (v.ctxWalked x.ctx (x.fld 0x20 8)).stewardWrite l.pa l.key record
          let n := (m.ctxWalked x.ctx x.sigout).flushLine (ls.pa / 128)
          m.ctxLeaf x.ctx x.sigout .load = some ls → m.ctxLeaf x.ctx x.sigout .write = some ls → n.ctxLeaf x.ctx x.sigout .write = some ls →
          n.ctxNum x.ctx x.sigout 8 = some old → windowOf ls.pa = none → n.plainAt ls.pa 8 → ∃ t, exec i s = .next t ∧ (t.gridOf g).ended = true ∧
            leNat (t.homeSee ls.pa 8 ls.key) = (old + x.fld 0x30 4) % 2 ^ 64 ∧ (x.ctx, x.sigout) ∉ t.failed ∧ t.waves = s.waves)))) ∧
  (∀ (s : State) (g wv : Nat), (s.gridOf g).ending = false → (s.gridOf g).ended = false →
    let w := s.wv ⟨g, wv⟩
    (w.sup = false ∨ w.exited = true → exec (.gridTerminationRequest g wv) s = .next s) ∧
    (w.sup = true → w.exited = false → s.goes ⟨g, wv⟩ = true → ∃ t, exec (.gridTerminationRequest g wv) s = .next t ∧
      s.Terminated t g w.trapCause.toNat w.trapPc wv) ∧
    ((aget s.grids g).isSome = true → ∃ t, exec (.hostDriverTermination g) s = .next t ∧ (∀ h, h ≠ g → t.gridOf h = s.gridOf h) ∧
      t.gridOf g = { s.gridOf g with status := 0x0002, cause := 0, tpc := 0, wid := 0, ending := true } ∧
      (∀ id, id.g = g → (aget s.waves id).isSome = true → (t.wv id).exited = true) ∧ (∀ id, id.g ≠ g → t.wv id = s.wv id))) ∧
  (∀ (s : State) (c : CrewId), (∀ k ∈ s.cores, k.2.halted = false) →
    (s.victim c = false → exec (.parkedCrewPreemption c.g c.n) s = .next s) ∧
    (s.victim c = true → ∃ t, exec (.parkedCrewPreemption c.g c.n) s = .next t ∧ t = { s with preempting := s.preempting ++ [c] }) ∧
    (s.preempting.contains c = false → exec (.preemptionRequest [(c.g, c.n)]) s = .next s) ∧
    (s.preempting.contains c = true → (s.crewOf c).bound = true → (∀ p ∈ s.waves, p.2.inflight = []) → ∃ t, exec (.preemptionRequest [(c.g, c.n)]) s = .next t ∧
      t.preempting = [c] ∧ (∀ k, k < 384 → (t.coreOf k).halted = true) ∧ t.hbm = s.hbm ∧
      (∀ id, (aget s.waves id).isSome = true → t.wv id = { s.wv id with
        lvCls := 0, lvGnt := false, engCls := 0, engGnt := false, hold := (match (s.wv id).hold with | some ⟨.mma _, _, _⟩ => none | h => h) }))) ∧
  (∀ (s : State) (c : CrewId), s.preempting = [c] → (s.coreOf (s.crewOf c).core).halted = true → (s.crewOf c).bound = true → s.dirtyLines (s.crewOf c).core 4 = [] →
    s.unacked = false → s.llcKey = [] → (s.crewOf c).lsDirty = [] →
    ∃ t, exec (.crewSave c.g c.n) s = .next t ∧ t.preempting = [] ∧ (∀ k ∈ t.cores, k.2.halted = false) ∧ (t.crewOf c).bound = false ∧
      (t.gridOf c.g).saved = (s.gridOf c.g).saved ++ [c.n] ∧ (t.crewOf c).ls = (s.crewOf c).ls ∧
      (t.crewOf c).cmds = (s.coreOf (s.crewOf c).core).mq.filter (fun m => s.crewId m.wave = c) ++ (s.crewOf c).cmds ∧
      (∀ id ∈ s.liveCrew c, (t.wv id).active = false ∧ (t.wv id).search = none ∧ (t.wv id).v = (s.wv id).v ∧ (t.wv id).w = (s.wv id).w ∧
        (t.wv id).pc = (s.wv id).pc ∧ (t.wv id).tokens = (s.wv id).tokens ∧ (t.wv id).faults = (s.wv id).faults))

/-- R15, R16, R18, R19, R66, R189, R375, R426: one step. On a core's issue clock the wave that issues takes its deferred fault, or executes the
instruction that the word at its PC decodes to; a word that is none is an illegal instruction, and one that cannot be fetched a fetch fault.
A move of another agent is exec of its event. A module that has shut down takes no move but a power-on: the step is a fault. The order of
moves is the model's (log 2). -/
def Obligations.StepRunsTheDecodedInstruction : Prop :=
  ∀ (s : State) (core : Nat) (busy : List Nat),
    let u := s.advance.tock core
    (s.moduleUp = true → s.chosen = .issue core busy → u.pick core busy = none → step s = .next u) ∧
    (∀ id, s.moduleUp = true → s.chosen = .issue core busy → u.pick core busy = some id → (u.wv id).owes = true → step s = .next (u.deliver id)) ∧
    (∀ id i, s.moduleUp = true → s.chosen = .issue core busy → u.pick core busy = some id → (u.wv id).owes = false →
      let v := u.take id
      ((∃ x, v.fetchWord id v.w.pc.toNat = .ok x ∧ decodeWord x = .instr i) ∨
        (∃ x r, v.fetchWord id v.w.pc.toNat = .ok x ∧ decodeWord x = .reject r ∧ i = .illegalInstruction) ∨
        (∃ k, v.fetchWord id v.w.pc.toNat = .error k ∧ i = .instructionFetchFault)) →
      step s = (match exec i v with
        | .next t => .next (t.after id)
        | .fault f => .fault f
        | .refused r => .refused r)) ∧
    (∀ e, s.moduleUp = true → s.chosen = .occur e → isEvent e = true → step s = exec e s.advance) ∧
    (s.moduleUp = false → isPower s.chosen = false → step s = .fault .moduleDown)

/-- R44-R66: words written out from the encodings, one or more of each family, decode to the instruction they stand for; words of a reserved
major, with a reserved field set, or with an operand that its position forbids decode to none. -/
def Obligations.WordsDecodeAsTheTablesSay : Prop :=
  decodesTo 0x087040C5 (.madN32 7 2 3 false) ∧ decodesTo 0x086E3A89 (.shlN32 6 113 106 false) ∧ decodesTo 0x4380009F (.waveSltN64 56 0 2 false) ∧
  decodesTo 0x43D7A306 (.waveAndN32 61 61 12 false) ∧ decodesTo 0x20502092 (.fmaF32Rup 5 1 2 false) ∧ decodesTo 0x30804011 (.sqrtF64 8 2 false) ∧
  decodesTo 0x3830008C (.cnvF64S32 3 0 2 false) ∧ decodesTo 0x53906000 (.ballot 57 3) ∧ decodesTo 0x5B000003 (.call 3) ∧
  decodesTo 0x60000001 (.ret) ∧ decodesTo 0x63614003 (.jalr 54 10) ∧ decodesTo 0x60000006 (.exit) ∧
  decodesTo 0x68000140 (.svc 5) ∧ decodesTo 0x68000002 (.eret) ∧ decodesTo 0x69400483 (.rsr 20 0x12 false) ∧
  decodesTo 0x68006006 (.vwsr 3 0) ∧ decodesTo 0x70411C01 (.ldS8 4 4 112 0) ∧ decodesTo 0x783C4004 (.stcN32 3 49 0) ∧
  decodesTo 0x805101A0 (.amaddN32 5 4 6 4) ∧ decodesTo 0x80AC232E (.amcasN64 10 48 12 5) ∧ decodesTo 0x88900028 (.fence 9 5) ∧
  decodesTo 0x88010263 (.cinvd 4 9 4) ∧ decodesTo 0x91E0C600 (.aopen 30 6 24) ∧ decodesTo 0x91A0DC03 (.aredF64 26 6 112) ∧
  decodesTo 0x99400280 (.mmaF64 20 0 10) ∧ decodesTo 0x99800291 (.mmafF32 24 0 10) ∧ decodesTo 0xA0404500 (.cvtmxE4m3F32 4 2 20) ∧
  decodesTo 0xA141800C (.scaccF32 20 12) ∧ decodesTo 0xA8A04501 (.fcall 10 2 20) ∧ decodesTo 0xA8028602 (.fret 20 24) ∧
  decodesTo 0xB0028780 (.copy 20 30) ∧ decodesTo 0xB2904007 (.tffr 41 2) ∧ decodesTo 0xB8028000 (.gview 0 20) ∧
  decodesTo 0xB80106C1 (.gstn 0 8 27) ∧ decodesTo 0xC0108000 (.binit 1 4) ∧ decodesTo 0xC0914045 (.spush 9 10 1) ∧
  decodesTo 0xC2A00007 (.tagrd 42) ∧ decodesTo 0xC9408000 (.launch 20 4) ∧ decodesTo 0xC8008181 (.dwait 4 6) ∧
  decodesTo 0xC8000002 (.gbar) ∧
  (∀ w ∈ [0x00000000, 0xF0000000, 0x9940028E, 0x68000142, 0x63514003], ∃ r, decodeWord (BitVec.ofNat 32 w) = .reject r)

/-- R44-R66: decoding the encoded word of a well-formed instruction gives it back, every operand at every value that its position admits, so
that no bit of an encoding is dropped. -/
def Obligations.DecodingUndoesEncoding : Prop :=
  ∀ (i : Instr) (w : Word), i.wellFormed = true → encode i = some w → decodeWord w = .instr i

/-- R66: a word that decodes is the encoding of a well-formed instruction, so that no two words decode to one, and no word of a reserved form
decodes to any. -/
def Obligations.DecodingAnswersWellFormedInstructions : Prop :=
  ∀ (w : Word) (i : Instr), decodeWord w = .instr i → i.wellFormed = true ∧ encode i = some w

/-- Log 1: the memory keeps its canonical form through every step: device memory, the system range and every crew's local store hold no two
bytes of one address, in rising order, and list no byte that is zero. -/
def Obligations.StepsKeepMemoryCanonical : Prop :=
  ∀ s t : State, s.memOk → step s = .next t → t.memOk

/-- R234, R428, R429 and log 15: what reset leaves. Memory lists nothing and has its canonical form; no wave, crew, grid, context or key is
there; no line is open and no die has booted, so the host port is not up (R428); bucket b is at slice floor(3b / 64); no link has failed,
and the module runs. A byte that nothing has written reads zero (log 1). -/
def Obligations.ResetIsEmpty : Prop :=
  let s := State.reset
  s.memOk ∧ (∀ a, s.hbm.get a = 0 ∧ s.sysMem.get a = 0) ∧ s.waves = [] ∧ s.crews = [] ∧ s.grids = [] ∧ s.ctxs = [] ∧ s.keys = [] ∧ s.frames = [] ∧
    s.arrivals = [] ∧ s.buckets = [] ∧ s.moduleUp = true ∧ s.portUp = false ∧ (∀ d, (s.dieOf d).booted = false) ∧ (∀ k, (s.linkOf k).up = true) ∧
    ∀ b, b < 4096 → s.sliceOfBucket b = 3 * b / 64
end

