-- ==== Sys2Proof/Laws/State.lean ====
section
/-! SUPPORT. What each named update of the state and of a wave leaves as it was, one lemma per field, and what it changes, so that no later
proof unfolds a record update. -/

namespace Sys2Proof.Machine

section State
variable (s : State)

@[simp] theorem State.setWv_crews (id : WaveId) (w : Wave) : (s.setWv id w).crews = s.crews := rfl
@[simp] theorem State.setWv_cores (id : WaveId) (w : Wave) : (s.setWv id w).cores = s.cores := rfl
@[simp] theorem State.setWv_grids (id : WaveId) (w : Wave) : (s.setWv id w).grids = s.grids := rfl
@[simp] theorem State.setWv_ctxs (id : WaveId) (w : Wave) : (s.setWv id w).ctxs = s.ctxs := rfl
@[simp] theorem State.setWv_hbm (id : WaveId) (w : Wave) : (s.setWv id w).hbm = s.hbm := rfl
@[simp] theorem State.setWv_sysMem (id : WaveId) (w : Wave) : (s.setWv id w).sysMem = s.sysMem := rfl
@[simp] theorem State.setWv_lineKey (id : WaveId) (w : Wave) : (s.setWv id w).lineKey = s.lineKey := rfl
@[simp] theorem State.setWv_llc (id : WaveId) (w : Wave) : (s.setWv id w).llc = s.llc := rfl
@[simp] theorem State.setWv_llcKey (id : WaveId) (w : Wave) : (s.setWv id w).llcKey = s.llcKey := rfl
@[simp] theorem State.setWv_l2 (id : WaveId) (w : Wave) : (s.setWv id w).l2 = s.l2 := rfl
@[simp] theorem State.setWv_sc (id : WaveId) (w : Wave) : (s.setWv id w).sc = s.sc := rfl
@[simp] theorem State.setWv_bad (id : WaveId) (w : Wave) : (s.setWv id w).bad = s.bad := rfl
@[simp] theorem State.setWv_dirs (id : WaveId) (w : Wave) : (s.setWv id w).dirs = s.dirs := rfl
@[simp] theorem State.setWv_hostHalf (id : WaveId) (w : Wave) : (s.setWv id w).hostHalf = s.hostHalf := rfl
@[simp] theorem State.setWv_sliceTab (id : WaveId) (w : Wave) : (s.setWv id w).sliceTab = s.sliceTab := rfl
@[simp] theorem State.setWv_hostWin (id : WaveId) (w : Wave) : (s.setWv id w).hostWin = s.hostWin := rfl
@[simp] theorem State.setWv_fabWin (id : WaveId) (w : Wave) : (s.setWv id w).fabWin = s.fabWin := rfl
@[simp] theorem State.setWv_remoteX (id : WaveId) (w : Wave) : (s.setWv id w).remoteX = s.remoteX := rfl
@[simp] theorem State.setWv_brokenLines (id : WaveId) (w : Wave) : (s.setWv id w).brokenLines = s.brokenLines := rfl
@[simp] theorem State.setWv_gangTlb (id : WaveId) (w : Wave) : (s.setWv id w).gangTlb = s.gangTlb := rfl
@[simp] theorem State.setWv_walkTlb (id : WaveId) (w : Wave) : (s.setWv id w).walkTlb = s.walkTlb := rfl
@[simp] theorem State.setWv_hostReply (id : WaveId) (w : Wave) : (s.setWv id w).hostReply = s.hostReply := rfl
@[simp] theorem State.setWv_nextTxn (id : WaveId) (w : Wave) : (s.setWv id w).nextTxn = s.nextTxn := rfl
@[simp] theorem State.setWv_openTxn (id : WaveId) (w : Wave) : (s.setWv id w).openTxn = s.openTxn := rfl
@[simp] theorem State.setWv_peerWriters (id : WaveId) (w : Wave) : (s.setWv id w).peerWriters = s.peerWriters := rfl
@[simp] theorem State.setWv_keys (id : WaveId) (w : Wave) : (s.setWv id w).keys = s.keys := rfl
@[simp] theorem State.setWv_frames (id : WaveId) (w : Wave) : (s.setWv id w).frames = s.frames := rfl
@[simp] theorem State.setWv_arrivals (id : WaveId) (w : Wave) : (s.setWv id w).arrivals = s.arrivals := rfl
@[simp] theorem State.setWv_chanNum (id : WaveId) (w : Wave) : (s.setWv id w).chanNum = s.chanNum := rfl
@[simp] theorem State.setWv_hwm (id : WaveId) (w : Wave) : (s.setWv id w).hwm = s.hwm := rfl
@[simp] theorem State.setWv_buckets (id : WaveId) (w : Wave) : (s.setWv id w).buckets = s.buckets := rfl
@[simp] theorem State.setWv_storeGen (id : WaveId) (w : Wave) : (s.setWv id w).storeGen = s.storeGen := rfl
@[simp] theorem State.setWv_fsCount (id : WaveId) (w : Wave) : (s.setWv id w).fsCount = s.fsCount := rfl
@[simp] theorem State.setWv_fsOps (id : WaveId) (w : Wave) : (s.setWv id w).fsOps = s.fsOps := rfl
@[simp] theorem State.setWv_sectors (id : WaveId) (w : Wave) : (s.setWv id w).sectors = s.sectors := rfl
@[simp] theorem State.setWv_dies (id : WaveId) (w : Wave) : (s.setWv id w).dies = s.dies := rfl
@[simp] theorem State.setWv_failed (id : WaveId) (w : Wave) : (s.setWv id w).failed = s.failed := rfl
@[simp] theorem State.setWv_errIrqs (id : WaveId) (w : Wave) : (s.setWv id w).errIrqs = s.errIrqs := rfl
@[simp] theorem State.setWv_links (id : WaveId) (w : Wave) : (s.setWv id w).links = s.links := rfl
@[simp] theorem State.setWv_peers (id : WaveId) (w : Wave) : (s.setWv id w).peers = s.peers := rfl
@[simp] theorem State.setWv_self (id : WaveId) (w : Wave) : (s.setWv id w).self = s.self := rfl
@[simp] theorem State.setWv_beats (id : WaveId) (w : Wave) : (s.setWv id w).beats = s.beats := rfl
@[simp] theorem State.setWv_replicas (id : WaveId) (w : Wave) : (s.setWv id w).replicas = s.replicas := rfl
@[simp] theorem State.setWv_creators (id : WaveId) (w : Wave) : (s.setWv id w).creators = s.creators := rfl
@[simp] theorem State.setWv_newSets (id : WaveId) (w : Wave) : (s.setWv id w).newSets = s.newSets := rfl
@[simp] theorem State.setWv_preempting (id : WaveId) (w : Wave) : (s.setWv id w).preempting = s.preempting := rfl
@[simp] theorem State.setWv_identity (id : WaveId) (w : Wave) : (s.setWv id w).identity = s.identity := rfl
@[simp] theorem State.setWv_identityKey (id : WaveId) (w : Wave) : (s.setWv id w).identityKey = s.identityKey := rfl
@[simp] theorem State.setWv_measured (id : WaveId) (w : Wave) : (s.setWv id w).measured = s.measured := rfl
@[simp] theorem State.setWv_keyExchange (id : WaveId) (w : Wave) : (s.setWv id w).keyExchange = s.keyExchange := rfl
@[simp] theorem State.setWv_spdm (id : WaveId) (w : Wave) : (s.setWv id w).spdm = s.spdm := rfl
@[simp] theorem State.setWv_attested (id : WaveId) (w : Wave) : (s.setWv id w).attested = s.attested := rfl
@[simp] theorem State.setWv_secure (id : WaveId) (w : Wave) : (s.setWv id w).secure = s.secure := rfl
@[simp] theorem State.setWv_moduleUp (id : WaveId) (w : Wave) : (s.setWv id w).moduleUp = s.moduleUp := rfl
@[simp] theorem State.setWv_portFault (id : WaveId) (w : Wave) : (s.setWv id w).portFault = s.portFault := rfl
@[simp] theorem State.setWv_nextGrid (id : WaveId) (w : Wave) : (s.setWv id w).nextGrid = s.nextGrid := rfl
@[simp] theorem State.setWv_nextUid (id : WaveId) (w : Wave) : (s.setWv id w).nextUid = s.nextUid := rfl
@[simp] theorem State.setWv_cur (id : WaveId) (w : Wave) : (s.setWv id w).cur = s.cur := rfl
@[simp] theorem State.setWv_agenda (id : WaveId) (w : Wave) : (s.setWv id w).agenda = s.agenda := rfl
@[simp] theorem State.setWv_tick (id : WaveId) (w : Wave) : (s.setWv id w).tick = s.tick := rfl

@[simp] theorem State.setW_crews (w : Wave) : (s.setW w).crews = s.crews := rfl
@[simp] theorem State.setW_cores (w : Wave) : (s.setW w).cores = s.cores := rfl
@[simp] theorem State.setW_grids (w : Wave) : (s.setW w).grids = s.grids := rfl
@[simp] theorem State.setW_ctxs (w : Wave) : (s.setW w).ctxs = s.ctxs := rfl
@[simp] theorem State.setW_hbm (w : Wave) : (s.setW w).hbm = s.hbm := rfl
@[simp] theorem State.setW_sysMem (w : Wave) : (s.setW w).sysMem = s.sysMem := rfl
@[simp] theorem State.setW_lineKey (w : Wave) : (s.setW w).lineKey = s.lineKey := rfl
@[simp] theorem State.setW_llc (w : Wave) : (s.setW w).llc = s.llc := rfl
@[simp] theorem State.setW_llcKey (w : Wave) : (s.setW w).llcKey = s.llcKey := rfl
@[simp] theorem State.setW_l2 (w : Wave) : (s.setW w).l2 = s.l2 := rfl
@[simp] theorem State.setW_sc (w : Wave) : (s.setW w).sc = s.sc := rfl
@[simp] theorem State.setW_bad (w : Wave) : (s.setW w).bad = s.bad := rfl
@[simp] theorem State.setW_dirs (w : Wave) : (s.setW w).dirs = s.dirs := rfl
@[simp] theorem State.setW_hostHalf (w : Wave) : (s.setW w).hostHalf = s.hostHalf := rfl
@[simp] theorem State.setW_sliceTab (w : Wave) : (s.setW w).sliceTab = s.sliceTab := rfl
@[simp] theorem State.setW_hostWin (w : Wave) : (s.setW w).hostWin = s.hostWin := rfl
@[simp] theorem State.setW_fabWin (w : Wave) : (s.setW w).fabWin = s.fabWin := rfl
@[simp] theorem State.setW_remoteX (w : Wave) : (s.setW w).remoteX = s.remoteX := rfl
@[simp] theorem State.setW_brokenLines (w : Wave) : (s.setW w).brokenLines = s.brokenLines := rfl
@[simp] theorem State.setW_gangTlb (w : Wave) : (s.setW w).gangTlb = s.gangTlb := rfl
@[simp] theorem State.setW_walkTlb (w : Wave) : (s.setW w).walkTlb = s.walkTlb := rfl
@[simp] theorem State.setW_hostReply (w : Wave) : (s.setW w).hostReply = s.hostReply := rfl
@[simp] theorem State.setW_nextTxn (w : Wave) : (s.setW w).nextTxn = s.nextTxn := rfl
@[simp] theorem State.setW_openTxn (w : Wave) : (s.setW w).openTxn = s.openTxn := rfl
@[simp] theorem State.setW_peerWriters (w : Wave) : (s.setW w).peerWriters = s.peerWriters := rfl
@[simp] theorem State.setW_keys (w : Wave) : (s.setW w).keys = s.keys := rfl
@[simp] theorem State.setW_frames (w : Wave) : (s.setW w).frames = s.frames := rfl
@[simp] theorem State.setW_arrivals (w : Wave) : (s.setW w).arrivals = s.arrivals := rfl
@[simp] theorem State.setW_chanNum (w : Wave) : (s.setW w).chanNum = s.chanNum := rfl
@[simp] theorem State.setW_hwm (w : Wave) : (s.setW w).hwm = s.hwm := rfl
@[simp] theorem State.setW_buckets (w : Wave) : (s.setW w).buckets = s.buckets := rfl
@[simp] theorem State.setW_storeGen (w : Wave) : (s.setW w).storeGen = s.storeGen := rfl
@[simp] theorem State.setW_fsCount (w : Wave) : (s.setW w).fsCount = s.fsCount := rfl
@[simp] theorem State.setW_fsOps (w : Wave) : (s.setW w).fsOps = s.fsOps := rfl
@[simp] theorem State.setW_sectors (w : Wave) : (s.setW w).sectors = s.sectors := rfl
@[simp] theorem State.setW_dies (w : Wave) : (s.setW w).dies = s.dies := rfl
@[simp] theorem State.setW_failed (w : Wave) : (s.setW w).failed = s.failed := rfl
@[simp] theorem State.setW_errIrqs (w : Wave) : (s.setW w).errIrqs = s.errIrqs := rfl
@[simp] theorem State.setW_links (w : Wave) : (s.setW w).links = s.links := rfl
@[simp] theorem State.setW_peers (w : Wave) : (s.setW w).peers = s.peers := rfl
@[simp] theorem State.setW_self (w : Wave) : (s.setW w).self = s.self := rfl
@[simp] theorem State.setW_beats (w : Wave) : (s.setW w).beats = s.beats := rfl
@[simp] theorem State.setW_replicas (w : Wave) : (s.setW w).replicas = s.replicas := rfl
@[simp] theorem State.setW_creators (w : Wave) : (s.setW w).creators = s.creators := rfl
@[simp] theorem State.setW_newSets (w : Wave) : (s.setW w).newSets = s.newSets := rfl
@[simp] theorem State.setW_preempting (w : Wave) : (s.setW w).preempting = s.preempting := rfl
@[simp] theorem State.setW_identity (w : Wave) : (s.setW w).identity = s.identity := rfl
@[simp] theorem State.setW_identityKey (w : Wave) : (s.setW w).identityKey = s.identityKey := rfl
@[simp] theorem State.setW_measured (w : Wave) : (s.setW w).measured = s.measured := rfl
@[simp] theorem State.setW_keyExchange (w : Wave) : (s.setW w).keyExchange = s.keyExchange := rfl
@[simp] theorem State.setW_spdm (w : Wave) : (s.setW w).spdm = s.spdm := rfl
@[simp] theorem State.setW_attested (w : Wave) : (s.setW w).attested = s.attested := rfl
@[simp] theorem State.setW_secure (w : Wave) : (s.setW w).secure = s.secure := rfl
@[simp] theorem State.setW_moduleUp (w : Wave) : (s.setW w).moduleUp = s.moduleUp := rfl
@[simp] theorem State.setW_portFault (w : Wave) : (s.setW w).portFault = s.portFault := rfl
@[simp] theorem State.setW_nextGrid (w : Wave) : (s.setW w).nextGrid = s.nextGrid := rfl
@[simp] theorem State.setW_nextUid (w : Wave) : (s.setW w).nextUid = s.nextUid := rfl
@[simp] theorem State.setW_cur (w : Wave) : (s.setW w).cur = s.cur := rfl
@[simp] theorem State.setW_agenda (w : Wave) : (s.setW w).agenda = s.agenda := rfl
@[simp] theorem State.setW_tick (w : Wave) : (s.setW w).tick = s.tick := rfl

@[simp] theorem State.modW_crews (f : Wave → Wave) : (s.modW f).crews = s.crews := rfl
@[simp] theorem State.modW_cores (f : Wave → Wave) : (s.modW f).cores = s.cores := rfl
@[simp] theorem State.modW_grids (f : Wave → Wave) : (s.modW f).grids = s.grids := rfl
@[simp] theorem State.modW_ctxs (f : Wave → Wave) : (s.modW f).ctxs = s.ctxs := rfl
@[simp] theorem State.modW_hbm (f : Wave → Wave) : (s.modW f).hbm = s.hbm := rfl
@[simp] theorem State.modW_sysMem (f : Wave → Wave) : (s.modW f).sysMem = s.sysMem := rfl
@[simp] theorem State.modW_lineKey (f : Wave → Wave) : (s.modW f).lineKey = s.lineKey := rfl
@[simp] theorem State.modW_llc (f : Wave → Wave) : (s.modW f).llc = s.llc := rfl
@[simp] theorem State.modW_llcKey (f : Wave → Wave) : (s.modW f).llcKey = s.llcKey := rfl
@[simp] theorem State.modW_l2 (f : Wave → Wave) : (s.modW f).l2 = s.l2 := rfl
@[simp] theorem State.modW_sc (f : Wave → Wave) : (s.modW f).sc = s.sc := rfl
@[simp] theorem State.modW_bad (f : Wave → Wave) : (s.modW f).bad = s.bad := rfl
@[simp] theorem State.modW_dirs (f : Wave → Wave) : (s.modW f).dirs = s.dirs := rfl
@[simp] theorem State.modW_hostHalf (f : Wave → Wave) : (s.modW f).hostHalf = s.hostHalf := rfl
@[simp] theorem State.modW_sliceTab (f : Wave → Wave) : (s.modW f).sliceTab = s.sliceTab := rfl
@[simp] theorem State.modW_hostWin (f : Wave → Wave) : (s.modW f).hostWin = s.hostWin := rfl
@[simp] theorem State.modW_fabWin (f : Wave → Wave) : (s.modW f).fabWin = s.fabWin := rfl
@[simp] theorem State.modW_remoteX (f : Wave → Wave) : (s.modW f).remoteX = s.remoteX := rfl
@[simp] theorem State.modW_brokenLines (f : Wave → Wave) : (s.modW f).brokenLines = s.brokenLines := rfl
@[simp] theorem State.modW_gangTlb (f : Wave → Wave) : (s.modW f).gangTlb = s.gangTlb := rfl
@[simp] theorem State.modW_walkTlb (f : Wave → Wave) : (s.modW f).walkTlb = s.walkTlb := rfl
@[simp] theorem State.modW_hostReply (f : Wave → Wave) : (s.modW f).hostReply = s.hostReply := rfl
@[simp] theorem State.modW_nextTxn (f : Wave → Wave) : (s.modW f).nextTxn = s.nextTxn := rfl
@[simp] theorem State.modW_openTxn (f : Wave → Wave) : (s.modW f).openTxn = s.openTxn := rfl
@[simp] theorem State.modW_peerWriters (f : Wave → Wave) : (s.modW f).peerWriters = s.peerWriters := rfl
@[simp] theorem State.modW_keys (f : Wave → Wave) : (s.modW f).keys = s.keys := rfl
@[simp] theorem State.modW_frames (f : Wave → Wave) : (s.modW f).frames = s.frames := rfl
@[simp] theorem State.modW_arrivals (f : Wave → Wave) : (s.modW f).arrivals = s.arrivals := rfl
@[simp] theorem State.modW_chanNum (f : Wave → Wave) : (s.modW f).chanNum = s.chanNum := rfl
@[simp] theorem State.modW_hwm (f : Wave → Wave) : (s.modW f).hwm = s.hwm := rfl
@[simp] theorem State.modW_buckets (f : Wave → Wave) : (s.modW f).buckets = s.buckets := rfl
@[simp] theorem State.modW_storeGen (f : Wave → Wave) : (s.modW f).storeGen = s.storeGen := rfl
@[simp] theorem State.modW_fsCount (f : Wave → Wave) : (s.modW f).fsCount = s.fsCount := rfl
@[simp] theorem State.modW_fsOps (f : Wave → Wave) : (s.modW f).fsOps = s.fsOps := rfl
@[simp] theorem State.modW_sectors (f : Wave → Wave) : (s.modW f).sectors = s.sectors := rfl
@[simp] theorem State.modW_dies (f : Wave → Wave) : (s.modW f).dies = s.dies := rfl
@[simp] theorem State.modW_failed (f : Wave → Wave) : (s.modW f).failed = s.failed := rfl
@[simp] theorem State.modW_errIrqs (f : Wave → Wave) : (s.modW f).errIrqs = s.errIrqs := rfl
@[simp] theorem State.modW_links (f : Wave → Wave) : (s.modW f).links = s.links := rfl
@[simp] theorem State.modW_peers (f : Wave → Wave) : (s.modW f).peers = s.peers := rfl
@[simp] theorem State.modW_self (f : Wave → Wave) : (s.modW f).self = s.self := rfl
@[simp] theorem State.modW_beats (f : Wave → Wave) : (s.modW f).beats = s.beats := rfl
@[simp] theorem State.modW_replicas (f : Wave → Wave) : (s.modW f).replicas = s.replicas := rfl
@[simp] theorem State.modW_creators (f : Wave → Wave) : (s.modW f).creators = s.creators := rfl
@[simp] theorem State.modW_newSets (f : Wave → Wave) : (s.modW f).newSets = s.newSets := rfl
@[simp] theorem State.modW_preempting (f : Wave → Wave) : (s.modW f).preempting = s.preempting := rfl
@[simp] theorem State.modW_identity (f : Wave → Wave) : (s.modW f).identity = s.identity := rfl
@[simp] theorem State.modW_identityKey (f : Wave → Wave) : (s.modW f).identityKey = s.identityKey := rfl
@[simp] theorem State.modW_measured (f : Wave → Wave) : (s.modW f).measured = s.measured := rfl
@[simp] theorem State.modW_keyExchange (f : Wave → Wave) : (s.modW f).keyExchange = s.keyExchange := rfl
@[simp] theorem State.modW_spdm (f : Wave → Wave) : (s.modW f).spdm = s.spdm := rfl
@[simp] theorem State.modW_attested (f : Wave → Wave) : (s.modW f).attested = s.attested := rfl
@[simp] theorem State.modW_secure (f : Wave → Wave) : (s.modW f).secure = s.secure := rfl
@[simp] theorem State.modW_moduleUp (f : Wave → Wave) : (s.modW f).moduleUp = s.moduleUp := rfl
@[simp] theorem State.modW_portFault (f : Wave → Wave) : (s.modW f).portFault = s.portFault := rfl
@[simp] theorem State.modW_nextGrid (f : Wave → Wave) : (s.modW f).nextGrid = s.nextGrid := rfl
@[simp] theorem State.modW_nextUid (f : Wave → Wave) : (s.modW f).nextUid = s.nextUid := rfl
@[simp] theorem State.modW_cur (f : Wave → Wave) : (s.modW f).cur = s.cur := rfl
@[simp] theorem State.modW_agenda (f : Wave → Wave) : (s.modW f).agenda = s.agenda := rfl
@[simp] theorem State.modW_tick (f : Wave → Wave) : (s.modW f).tick = s.tick := rfl

@[simp] theorem State.modWv_crews (id : WaveId) (f : Wave → Wave) : (s.modWv id f).crews = s.crews := rfl
@[simp] theorem State.modWv_cores (id : WaveId) (f : Wave → Wave) : (s.modWv id f).cores = s.cores := rfl
@[simp] theorem State.modWv_grids (id : WaveId) (f : Wave → Wave) : (s.modWv id f).grids = s.grids := rfl
@[simp] theorem State.modWv_ctxs (id : WaveId) (f : Wave → Wave) : (s.modWv id f).ctxs = s.ctxs := rfl
@[simp] theorem State.modWv_hbm (id : WaveId) (f : Wave → Wave) : (s.modWv id f).hbm = s.hbm := rfl
@[simp] theorem State.modWv_sysMem (id : WaveId) (f : Wave → Wave) : (s.modWv id f).sysMem = s.sysMem := rfl
@[simp] theorem State.modWv_lineKey (id : WaveId) (f : Wave → Wave) : (s.modWv id f).lineKey = s.lineKey := rfl
@[simp] theorem State.modWv_llc (id : WaveId) (f : Wave → Wave) : (s.modWv id f).llc = s.llc := rfl
@[simp] theorem State.modWv_llcKey (id : WaveId) (f : Wave → Wave) : (s.modWv id f).llcKey = s.llcKey := rfl
@[simp] theorem State.modWv_l2 (id : WaveId) (f : Wave → Wave) : (s.modWv id f).l2 = s.l2 := rfl
@[simp] theorem State.modWv_sc (id : WaveId) (f : Wave → Wave) : (s.modWv id f).sc = s.sc := rfl
@[simp] theorem State.modWv_bad (id : WaveId) (f : Wave → Wave) : (s.modWv id f).bad = s.bad := rfl
@[simp] theorem State.modWv_dirs (id : WaveId) (f : Wave → Wave) : (s.modWv id f).dirs = s.dirs := rfl
@[simp] theorem State.modWv_hostHalf (id : WaveId) (f : Wave → Wave) : (s.modWv id f).hostHalf = s.hostHalf := rfl
@[simp] theorem State.modWv_sliceTab (id : WaveId) (f : Wave → Wave) : (s.modWv id f).sliceTab = s.sliceTab := rfl
@[simp] theorem State.modWv_hostWin (id : WaveId) (f : Wave → Wave) : (s.modWv id f).hostWin = s.hostWin := rfl
@[simp] theorem State.modWv_fabWin (id : WaveId) (f : Wave → Wave) : (s.modWv id f).fabWin = s.fabWin := rfl
@[simp] theorem State.modWv_remoteX (id : WaveId) (f : Wave → Wave) : (s.modWv id f).remoteX = s.remoteX := rfl
@[simp] theorem State.modWv_brokenLines (id : WaveId) (f : Wave → Wave) : (s.modWv id f).brokenLines = s.brokenLines := rfl
@[simp] theorem State.modWv_gangTlb (id : WaveId) (f : Wave → Wave) : (s.modWv id f).gangTlb = s.gangTlb := rfl
@[simp] theorem State.modWv_walkTlb (id : WaveId) (f : Wave → Wave) : (s.modWv id f).walkTlb = s.walkTlb := rfl
@[simp] theorem State.modWv_hostReply (id : WaveId) (f : Wave → Wave) : (s.modWv id f).hostReply = s.hostReply := rfl
@[simp] theorem State.modWv_nextTxn (id : WaveId) (f : Wave → Wave) : (s.modWv id f).nextTxn = s.nextTxn := rfl
@[simp] theorem State.modWv_openTxn (id : WaveId) (f : Wave → Wave) : (s.modWv id f).openTxn = s.openTxn := rfl
@[simp] theorem State.modWv_peerWriters (id : WaveId) (f : Wave → Wave) : (s.modWv id f).peerWriters = s.peerWriters := rfl
@[simp] theorem State.modWv_keys (id : WaveId) (f : Wave → Wave) : (s.modWv id f).keys = s.keys := rfl
@[simp] theorem State.modWv_frames (id : WaveId) (f : Wave → Wave) : (s.modWv id f).frames = s.frames := rfl
@[simp] theorem State.modWv_arrivals (id : WaveId) (f : Wave → Wave) : (s.modWv id f).arrivals = s.arrivals := rfl
@[simp] theorem State.modWv_chanNum (id : WaveId) (f : Wave → Wave) : (s.modWv id f).chanNum = s.chanNum := rfl
@[simp] theorem State.modWv_hwm (id : WaveId) (f : Wave → Wave) : (s.modWv id f).hwm = s.hwm := rfl
@[simp] theorem State.modWv_buckets (id : WaveId) (f : Wave → Wave) : (s.modWv id f).buckets = s.buckets := rfl
@[simp] theorem State.modWv_storeGen (id : WaveId) (f : Wave → Wave) : (s.modWv id f).storeGen = s.storeGen := rfl
@[simp] theorem State.modWv_fsCount (id : WaveId) (f : Wave → Wave) : (s.modWv id f).fsCount = s.fsCount := rfl
@[simp] theorem State.modWv_fsOps (id : WaveId) (f : Wave → Wave) : (s.modWv id f).fsOps = s.fsOps := rfl
@[simp] theorem State.modWv_sectors (id : WaveId) (f : Wave → Wave) : (s.modWv id f).sectors = s.sectors := rfl
@[simp] theorem State.modWv_dies (id : WaveId) (f : Wave → Wave) : (s.modWv id f).dies = s.dies := rfl
@[simp] theorem State.modWv_failed (id : WaveId) (f : Wave → Wave) : (s.modWv id f).failed = s.failed := rfl
@[simp] theorem State.modWv_errIrqs (id : WaveId) (f : Wave → Wave) : (s.modWv id f).errIrqs = s.errIrqs := rfl
@[simp] theorem State.modWv_links (id : WaveId) (f : Wave → Wave) : (s.modWv id f).links = s.links := rfl
@[simp] theorem State.modWv_peers (id : WaveId) (f : Wave → Wave) : (s.modWv id f).peers = s.peers := rfl
@[simp] theorem State.modWv_self (id : WaveId) (f : Wave → Wave) : (s.modWv id f).self = s.self := rfl
@[simp] theorem State.modWv_beats (id : WaveId) (f : Wave → Wave) : (s.modWv id f).beats = s.beats := rfl
@[simp] theorem State.modWv_replicas (id : WaveId) (f : Wave → Wave) : (s.modWv id f).replicas = s.replicas := rfl
@[simp] theorem State.modWv_creators (id : WaveId) (f : Wave → Wave) : (s.modWv id f).creators = s.creators := rfl
@[simp] theorem State.modWv_newSets (id : WaveId) (f : Wave → Wave) : (s.modWv id f).newSets = s.newSets := rfl
@[simp] theorem State.modWv_preempting (id : WaveId) (f : Wave → Wave) : (s.modWv id f).preempting = s.preempting := rfl
@[simp] theorem State.modWv_identity (id : WaveId) (f : Wave → Wave) : (s.modWv id f).identity = s.identity := rfl
@[simp] theorem State.modWv_identityKey (id : WaveId) (f : Wave → Wave) : (s.modWv id f).identityKey = s.identityKey := rfl
@[simp] theorem State.modWv_measured (id : WaveId) (f : Wave → Wave) : (s.modWv id f).measured = s.measured := rfl
@[simp] theorem State.modWv_keyExchange (id : WaveId) (f : Wave → Wave) : (s.modWv id f).keyExchange = s.keyExchange := rfl
@[simp] theorem State.modWv_spdm (id : WaveId) (f : Wave → Wave) : (s.modWv id f).spdm = s.spdm := rfl
@[simp] theorem State.modWv_attested (id : WaveId) (f : Wave → Wave) : (s.modWv id f).attested = s.attested := rfl
@[simp] theorem State.modWv_secure (id : WaveId) (f : Wave → Wave) : (s.modWv id f).secure = s.secure := rfl
@[simp] theorem State.modWv_moduleUp (id : WaveId) (f : Wave → Wave) : (s.modWv id f).moduleUp = s.moduleUp := rfl
@[simp] theorem State.modWv_portFault (id : WaveId) (f : Wave → Wave) : (s.modWv id f).portFault = s.portFault := rfl
@[simp] theorem State.modWv_nextGrid (id : WaveId) (f : Wave → Wave) : (s.modWv id f).nextGrid = s.nextGrid := rfl
@[simp] theorem State.modWv_nextUid (id : WaveId) (f : Wave → Wave) : (s.modWv id f).nextUid = s.nextUid := rfl
@[simp] theorem State.modWv_cur (id : WaveId) (f : Wave → Wave) : (s.modWv id f).cur = s.cur := rfl
@[simp] theorem State.modWv_agenda (id : WaveId) (f : Wave → Wave) : (s.modWv id f).agenda = s.agenda := rfl
@[simp] theorem State.modWv_tick (id : WaveId) (f : Wave → Wave) : (s.modWv id f).tick = s.tick := rfl

@[simp] theorem State.setGrid_waves (g : Nat) (x : Grid) : (s.setGrid g x).waves = s.waves := rfl
@[simp] theorem State.setGrid_crews (g : Nat) (x : Grid) : (s.setGrid g x).crews = s.crews := rfl
@[simp] theorem State.setGrid_cores (g : Nat) (x : Grid) : (s.setGrid g x).cores = s.cores := rfl
@[simp] theorem State.setGrid_ctxs (g : Nat) (x : Grid) : (s.setGrid g x).ctxs = s.ctxs := rfl
@[simp] theorem State.setGrid_hbm (g : Nat) (x : Grid) : (s.setGrid g x).hbm = s.hbm := rfl
@[simp] theorem State.setGrid_sysMem (g : Nat) (x : Grid) : (s.setGrid g x).sysMem = s.sysMem := rfl
@[simp] theorem State.setGrid_lineKey (g : Nat) (x : Grid) : (s.setGrid g x).lineKey = s.lineKey := rfl
@[simp] theorem State.setGrid_llc (g : Nat) (x : Grid) : (s.setGrid g x).llc = s.llc := rfl
@[simp] theorem State.setGrid_llcKey (g : Nat) (x : Grid) : (s.setGrid g x).llcKey = s.llcKey := rfl
@[simp] theorem State.setGrid_l2 (g : Nat) (x : Grid) : (s.setGrid g x).l2 = s.l2 := rfl
@[simp] theorem State.setGrid_sc (g : Nat) (x : Grid) : (s.setGrid g x).sc = s.sc := rfl
@[simp] theorem State.setGrid_bad (g : Nat) (x : Grid) : (s.setGrid g x).bad = s.bad := rfl
@[simp] theorem State.setGrid_dirs (g : Nat) (x : Grid) : (s.setGrid g x).dirs = s.dirs := rfl
@[simp] theorem State.setGrid_hostHalf (g : Nat) (x : Grid) : (s.setGrid g x).hostHalf = s.hostHalf := rfl
@[simp] theorem State.setGrid_sliceTab (g : Nat) (x : Grid) : (s.setGrid g x).sliceTab = s.sliceTab := rfl
@[simp] theorem State.setGrid_hostWin (g : Nat) (x : Grid) : (s.setGrid g x).hostWin = s.hostWin := rfl
@[simp] theorem State.setGrid_fabWin (g : Nat) (x : Grid) : (s.setGrid g x).fabWin = s.fabWin := rfl
@[simp] theorem State.setGrid_remoteX (g : Nat) (x : Grid) : (s.setGrid g x).remoteX = s.remoteX := rfl
@[simp] theorem State.setGrid_brokenLines (g : Nat) (x : Grid) : (s.setGrid g x).brokenLines = s.brokenLines := rfl
@[simp] theorem State.setGrid_gangTlb (g : Nat) (x : Grid) : (s.setGrid g x).gangTlb = s.gangTlb := rfl
@[simp] theorem State.setGrid_walkTlb (g : Nat) (x : Grid) : (s.setGrid g x).walkTlb = s.walkTlb := rfl
@[simp] theorem State.setGrid_hostReply (g : Nat) (x : Grid) : (s.setGrid g x).hostReply = s.hostReply := rfl
@[simp] theorem State.setGrid_nextTxn (g : Nat) (x : Grid) : (s.setGrid g x).nextTxn = s.nextTxn := rfl
@[simp] theorem State.setGrid_openTxn (g : Nat) (x : Grid) : (s.setGrid g x).openTxn = s.openTxn := rfl
@[simp] theorem State.setGrid_peerWriters (g : Nat) (x : Grid) : (s.setGrid g x).peerWriters = s.peerWriters := rfl
@[simp] theorem State.setGrid_keys (g : Nat) (x : Grid) : (s.setGrid g x).keys = s.keys := rfl
@[simp] theorem State.setGrid_frames (g : Nat) (x : Grid) : (s.setGrid g x).frames = s.frames := rfl
@[simp] theorem State.setGrid_arrivals (g : Nat) (x : Grid) : (s.setGrid g x).arrivals = s.arrivals := rfl
@[simp] theorem State.setGrid_chanNum (g : Nat) (x : Grid) : (s.setGrid g x).chanNum = s.chanNum := rfl
@[simp] theorem State.setGrid_hwm (g : Nat) (x : Grid) : (s.setGrid g x).hwm = s.hwm := rfl
@[simp] theorem State.setGrid_buckets (g : Nat) (x : Grid) : (s.setGrid g x).buckets = s.buckets := rfl
@[simp] theorem State.setGrid_storeGen (g : Nat) (x : Grid) : (s.setGrid g x).storeGen = s.storeGen := rfl
@[simp] theorem State.setGrid_fsCount (g : Nat) (x : Grid) : (s.setGrid g x).fsCount = s.fsCount := rfl
@[simp] theorem State.setGrid_fsOps (g : Nat) (x : Grid) : (s.setGrid g x).fsOps = s.fsOps := rfl
@[simp] theorem State.setGrid_sectors (g : Nat) (x : Grid) : (s.setGrid g x).sectors = s.sectors := rfl
@[simp] theorem State.setGrid_dies (g : Nat) (x : Grid) : (s.setGrid g x).dies = s.dies := rfl
@[simp] theorem State.setGrid_failed (g : Nat) (x : Grid) : (s.setGrid g x).failed = s.failed := rfl
@[simp] theorem State.setGrid_errIrqs (g : Nat) (x : Grid) : (s.setGrid g x).errIrqs = s.errIrqs := rfl
@[simp] theorem State.setGrid_links (g : Nat) (x : Grid) : (s.setGrid g x).links = s.links := rfl
@[simp] theorem State.setGrid_peers (g : Nat) (x : Grid) : (s.setGrid g x).peers = s.peers := rfl
@[simp] theorem State.setGrid_self (g : Nat) (x : Grid) : (s.setGrid g x).self = s.self := rfl
@[simp] theorem State.setGrid_beats (g : Nat) (x : Grid) : (s.setGrid g x).beats = s.beats := rfl
@[simp] theorem State.setGrid_replicas (g : Nat) (x : Grid) : (s.setGrid g x).replicas = s.replicas := rfl
@[simp] theorem State.setGrid_creators (g : Nat) (x : Grid) : (s.setGrid g x).creators = s.creators := rfl
@[simp] theorem State.setGrid_newSets (g : Nat) (x : Grid) : (s.setGrid g x).newSets = s.newSets := rfl
@[simp] theorem State.setGrid_preempting (g : Nat) (x : Grid) : (s.setGrid g x).preempting = s.preempting := rfl
@[simp] theorem State.setGrid_identity (g : Nat) (x : Grid) : (s.setGrid g x).identity = s.identity := rfl
@[simp] theorem State.setGrid_identityKey (g : Nat) (x : Grid) : (s.setGrid g x).identityKey = s.identityKey := rfl
@[simp] theorem State.setGrid_measured (g : Nat) (x : Grid) : (s.setGrid g x).measured = s.measured := rfl
@[simp] theorem State.setGrid_keyExchange (g : Nat) (x : Grid) : (s.setGrid g x).keyExchange = s.keyExchange := rfl
@[simp] theorem State.setGrid_spdm (g : Nat) (x : Grid) : (s.setGrid g x).spdm = s.spdm := rfl
@[simp] theorem State.setGrid_attested (g : Nat) (x : Grid) : (s.setGrid g x).attested = s.attested := rfl
@[simp] theorem State.setGrid_secure (g : Nat) (x : Grid) : (s.setGrid g x).secure = s.secure := rfl
@[simp] theorem State.setGrid_moduleUp (g : Nat) (x : Grid) : (s.setGrid g x).moduleUp = s.moduleUp := rfl
@[simp] theorem State.setGrid_portFault (g : Nat) (x : Grid) : (s.setGrid g x).portFault = s.portFault := rfl
@[simp] theorem State.setGrid_nextGrid (g : Nat) (x : Grid) : (s.setGrid g x).nextGrid = s.nextGrid := rfl
@[simp] theorem State.setGrid_nextUid (g : Nat) (x : Grid) : (s.setGrid g x).nextUid = s.nextUid := rfl
@[simp] theorem State.setGrid_cur (g : Nat) (x : Grid) : (s.setGrid g x).cur = s.cur := rfl
@[simp] theorem State.setGrid_agenda (g : Nat) (x : Grid) : (s.setGrid g x).agenda = s.agenda := rfl
@[simp] theorem State.setGrid_tick (g : Nat) (x : Grid) : (s.setGrid g x).tick = s.tick := rfl

@[simp] theorem State.setCrew_waves (c : CrewId) (x : Crew) : (s.setCrew c x).waves = s.waves := rfl
@[simp] theorem State.setCrew_cores (c : CrewId) (x : Crew) : (s.setCrew c x).cores = s.cores := rfl
@[simp] theorem State.setCrew_grids (c : CrewId) (x : Crew) : (s.setCrew c x).grids = s.grids := rfl
@[simp] theorem State.setCrew_ctxs (c : CrewId) (x : Crew) : (s.setCrew c x).ctxs = s.ctxs := rfl
@[simp] theorem State.setCrew_hbm (c : CrewId) (x : Crew) : (s.setCrew c x).hbm = s.hbm := rfl
@[simp] theorem State.setCrew_sysMem (c : CrewId) (x : Crew) : (s.setCrew c x).sysMem = s.sysMem := rfl
@[simp] theorem State.setCrew_lineKey (c : CrewId) (x : Crew) : (s.setCrew c x).lineKey = s.lineKey := rfl
@[simp] theorem State.setCrew_llc (c : CrewId) (x : Crew) : (s.setCrew c x).llc = s.llc := rfl
@[simp] theorem State.setCrew_llcKey (c : CrewId) (x : Crew) : (s.setCrew c x).llcKey = s.llcKey := rfl
@[simp] theorem State.setCrew_l2 (c : CrewId) (x : Crew) : (s.setCrew c x).l2 = s.l2 := rfl
@[simp] theorem State.setCrew_sc (c : CrewId) (x : Crew) : (s.setCrew c x).sc = s.sc := rfl
@[simp] theorem State.setCrew_bad (c : CrewId) (x : Crew) : (s.setCrew c x).bad = s.bad := rfl
@[simp] theorem State.setCrew_dirs (c : CrewId) (x : Crew) : (s.setCrew c x).dirs = s.dirs := rfl
@[simp] theorem State.setCrew_hostHalf (c : CrewId) (x : Crew) : (s.setCrew c x).hostHalf = s.hostHalf := rfl
@[simp] theorem State.setCrew_sliceTab (c : CrewId) (x : Crew) : (s.setCrew c x).sliceTab = s.sliceTab := rfl
@[simp] theorem State.setCrew_hostWin (c : CrewId) (x : Crew) : (s.setCrew c x).hostWin = s.hostWin := rfl
@[simp] theorem State.setCrew_fabWin (c : CrewId) (x : Crew) : (s.setCrew c x).fabWin = s.fabWin := rfl
@[simp] theorem State.setCrew_remoteX (c : CrewId) (x : Crew) : (s.setCrew c x).remoteX = s.remoteX := rfl
@[simp] theorem State.setCrew_brokenLines (c : CrewId) (x : Crew) : (s.setCrew c x).brokenLines = s.brokenLines := rfl
@[simp] theorem State.setCrew_gangTlb (c : CrewId) (x : Crew) : (s.setCrew c x).gangTlb = s.gangTlb := rfl
@[simp] theorem State.setCrew_walkTlb (c : CrewId) (x : Crew) : (s.setCrew c x).walkTlb = s.walkTlb := rfl
@[simp] theorem State.setCrew_hostReply (c : CrewId) (x : Crew) : (s.setCrew c x).hostReply = s.hostReply := rfl
@[simp] theorem State.setCrew_nextTxn (c : CrewId) (x : Crew) : (s.setCrew c x).nextTxn = s.nextTxn := rfl
@[simp] theorem State.setCrew_openTxn (c : CrewId) (x : Crew) : (s.setCrew c x).openTxn = s.openTxn := rfl
@[simp] theorem State.setCrew_peerWriters (c : CrewId) (x : Crew) : (s.setCrew c x).peerWriters = s.peerWriters := rfl
@[simp] theorem State.setCrew_keys (c : CrewId) (x : Crew) : (s.setCrew c x).keys = s.keys := rfl
@[simp] theorem State.setCrew_frames (c : CrewId) (x : Crew) : (s.setCrew c x).frames = s.frames := rfl
@[simp] theorem State.setCrew_arrivals (c : CrewId) (x : Crew) : (s.setCrew c x).arrivals = s.arrivals := rfl
@[simp] theorem State.setCrew_chanNum (c : CrewId) (x : Crew) : (s.setCrew c x).chanNum = s.chanNum := rfl
@[simp] theorem State.setCrew_hwm (c : CrewId) (x : Crew) : (s.setCrew c x).hwm = s.hwm := rfl
@[simp] theorem State.setCrew_buckets (c : CrewId) (x : Crew) : (s.setCrew c x).buckets = s.buckets := rfl
@[simp] theorem State.setCrew_storeGen (c : CrewId) (x : Crew) : (s.setCrew c x).storeGen = s.storeGen := rfl
@[simp] theorem State.setCrew_fsCount (c : CrewId) (x : Crew) : (s.setCrew c x).fsCount = s.fsCount := rfl
@[simp] theorem State.setCrew_fsOps (c : CrewId) (x : Crew) : (s.setCrew c x).fsOps = s.fsOps := rfl
@[simp] theorem State.setCrew_sectors (c : CrewId) (x : Crew) : (s.setCrew c x).sectors = s.sectors := rfl
@[simp] theorem State.setCrew_dies (c : CrewId) (x : Crew) : (s.setCrew c x).dies = s.dies := rfl
@[simp] theorem State.setCrew_failed (c : CrewId) (x : Crew) : (s.setCrew c x).failed = s.failed := rfl
@[simp] theorem State.setCrew_errIrqs (c : CrewId) (x : Crew) : (s.setCrew c x).errIrqs = s.errIrqs := rfl
@[simp] theorem State.setCrew_links (c : CrewId) (x : Crew) : (s.setCrew c x).links = s.links := rfl
@[simp] theorem State.setCrew_peers (c : CrewId) (x : Crew) : (s.setCrew c x).peers = s.peers := rfl
@[simp] theorem State.setCrew_self (c : CrewId) (x : Crew) : (s.setCrew c x).self = s.self := rfl
@[simp] theorem State.setCrew_beats (c : CrewId) (x : Crew) : (s.setCrew c x).beats = s.beats := rfl
@[simp] theorem State.setCrew_replicas (c : CrewId) (x : Crew) : (s.setCrew c x).replicas = s.replicas := rfl
@[simp] theorem State.setCrew_creators (c : CrewId) (x : Crew) : (s.setCrew c x).creators = s.creators := rfl
@[simp] theorem State.setCrew_newSets (c : CrewId) (x : Crew) : (s.setCrew c x).newSets = s.newSets := rfl
@[simp] theorem State.setCrew_preempting (c : CrewId) (x : Crew) : (s.setCrew c x).preempting = s.preempting := rfl
@[simp] theorem State.setCrew_identity (c : CrewId) (x : Crew) : (s.setCrew c x).identity = s.identity := rfl
@[simp] theorem State.setCrew_identityKey (c : CrewId) (x : Crew) : (s.setCrew c x).identityKey = s.identityKey := rfl
@[simp] theorem State.setCrew_measured (c : CrewId) (x : Crew) : (s.setCrew c x).measured = s.measured := rfl
@[simp] theorem State.setCrew_keyExchange (c : CrewId) (x : Crew) : (s.setCrew c x).keyExchange = s.keyExchange := rfl
@[simp] theorem State.setCrew_spdm (c : CrewId) (x : Crew) : (s.setCrew c x).spdm = s.spdm := rfl
@[simp] theorem State.setCrew_attested (c : CrewId) (x : Crew) : (s.setCrew c x).attested = s.attested := rfl
@[simp] theorem State.setCrew_secure (c : CrewId) (x : Crew) : (s.setCrew c x).secure = s.secure := rfl
@[simp] theorem State.setCrew_moduleUp (c : CrewId) (x : Crew) : (s.setCrew c x).moduleUp = s.moduleUp := rfl
@[simp] theorem State.setCrew_portFault (c : CrewId) (x : Crew) : (s.setCrew c x).portFault = s.portFault := rfl
@[simp] theorem State.setCrew_nextGrid (c : CrewId) (x : Crew) : (s.setCrew c x).nextGrid = s.nextGrid := rfl
@[simp] theorem State.setCrew_nextUid (c : CrewId) (x : Crew) : (s.setCrew c x).nextUid = s.nextUid := rfl
@[simp] theorem State.setCrew_cur (c : CrewId) (x : Crew) : (s.setCrew c x).cur = s.cur := rfl
@[simp] theorem State.setCrew_agenda (c : CrewId) (x : Crew) : (s.setCrew c x).agenda = s.agenda := rfl
@[simp] theorem State.setCrew_tick (c : CrewId) (x : Crew) : (s.setCrew c x).tick = s.tick := rfl

@[simp] theorem State.modCrew_waves (c : CrewId) (f : Crew → Crew) : (s.modCrew c f).waves = s.waves := rfl
@[simp] theorem State.modCrew_cores (c : CrewId) (f : Crew → Crew) : (s.modCrew c f).cores = s.cores := rfl
@[simp] theorem State.modCrew_grids (c : CrewId) (f : Crew → Crew) : (s.modCrew c f).grids = s.grids := rfl
@[simp] theorem State.modCrew_ctxs (c : CrewId) (f : Crew → Crew) : (s.modCrew c f).ctxs = s.ctxs := rfl
@[simp] theorem State.modCrew_hbm (c : CrewId) (f : Crew → Crew) : (s.modCrew c f).hbm = s.hbm := rfl
@[simp] theorem State.modCrew_sysMem (c : CrewId) (f : Crew → Crew) : (s.modCrew c f).sysMem = s.sysMem := rfl
@[simp] theorem State.modCrew_lineKey (c : CrewId) (f : Crew → Crew) : (s.modCrew c f).lineKey = s.lineKey := rfl
@[simp] theorem State.modCrew_llc (c : CrewId) (f : Crew → Crew) : (s.modCrew c f).llc = s.llc := rfl
@[simp] theorem State.modCrew_llcKey (c : CrewId) (f : Crew → Crew) : (s.modCrew c f).llcKey = s.llcKey := rfl
@[simp] theorem State.modCrew_l2 (c : CrewId) (f : Crew → Crew) : (s.modCrew c f).l2 = s.l2 := rfl
@[simp] theorem State.modCrew_sc (c : CrewId) (f : Crew → Crew) : (s.modCrew c f).sc = s.sc := rfl
@[simp] theorem State.modCrew_bad (c : CrewId) (f : Crew → Crew) : (s.modCrew c f).bad = s.bad := rfl
@[simp] theorem State.modCrew_dirs (c : CrewId) (f : Crew → Crew) : (s.modCrew c f).dirs = s.dirs := rfl
@[simp] theorem State.modCrew_hostHalf (c : CrewId) (f : Crew → Crew) : (s.modCrew c f).hostHalf = s.hostHalf := rfl
@[simp] theorem State.modCrew_sliceTab (c : CrewId) (f : Crew → Crew) : (s.modCrew c f).sliceTab = s.sliceTab := rfl
@[simp] theorem State.modCrew_hostWin (c : CrewId) (f : Crew → Crew) : (s.modCrew c f).hostWin = s.hostWin := rfl
@[simp] theorem State.modCrew_fabWin (c : CrewId) (f : Crew → Crew) : (s.modCrew c f).fabWin = s.fabWin := rfl
@[simp] theorem State.modCrew_remoteX (c : CrewId) (f : Crew → Crew) : (s.modCrew c f).remoteX = s.remoteX := rfl
@[simp] theorem State.modCrew_brokenLines (c : CrewId) (f : Crew → Crew) : (s.modCrew c f).brokenLines = s.brokenLines := rfl
@[simp] theorem State.modCrew_gangTlb (c : CrewId) (f : Crew → Crew) : (s.modCrew c f).gangTlb = s.gangTlb := rfl
@[simp] theorem State.modCrew_walkTlb (c : CrewId) (f : Crew → Crew) : (s.modCrew c f).walkTlb = s.walkTlb := rfl
@[simp] theorem State.modCrew_hostReply (c : CrewId) (f : Crew → Crew) : (s.modCrew c f).hostReply = s.hostReply := rfl
@[simp] theorem State.modCrew_nextTxn (c : CrewId) (f : Crew → Crew) : (s.modCrew c f).nextTxn = s.nextTxn := rfl
@[simp] theorem State.modCrew_openTxn (c : CrewId) (f : Crew → Crew) : (s.modCrew c f).openTxn = s.openTxn := rfl
@[simp] theorem State.modCrew_peerWriters (c : CrewId) (f : Crew → Crew) : (s.modCrew c f).peerWriters = s.peerWriters := rfl
@[simp] theorem State.modCrew_keys (c : CrewId) (f : Crew → Crew) : (s.modCrew c f).keys = s.keys := rfl
@[simp] theorem State.modCrew_frames (c : CrewId) (f : Crew → Crew) : (s.modCrew c f).frames = s.frames := rfl
@[simp] theorem State.modCrew_arrivals (c : CrewId) (f : Crew → Crew) : (s.modCrew c f).arrivals = s.arrivals := rfl
@[simp] theorem State.modCrew_chanNum (c : CrewId) (f : Crew → Crew) : (s.modCrew c f).chanNum = s.chanNum := rfl
@[simp] theorem State.modCrew_hwm (c : CrewId) (f : Crew → Crew) : (s.modCrew c f).hwm = s.hwm := rfl
@[simp] theorem State.modCrew_buckets (c : CrewId) (f : Crew → Crew) : (s.modCrew c f).buckets = s.buckets := rfl
@[simp] theorem State.modCrew_storeGen (c : CrewId) (f : Crew → Crew) : (s.modCrew c f).storeGen = s.storeGen := rfl
@[simp] theorem State.modCrew_fsCount (c : CrewId) (f : Crew → Crew) : (s.modCrew c f).fsCount = s.fsCount := rfl
@[simp] theorem State.modCrew_fsOps (c : CrewId) (f : Crew → Crew) : (s.modCrew c f).fsOps = s.fsOps := rfl
@[simp] theorem State.modCrew_sectors (c : CrewId) (f : Crew → Crew) : (s.modCrew c f).sectors = s.sectors := rfl
@[simp] theorem State.modCrew_dies (c : CrewId) (f : Crew → Crew) : (s.modCrew c f).dies = s.dies := rfl
@[simp] theorem State.modCrew_failed (c : CrewId) (f : Crew → Crew) : (s.modCrew c f).failed = s.failed := rfl
@[simp] theorem State.modCrew_errIrqs (c : CrewId) (f : Crew → Crew) : (s.modCrew c f).errIrqs = s.errIrqs := rfl
@[simp] theorem State.modCrew_links (c : CrewId) (f : Crew → Crew) : (s.modCrew c f).links = s.links := rfl
@[simp] theorem State.modCrew_peers (c : CrewId) (f : Crew → Crew) : (s.modCrew c f).peers = s.peers := rfl
@[simp] theorem State.modCrew_self (c : CrewId) (f : Crew → Crew) : (s.modCrew c f).self = s.self := rfl
@[simp] theorem State.modCrew_beats (c : CrewId) (f : Crew → Crew) : (s.modCrew c f).beats = s.beats := rfl
@[simp] theorem State.modCrew_replicas (c : CrewId) (f : Crew → Crew) : (s.modCrew c f).replicas = s.replicas := rfl
@[simp] theorem State.modCrew_creators (c : CrewId) (f : Crew → Crew) : (s.modCrew c f).creators = s.creators := rfl
@[simp] theorem State.modCrew_newSets (c : CrewId) (f : Crew → Crew) : (s.modCrew c f).newSets = s.newSets := rfl
@[simp] theorem State.modCrew_preempting (c : CrewId) (f : Crew → Crew) : (s.modCrew c f).preempting = s.preempting := rfl
@[simp] theorem State.modCrew_identity (c : CrewId) (f : Crew → Crew) : (s.modCrew c f).identity = s.identity := rfl
@[simp] theorem State.modCrew_identityKey (c : CrewId) (f : Crew → Crew) : (s.modCrew c f).identityKey = s.identityKey := rfl
@[simp] theorem State.modCrew_measured (c : CrewId) (f : Crew → Crew) : (s.modCrew c f).measured = s.measured := rfl
@[simp] theorem State.modCrew_keyExchange (c : CrewId) (f : Crew → Crew) : (s.modCrew c f).keyExchange = s.keyExchange := rfl
@[simp] theorem State.modCrew_spdm (c : CrewId) (f : Crew → Crew) : (s.modCrew c f).spdm = s.spdm := rfl
@[simp] theorem State.modCrew_attested (c : CrewId) (f : Crew → Crew) : (s.modCrew c f).attested = s.attested := rfl
@[simp] theorem State.modCrew_secure (c : CrewId) (f : Crew → Crew) : (s.modCrew c f).secure = s.secure := rfl
@[simp] theorem State.modCrew_moduleUp (c : CrewId) (f : Crew → Crew) : (s.modCrew c f).moduleUp = s.moduleUp := rfl
@[simp] theorem State.modCrew_portFault (c : CrewId) (f : Crew → Crew) : (s.modCrew c f).portFault = s.portFault := rfl
@[simp] theorem State.modCrew_nextGrid (c : CrewId) (f : Crew → Crew) : (s.modCrew c f).nextGrid = s.nextGrid := rfl
@[simp] theorem State.modCrew_nextUid (c : CrewId) (f : Crew → Crew) : (s.modCrew c f).nextUid = s.nextUid := rfl
@[simp] theorem State.modCrew_cur (c : CrewId) (f : Crew → Crew) : (s.modCrew c f).cur = s.cur := rfl
@[simp] theorem State.modCrew_agenda (c : CrewId) (f : Crew → Crew) : (s.modCrew c f).agenda = s.agenda := rfl
@[simp] theorem State.modCrew_tick (c : CrewId) (f : Crew → Crew) : (s.modCrew c f).tick = s.tick := rfl

@[simp] theorem State.setCore_waves (c : Nat) (x : Core) : (s.setCore c x).waves = s.waves := rfl
@[simp] theorem State.setCore_crews (c : Nat) (x : Core) : (s.setCore c x).crews = s.crews := rfl
@[simp] theorem State.setCore_grids (c : Nat) (x : Core) : (s.setCore c x).grids = s.grids := rfl
@[simp] theorem State.setCore_ctxs (c : Nat) (x : Core) : (s.setCore c x).ctxs = s.ctxs := rfl
@[simp] theorem State.setCore_hbm (c : Nat) (x : Core) : (s.setCore c x).hbm = s.hbm := rfl
@[simp] theorem State.setCore_sysMem (c : Nat) (x : Core) : (s.setCore c x).sysMem = s.sysMem := rfl
@[simp] theorem State.setCore_lineKey (c : Nat) (x : Core) : (s.setCore c x).lineKey = s.lineKey := rfl
@[simp] theorem State.setCore_llc (c : Nat) (x : Core) : (s.setCore c x).llc = s.llc := rfl
@[simp] theorem State.setCore_llcKey (c : Nat) (x : Core) : (s.setCore c x).llcKey = s.llcKey := rfl
@[simp] theorem State.setCore_l2 (c : Nat) (x : Core) : (s.setCore c x).l2 = s.l2 := rfl
@[simp] theorem State.setCore_sc (c : Nat) (x : Core) : (s.setCore c x).sc = s.sc := rfl
@[simp] theorem State.setCore_bad (c : Nat) (x : Core) : (s.setCore c x).bad = s.bad := rfl
@[simp] theorem State.setCore_dirs (c : Nat) (x : Core) : (s.setCore c x).dirs = s.dirs := rfl
@[simp] theorem State.setCore_hostHalf (c : Nat) (x : Core) : (s.setCore c x).hostHalf = s.hostHalf := rfl
@[simp] theorem State.setCore_sliceTab (c : Nat) (x : Core) : (s.setCore c x).sliceTab = s.sliceTab := rfl
@[simp] theorem State.setCore_hostWin (c : Nat) (x : Core) : (s.setCore c x).hostWin = s.hostWin := rfl
@[simp] theorem State.setCore_fabWin (c : Nat) (x : Core) : (s.setCore c x).fabWin = s.fabWin := rfl
@[simp] theorem State.setCore_remoteX (c : Nat) (x : Core) : (s.setCore c x).remoteX = s.remoteX := rfl
@[simp] theorem State.setCore_brokenLines (c : Nat) (x : Core) : (s.setCore c x).brokenLines = s.brokenLines := rfl
@[simp] theorem State.setCore_gangTlb (c : Nat) (x : Core) : (s.setCore c x).gangTlb = s.gangTlb := rfl
@[simp] theorem State.setCore_walkTlb (c : Nat) (x : Core) : (s.setCore c x).walkTlb = s.walkTlb := rfl
@[simp] theorem State.setCore_hostReply (c : Nat) (x : Core) : (s.setCore c x).hostReply = s.hostReply := rfl
@[simp] theorem State.setCore_nextTxn (c : Nat) (x : Core) : (s.setCore c x).nextTxn = s.nextTxn := rfl
@[simp] theorem State.setCore_openTxn (c : Nat) (x : Core) : (s.setCore c x).openTxn = s.openTxn := rfl
@[simp] theorem State.setCore_peerWriters (c : Nat) (x : Core) : (s.setCore c x).peerWriters = s.peerWriters := rfl
@[simp] theorem State.setCore_keys (c : Nat) (x : Core) : (s.setCore c x).keys = s.keys := rfl
@[simp] theorem State.setCore_frames (c : Nat) (x : Core) : (s.setCore c x).frames = s.frames := rfl
@[simp] theorem State.setCore_arrivals (c : Nat) (x : Core) : (s.setCore c x).arrivals = s.arrivals := rfl
@[simp] theorem State.setCore_chanNum (c : Nat) (x : Core) : (s.setCore c x).chanNum = s.chanNum := rfl
@[simp] theorem State.setCore_hwm (c : Nat) (x : Core) : (s.setCore c x).hwm = s.hwm := rfl
@[simp] theorem State.setCore_buckets (c : Nat) (x : Core) : (s.setCore c x).buckets = s.buckets := rfl
@[simp] theorem State.setCore_storeGen (c : Nat) (x : Core) : (s.setCore c x).storeGen = s.storeGen := rfl
@[simp] theorem State.setCore_fsCount (c : Nat) (x : Core) : (s.setCore c x).fsCount = s.fsCount := rfl
@[simp] theorem State.setCore_fsOps (c : Nat) (x : Core) : (s.setCore c x).fsOps = s.fsOps := rfl
@[simp] theorem State.setCore_sectors (c : Nat) (x : Core) : (s.setCore c x).sectors = s.sectors := rfl
@[simp] theorem State.setCore_dies (c : Nat) (x : Core) : (s.setCore c x).dies = s.dies := rfl
@[simp] theorem State.setCore_failed (c : Nat) (x : Core) : (s.setCore c x).failed = s.failed := rfl
@[simp] theorem State.setCore_errIrqs (c : Nat) (x : Core) : (s.setCore c x).errIrqs = s.errIrqs := rfl
@[simp] theorem State.setCore_links (c : Nat) (x : Core) : (s.setCore c x).links = s.links := rfl
@[simp] theorem State.setCore_peers (c : Nat) (x : Core) : (s.setCore c x).peers = s.peers := rfl
@[simp] theorem State.setCore_self (c : Nat) (x : Core) : (s.setCore c x).self = s.self := rfl
@[simp] theorem State.setCore_beats (c : Nat) (x : Core) : (s.setCore c x).beats = s.beats := rfl
@[simp] theorem State.setCore_replicas (c : Nat) (x : Core) : (s.setCore c x).replicas = s.replicas := rfl
@[simp] theorem State.setCore_creators (c : Nat) (x : Core) : (s.setCore c x).creators = s.creators := rfl
@[simp] theorem State.setCore_newSets (c : Nat) (x : Core) : (s.setCore c x).newSets = s.newSets := rfl
@[simp] theorem State.setCore_preempting (c : Nat) (x : Core) : (s.setCore c x).preempting = s.preempting := rfl
@[simp] theorem State.setCore_identity (c : Nat) (x : Core) : (s.setCore c x).identity = s.identity := rfl
@[simp] theorem State.setCore_identityKey (c : Nat) (x : Core) : (s.setCore c x).identityKey = s.identityKey := rfl
@[simp] theorem State.setCore_measured (c : Nat) (x : Core) : (s.setCore c x).measured = s.measured := rfl
@[simp] theorem State.setCore_keyExchange (c : Nat) (x : Core) : (s.setCore c x).keyExchange = s.keyExchange := rfl
@[simp] theorem State.setCore_spdm (c : Nat) (x : Core) : (s.setCore c x).spdm = s.spdm := rfl
@[simp] theorem State.setCore_attested (c : Nat) (x : Core) : (s.setCore c x).attested = s.attested := rfl
@[simp] theorem State.setCore_secure (c : Nat) (x : Core) : (s.setCore c x).secure = s.secure := rfl
@[simp] theorem State.setCore_moduleUp (c : Nat) (x : Core) : (s.setCore c x).moduleUp = s.moduleUp := rfl
@[simp] theorem State.setCore_portFault (c : Nat) (x : Core) : (s.setCore c x).portFault = s.portFault := rfl
@[simp] theorem State.setCore_nextGrid (c : Nat) (x : Core) : (s.setCore c x).nextGrid = s.nextGrid := rfl
@[simp] theorem State.setCore_nextUid (c : Nat) (x : Core) : (s.setCore c x).nextUid = s.nextUid := rfl
@[simp] theorem State.setCore_cur (c : Nat) (x : Core) : (s.setCore c x).cur = s.cur := rfl
@[simp] theorem State.setCore_agenda (c : Nat) (x : Core) : (s.setCore c x).agenda = s.agenda := rfl
@[simp] theorem State.setCore_tick (c : Nat) (x : Core) : (s.setCore c x).tick = s.tick := rfl

@[simp] theorem State.modCore_waves (c : Nat) (f : Core → Core) : (s.modCore c f).waves = s.waves := rfl
@[simp] theorem State.modCore_crews (c : Nat) (f : Core → Core) : (s.modCore c f).crews = s.crews := rfl
@[simp] theorem State.modCore_grids (c : Nat) (f : Core → Core) : (s.modCore c f).grids = s.grids := rfl
@[simp] theorem State.modCore_ctxs (c : Nat) (f : Core → Core) : (s.modCore c f).ctxs = s.ctxs := rfl
@[simp] theorem State.modCore_hbm (c : Nat) (f : Core → Core) : (s.modCore c f).hbm = s.hbm := rfl
@[simp] theorem State.modCore_sysMem (c : Nat) (f : Core → Core) : (s.modCore c f).sysMem = s.sysMem := rfl
@[simp] theorem State.modCore_lineKey (c : Nat) (f : Core → Core) : (s.modCore c f).lineKey = s.lineKey := rfl
@[simp] theorem State.modCore_llc (c : Nat) (f : Core → Core) : (s.modCore c f).llc = s.llc := rfl
@[simp] theorem State.modCore_llcKey (c : Nat) (f : Core → Core) : (s.modCore c f).llcKey = s.llcKey := rfl
@[simp] theorem State.modCore_l2 (c : Nat) (f : Core → Core) : (s.modCore c f).l2 = s.l2 := rfl
@[simp] theorem State.modCore_sc (c : Nat) (f : Core → Core) : (s.modCore c f).sc = s.sc := rfl
@[simp] theorem State.modCore_bad (c : Nat) (f : Core → Core) : (s.modCore c f).bad = s.bad := rfl
@[simp] theorem State.modCore_dirs (c : Nat) (f : Core → Core) : (s.modCore c f).dirs = s.dirs := rfl
@[simp] theorem State.modCore_hostHalf (c : Nat) (f : Core → Core) : (s.modCore c f).hostHalf = s.hostHalf := rfl
@[simp] theorem State.modCore_sliceTab (c : Nat) (f : Core → Core) : (s.modCore c f).sliceTab = s.sliceTab := rfl
@[simp] theorem State.modCore_hostWin (c : Nat) (f : Core → Core) : (s.modCore c f).hostWin = s.hostWin := rfl
@[simp] theorem State.modCore_fabWin (c : Nat) (f : Core → Core) : (s.modCore c f).fabWin = s.fabWin := rfl
@[simp] theorem State.modCore_remoteX (c : Nat) (f : Core → Core) : (s.modCore c f).remoteX = s.remoteX := rfl
@[simp] theorem State.modCore_brokenLines (c : Nat) (f : Core → Core) : (s.modCore c f).brokenLines = s.brokenLines := rfl
@[simp] theorem State.modCore_gangTlb (c : Nat) (f : Core → Core) : (s.modCore c f).gangTlb = s.gangTlb := rfl
@[simp] theorem State.modCore_walkTlb (c : Nat) (f : Core → Core) : (s.modCore c f).walkTlb = s.walkTlb := rfl
@[simp] theorem State.modCore_hostReply (c : Nat) (f : Core → Core) : (s.modCore c f).hostReply = s.hostReply := rfl
@[simp] theorem State.modCore_nextTxn (c : Nat) (f : Core → Core) : (s.modCore c f).nextTxn = s.nextTxn := rfl
@[simp] theorem State.modCore_openTxn (c : Nat) (f : Core → Core) : (s.modCore c f).openTxn = s.openTxn := rfl
@[simp] theorem State.modCore_peerWriters (c : Nat) (f : Core → Core) : (s.modCore c f).peerWriters = s.peerWriters := rfl
@[simp] theorem State.modCore_keys (c : Nat) (f : Core → Core) : (s.modCore c f).keys = s.keys := rfl
@[simp] theorem State.modCore_frames (c : Nat) (f : Core → Core) : (s.modCore c f).frames = s.frames := rfl
@[simp] theorem State.modCore_arrivals (c : Nat) (f : Core → Core) : (s.modCore c f).arrivals = s.arrivals := rfl
@[simp] theorem State.modCore_chanNum (c : Nat) (f : Core → Core) : (s.modCore c f).chanNum = s.chanNum := rfl
@[simp] theorem State.modCore_hwm (c : Nat) (f : Core → Core) : (s.modCore c f).hwm = s.hwm := rfl
@[simp] theorem State.modCore_buckets (c : Nat) (f : Core → Core) : (s.modCore c f).buckets = s.buckets := rfl
@[simp] theorem State.modCore_storeGen (c : Nat) (f : Core → Core) : (s.modCore c f).storeGen = s.storeGen := rfl
@[simp] theorem State.modCore_fsCount (c : Nat) (f : Core → Core) : (s.modCore c f).fsCount = s.fsCount := rfl
@[simp] theorem State.modCore_fsOps (c : Nat) (f : Core → Core) : (s.modCore c f).fsOps = s.fsOps := rfl
@[simp] theorem State.modCore_sectors (c : Nat) (f : Core → Core) : (s.modCore c f).sectors = s.sectors := rfl
@[simp] theorem State.modCore_dies (c : Nat) (f : Core → Core) : (s.modCore c f).dies = s.dies := rfl
@[simp] theorem State.modCore_failed (c : Nat) (f : Core → Core) : (s.modCore c f).failed = s.failed := rfl
@[simp] theorem State.modCore_errIrqs (c : Nat) (f : Core → Core) : (s.modCore c f).errIrqs = s.errIrqs := rfl
@[simp] theorem State.modCore_links (c : Nat) (f : Core → Core) : (s.modCore c f).links = s.links := rfl
@[simp] theorem State.modCore_peers (c : Nat) (f : Core → Core) : (s.modCore c f).peers = s.peers := rfl
@[simp] theorem State.modCore_self (c : Nat) (f : Core → Core) : (s.modCore c f).self = s.self := rfl
@[simp] theorem State.modCore_beats (c : Nat) (f : Core → Core) : (s.modCore c f).beats = s.beats := rfl
@[simp] theorem State.modCore_replicas (c : Nat) (f : Core → Core) : (s.modCore c f).replicas = s.replicas := rfl
@[simp] theorem State.modCore_creators (c : Nat) (f : Core → Core) : (s.modCore c f).creators = s.creators := rfl
@[simp] theorem State.modCore_newSets (c : Nat) (f : Core → Core) : (s.modCore c f).newSets = s.newSets := rfl
@[simp] theorem State.modCore_preempting (c : Nat) (f : Core → Core) : (s.modCore c f).preempting = s.preempting := rfl
@[simp] theorem State.modCore_identity (c : Nat) (f : Core → Core) : (s.modCore c f).identity = s.identity := rfl
@[simp] theorem State.modCore_identityKey (c : Nat) (f : Core → Core) : (s.modCore c f).identityKey = s.identityKey := rfl
@[simp] theorem State.modCore_measured (c : Nat) (f : Core → Core) : (s.modCore c f).measured = s.measured := rfl
@[simp] theorem State.modCore_keyExchange (c : Nat) (f : Core → Core) : (s.modCore c f).keyExchange = s.keyExchange := rfl
@[simp] theorem State.modCore_spdm (c : Nat) (f : Core → Core) : (s.modCore c f).spdm = s.spdm := rfl
@[simp] theorem State.modCore_attested (c : Nat) (f : Core → Core) : (s.modCore c f).attested = s.attested := rfl
@[simp] theorem State.modCore_secure (c : Nat) (f : Core → Core) : (s.modCore c f).secure = s.secure := rfl
@[simp] theorem State.modCore_moduleUp (c : Nat) (f : Core → Core) : (s.modCore c f).moduleUp = s.moduleUp := rfl
@[simp] theorem State.modCore_portFault (c : Nat) (f : Core → Core) : (s.modCore c f).portFault = s.portFault := rfl
@[simp] theorem State.modCore_nextGrid (c : Nat) (f : Core → Core) : (s.modCore c f).nextGrid = s.nextGrid := rfl
@[simp] theorem State.modCore_nextUid (c : Nat) (f : Core → Core) : (s.modCore c f).nextUid = s.nextUid := rfl
@[simp] theorem State.modCore_cur (c : Nat) (f : Core → Core) : (s.modCore c f).cur = s.cur := rfl
@[simp] theorem State.modCore_agenda (c : Nat) (f : Core → Core) : (s.modCore c f).agenda = s.agenda := rfl
@[simp] theorem State.modCore_tick (c : Nat) (f : Core → Core) : (s.modCore c f).tick = s.tick := rfl

@[simp] theorem State.setCtx_waves (c : Nat) (x : Ctx) : (s.setCtx c x).waves = s.waves := rfl
@[simp] theorem State.setCtx_crews (c : Nat) (x : Ctx) : (s.setCtx c x).crews = s.crews := rfl
@[simp] theorem State.setCtx_cores (c : Nat) (x : Ctx) : (s.setCtx c x).cores = s.cores := rfl
@[simp] theorem State.setCtx_grids (c : Nat) (x : Ctx) : (s.setCtx c x).grids = s.grids := rfl
@[simp] theorem State.setCtx_hbm (c : Nat) (x : Ctx) : (s.setCtx c x).hbm = s.hbm := rfl
@[simp] theorem State.setCtx_sysMem (c : Nat) (x : Ctx) : (s.setCtx c x).sysMem = s.sysMem := rfl
@[simp] theorem State.setCtx_lineKey (c : Nat) (x : Ctx) : (s.setCtx c x).lineKey = s.lineKey := rfl
@[simp] theorem State.setCtx_llc (c : Nat) (x : Ctx) : (s.setCtx c x).llc = s.llc := rfl
@[simp] theorem State.setCtx_llcKey (c : Nat) (x : Ctx) : (s.setCtx c x).llcKey = s.llcKey := rfl
@[simp] theorem State.setCtx_l2 (c : Nat) (x : Ctx) : (s.setCtx c x).l2 = s.l2 := rfl
@[simp] theorem State.setCtx_sc (c : Nat) (x : Ctx) : (s.setCtx c x).sc = s.sc := rfl
@[simp] theorem State.setCtx_bad (c : Nat) (x : Ctx) : (s.setCtx c x).bad = s.bad := rfl
@[simp] theorem State.setCtx_dirs (c : Nat) (x : Ctx) : (s.setCtx c x).dirs = s.dirs := rfl
@[simp] theorem State.setCtx_hostHalf (c : Nat) (x : Ctx) : (s.setCtx c x).hostHalf = s.hostHalf := rfl
@[simp] theorem State.setCtx_sliceTab (c : Nat) (x : Ctx) : (s.setCtx c x).sliceTab = s.sliceTab := rfl
@[simp] theorem State.setCtx_hostWin (c : Nat) (x : Ctx) : (s.setCtx c x).hostWin = s.hostWin := rfl
@[simp] theorem State.setCtx_fabWin (c : Nat) (x : Ctx) : (s.setCtx c x).fabWin = s.fabWin := rfl
@[simp] theorem State.setCtx_remoteX (c : Nat) (x : Ctx) : (s.setCtx c x).remoteX = s.remoteX := rfl
@[simp] theorem State.setCtx_brokenLines (c : Nat) (x : Ctx) : (s.setCtx c x).brokenLines = s.brokenLines := rfl
@[simp] theorem State.setCtx_gangTlb (c : Nat) (x : Ctx) : (s.setCtx c x).gangTlb = s.gangTlb := rfl
@[simp] theorem State.setCtx_walkTlb (c : Nat) (x : Ctx) : (s.setCtx c x).walkTlb = s.walkTlb := rfl
@[simp] theorem State.setCtx_hostReply (c : Nat) (x : Ctx) : (s.setCtx c x).hostReply = s.hostReply := rfl
@[simp] theorem State.setCtx_nextTxn (c : Nat) (x : Ctx) : (s.setCtx c x).nextTxn = s.nextTxn := rfl
@[simp] theorem State.setCtx_openTxn (c : Nat) (x : Ctx) : (s.setCtx c x).openTxn = s.openTxn := rfl
@[simp] theorem State.setCtx_peerWriters (c : Nat) (x : Ctx) : (s.setCtx c x).peerWriters = s.peerWriters := rfl
@[simp] theorem State.setCtx_keys (c : Nat) (x : Ctx) : (s.setCtx c x).keys = s.keys := rfl
@[simp] theorem State.setCtx_frames (c : Nat) (x : Ctx) : (s.setCtx c x).frames = s.frames := rfl
@[simp] theorem State.setCtx_arrivals (c : Nat) (x : Ctx) : (s.setCtx c x).arrivals = s.arrivals := rfl
@[simp] theorem State.setCtx_chanNum (c : Nat) (x : Ctx) : (s.setCtx c x).chanNum = s.chanNum := rfl
@[simp] theorem State.setCtx_hwm (c : Nat) (x : Ctx) : (s.setCtx c x).hwm = s.hwm := rfl
@[simp] theorem State.setCtx_buckets (c : Nat) (x : Ctx) : (s.setCtx c x).buckets = s.buckets := rfl
@[simp] theorem State.setCtx_storeGen (c : Nat) (x : Ctx) : (s.setCtx c x).storeGen = s.storeGen := rfl
@[simp] theorem State.setCtx_fsCount (c : Nat) (x : Ctx) : (s.setCtx c x).fsCount = s.fsCount := rfl
@[simp] theorem State.setCtx_fsOps (c : Nat) (x : Ctx) : (s.setCtx c x).fsOps = s.fsOps := rfl
@[simp] theorem State.setCtx_sectors (c : Nat) (x : Ctx) : (s.setCtx c x).sectors = s.sectors := rfl
@[simp] theorem State.setCtx_dies (c : Nat) (x : Ctx) : (s.setCtx c x).dies = s.dies := rfl
@[simp] theorem State.setCtx_failed (c : Nat) (x : Ctx) : (s.setCtx c x).failed = s.failed := rfl
@[simp] theorem State.setCtx_errIrqs (c : Nat) (x : Ctx) : (s.setCtx c x).errIrqs = s.errIrqs := rfl
@[simp] theorem State.setCtx_links (c : Nat) (x : Ctx) : (s.setCtx c x).links = s.links := rfl
@[simp] theorem State.setCtx_peers (c : Nat) (x : Ctx) : (s.setCtx c x).peers = s.peers := rfl
@[simp] theorem State.setCtx_self (c : Nat) (x : Ctx) : (s.setCtx c x).self = s.self := rfl
@[simp] theorem State.setCtx_beats (c : Nat) (x : Ctx) : (s.setCtx c x).beats = s.beats := rfl
@[simp] theorem State.setCtx_replicas (c : Nat) (x : Ctx) : (s.setCtx c x).replicas = s.replicas := rfl
@[simp] theorem State.setCtx_creators (c : Nat) (x : Ctx) : (s.setCtx c x).creators = s.creators := rfl
@[simp] theorem State.setCtx_newSets (c : Nat) (x : Ctx) : (s.setCtx c x).newSets = s.newSets := rfl
@[simp] theorem State.setCtx_preempting (c : Nat) (x : Ctx) : (s.setCtx c x).preempting = s.preempting := rfl
@[simp] theorem State.setCtx_identity (c : Nat) (x : Ctx) : (s.setCtx c x).identity = s.identity := rfl
@[simp] theorem State.setCtx_identityKey (c : Nat) (x : Ctx) : (s.setCtx c x).identityKey = s.identityKey := rfl
@[simp] theorem State.setCtx_measured (c : Nat) (x : Ctx) : (s.setCtx c x).measured = s.measured := rfl
@[simp] theorem State.setCtx_keyExchange (c : Nat) (x : Ctx) : (s.setCtx c x).keyExchange = s.keyExchange := rfl
@[simp] theorem State.setCtx_spdm (c : Nat) (x : Ctx) : (s.setCtx c x).spdm = s.spdm := rfl
@[simp] theorem State.setCtx_attested (c : Nat) (x : Ctx) : (s.setCtx c x).attested = s.attested := rfl
@[simp] theorem State.setCtx_secure (c : Nat) (x : Ctx) : (s.setCtx c x).secure = s.secure := rfl
@[simp] theorem State.setCtx_moduleUp (c : Nat) (x : Ctx) : (s.setCtx c x).moduleUp = s.moduleUp := rfl
@[simp] theorem State.setCtx_portFault (c : Nat) (x : Ctx) : (s.setCtx c x).portFault = s.portFault := rfl
@[simp] theorem State.setCtx_nextGrid (c : Nat) (x : Ctx) : (s.setCtx c x).nextGrid = s.nextGrid := rfl
@[simp] theorem State.setCtx_nextUid (c : Nat) (x : Ctx) : (s.setCtx c x).nextUid = s.nextUid := rfl
@[simp] theorem State.setCtx_cur (c : Nat) (x : Ctx) : (s.setCtx c x).cur = s.cur := rfl
@[simp] theorem State.setCtx_agenda (c : Nat) (x : Ctx) : (s.setCtx c x).agenda = s.agenda := rfl
@[simp] theorem State.setCtx_tick (c : Nat) (x : Ctx) : (s.setCtx c x).tick = s.tick := rfl

end State

section Wave
variable (w : Wave)

@[simp] theorem Wave.setWr_pc (n : Nat) (x : Word) : (w.setWr n x).pc = w.pc := rfl
@[simp] theorem Wave.setWr_wbase (n : Nat) (x : Word) : (w.setWr n x).wbase = w.wbase := rfl
@[simp] theorem Wave.setWr_alloc (n : Nat) (x : Word) : (w.setWr n x).alloc = w.alloc := rfl
@[simp] theorem Wave.setWr_v (n : Nat) (x : Word) : (w.setWr n x).v = w.v := rfl
@[simp] theorem Wave.setWr_fsr (n : Nat) (x : Word) : (w.setWr n x).fsr = w.fsr := rfl
@[simp] theorem Wave.setWr_q (n : Nat) (x : Word) : (w.setWr n x).q = w.q := rfl
@[simp] theorem Wave.setWr_qSaved (n : Nat) (x : Word) : (w.setWr n x).qSaved = w.qSaved := rfl
@[simp] theorem Wave.setWr_count (n : Nat) (x : Word) : (w.setWr n x).count = w.count := rfl
@[simp] theorem Wave.setWr_sup (n : Nat) (x : Word) : (w.setWr n x).sup = w.sup := rfl
@[simp] theorem Wave.setWr_cause (n : Nat) (x : Word) : (w.setWr n x).cause = w.cause := rfl
@[simp] theorem Wave.setWr_epcl (n : Nat) (x : Word) : (w.setWr n x).epcl = w.epcl := rfl
@[simp] theorem Wave.setWr_epch (n : Nat) (x : Word) : (w.setWr n x).epch = w.epch := rfl
@[simp] theorem Wave.setWr_tvecl (n : Nat) (x : Word) : (w.setWr n x).tvecl = w.tvecl := rfl
@[simp] theorem Wave.setWr_tvech (n : Nat) (x : Word) : (w.setWr n x).tvech = w.tvech := rfl
@[simp] theorem Wave.setWr_tvall (n : Nat) (x : Word) : (w.setWr n x).tvall = w.tvall := rfl
@[simp] theorem Wave.setWr_tvalh (n : Nat) (x : Word) : (w.setWr n x).tvalh = w.tvalh := rfl
@[simp] theorem Wave.setWr_tmask0 (n : Nat) (x : Word) : (w.setWr n x).tmask0 = w.tmask0 := rfl
@[simp] theorem Wave.setWr_tmask1 (n : Nat) (x : Word) : (w.setWr n x).tmask1 = w.tmask1 := rfl
@[simp] theorem Wave.setWr_tmask2 (n : Nat) (x : Word) : (w.setWr n x).tmask2 = w.tmask2 := rfl
@[simp] theorem Wave.setWr_tlane (n : Nat) (x : Word) : (w.setWr n x).tlane = w.tlane := rfl
@[simp] theorem Wave.setWr_ssc0 (n : Nat) (x : Word) : (w.setWr n x).ssc0 = w.ssc0 := rfl
@[simp] theorem Wave.setWr_ssc1 (n : Nat) (x : Word) : (w.setWr n x).ssc1 = w.ssc1 := rfl
@[simp] theorem Wave.setWr_lvCls (n : Nat) (x : Word) : (w.setWr n x).lvCls = w.lvCls := rfl
@[simp] theorem Wave.setWr_lvGnt (n : Nat) (x : Word) : (w.setWr n x).lvGnt = w.lvGnt := rfl
@[simp] theorem Wave.setWr_engCls (n : Nat) (x : Word) : (w.setWr n x).engCls = w.engCls := rfl
@[simp] theorem Wave.setWr_engGnt (n : Nat) (x : Word) : (w.setWr n x).engGnt = w.engGnt := rfl
@[simp] theorem Wave.setWr_tokens (n : Nat) (x : Word) : (w.setWr n x).tokens = w.tokens := rfl
@[simp] theorem Wave.setWr_spilled (n : Nat) (x : Word) : (w.setWr n x).spilled = w.spilled := rfl
@[simp] theorem Wave.setWr_entryDepth (n : Nat) (x : Word) : (w.setWr n x).entryDepth = w.entryDepth := rfl
@[simp] theorem Wave.setWr_frame (n : Nat) (x : Word) : (w.setWr n x).frame = w.frame := rfl
@[simp] theorem Wave.setWr_search (n : Nat) (x : Word) : (w.setWr n x).search = w.search := rfl
@[simp] theorem Wave.setWr_vl (n : Nat) (x : Word) : (w.setWr n x).vl = w.vl := rfl
@[simp] theorem Wave.setWr_wl (n : Nat) (x : Word) : (w.setWr n x).wl = w.wl := rfl
@[simp] theorem Wave.setWr_st (n : Nat) (x : Word) : (w.setWr n x).st = w.st := rfl
@[simp] theorem Wave.setWr_stOwed (n : Nat) (x : Word) : (w.setWr n x).stOwed = w.stOwed := rfl
@[simp] theorem Wave.setWr_ec (n : Nat) (x : Word) : (w.setWr n x).ec = w.ec := rfl
@[simp] theorem Wave.setWr_fl (n : Nat) (x : Word) : (w.setWr n x).fl = w.fl := rfl
@[simp] theorem Wave.setWr_inflight (n : Nat) (x : Word) : (w.setWr n x).inflight = w.inflight := rfl
@[simp] theorem Wave.setWr_faults (n : Nat) (x : Word) : (w.setWr n x).faults = w.faults := rfl
@[simp] theorem Wave.setWr_next (n : Nat) (x : Word) : (w.setWr n x).next = w.next := rfl
@[simp] theorem Wave.setWr_openBatch (n : Nat) (x : Word) : (w.setWr n x).openBatch = w.openBatch := rfl
@[simp] theorem Wave.setWr_sealed (n : Nat) (x : Word) : (w.setWr n x).sealed = w.sealed := rfl
@[simp] theorem Wave.setWr_arm (n : Nat) (x : Word) : (w.setWr n x).arm = w.arm := rfl
@[simp] theorem Wave.setWr_done (n : Nat) (x : Word) : (w.setWr n x).done = w.done := rfl
@[simp] theorem Wave.setWr_amx (n : Nat) (x : Word) : (w.setWr n x).amx = w.amx := rfl
@[simp] theorem Wave.setWr_buf (n : Nat) (x : Word) : (w.setWr n x).buf = w.buf := rfl
@[simp] theorem Wave.setWr_commitHeld (n : Nat) (x : Word) : (w.setWr n x).commitHeld = w.commitHeld := rfl
@[simp] theorem Wave.setWr_stopped (n : Nat) (x : Word) : (w.setWr n x).stopped = w.stopped := rfl
@[simp] theorem Wave.setWr_hold (n : Nat) (x : Word) : (w.setWr n x).hold = w.hold := rfl
@[simp] theorem Wave.setWr_tried (n : Nat) (x : Word) : (w.setWr n x).tried = w.tried := rfl
@[simp] theorem Wave.setWr_gphase (n : Nat) (x : Word) : (w.setWr n x).gphase = w.gphase := rfl
@[simp] theorem Wave.setWr_gArrived (n : Nat) (x : Word) : (w.setWr n x).gArrived = w.gArrived := rfl
@[simp] theorem Wave.setWr_active (n : Nat) (x : Word) : (w.setWr n x).active = w.active := rfl
@[simp] theorem Wave.setWr_age (n : Nat) (x : Word) : (w.setWr n x).age = w.age := rfl
@[simp] theorem Wave.setWr_waitFrom (n : Nat) (x : Word) : (w.setWr n x).waitFrom = w.waitFrom := rfl
@[simp] theorem Wave.setWr_badRows (n : Nat) (x : Word) : (w.setWr n x).badRows = w.badRows := rfl
@[simp] theorem Wave.setWr_badQ (n : Nat) (x : Word) : (w.setWr n x).badQ = w.badQ := rfl
@[simp] theorem Wave.setWr_badQSaved (n : Nat) (x : Word) : (w.setWr n x).badQSaved = w.badQSaved := rfl
@[simp] theorem Wave.setWr_trapCause (n : Nat) (x : Word) : (w.setWr n x).trapCause = w.trapCause := rfl
@[simp] theorem Wave.setWr_trapPc (n : Nat) (x : Word) : (w.setWr n x).trapPc = w.trapPc := rfl
@[simp] theorem Wave.setWr_exited (n : Nat) (x : Word) : (w.setWr n x).exited = w.exited := rfl
@[simp] theorem Wave.setWr_core (n : Nat) (x : Word) : (w.setWr n x).core = w.core := rfl
@[simp] theorem Wave.setWr_slot (n : Nat) (x : Word) : (w.setWr n x).slot = w.slot := rfl
@[simp] theorem Wave.setWr_wid (n : Nat) (x : Word) : (w.setWr n x).wid = w.wid := rfl
@[simp] theorem Wave.setWr_quant (n : Nat) (x : Word) : (w.setWr n x).quant = w.quant := rfl
@[simp] theorem Wave.setWr_qDue (n : Nat) (x : Word) : (w.setWr n x).qDue = w.qDue := rfl

@[simp] theorem Wave.setWr2_pc (n : Nat) (x : BitVec 64) : (w.setWr2 n x).pc = w.pc := rfl
@[simp] theorem Wave.setWr2_wbase (n : Nat) (x : BitVec 64) : (w.setWr2 n x).wbase = w.wbase := rfl
@[simp] theorem Wave.setWr2_alloc (n : Nat) (x : BitVec 64) : (w.setWr2 n x).alloc = w.alloc := rfl
@[simp] theorem Wave.setWr2_v (n : Nat) (x : BitVec 64) : (w.setWr2 n x).v = w.v := rfl
@[simp] theorem Wave.setWr2_fsr (n : Nat) (x : BitVec 64) : (w.setWr2 n x).fsr = w.fsr := rfl
@[simp] theorem Wave.setWr2_q (n : Nat) (x : BitVec 64) : (w.setWr2 n x).q = w.q := rfl
@[simp] theorem Wave.setWr2_qSaved (n : Nat) (x : BitVec 64) : (w.setWr2 n x).qSaved = w.qSaved := rfl
@[simp] theorem Wave.setWr2_count (n : Nat) (x : BitVec 64) : (w.setWr2 n x).count = w.count := rfl
@[simp] theorem Wave.setWr2_sup (n : Nat) (x : BitVec 64) : (w.setWr2 n x).sup = w.sup := rfl
@[simp] theorem Wave.setWr2_cause (n : Nat) (x : BitVec 64) : (w.setWr2 n x).cause = w.cause := rfl
@[simp] theorem Wave.setWr2_epcl (n : Nat) (x : BitVec 64) : (w.setWr2 n x).epcl = w.epcl := rfl
@[simp] theorem Wave.setWr2_epch (n : Nat) (x : BitVec 64) : (w.setWr2 n x).epch = w.epch := rfl
@[simp] theorem Wave.setWr2_tvecl (n : Nat) (x : BitVec 64) : (w.setWr2 n x).tvecl = w.tvecl := rfl
@[simp] theorem Wave.setWr2_tvech (n : Nat) (x : BitVec 64) : (w.setWr2 n x).tvech = w.tvech := rfl
@[simp] theorem Wave.setWr2_tvall (n : Nat) (x : BitVec 64) : (w.setWr2 n x).tvall = w.tvall := rfl
@[simp] theorem Wave.setWr2_tvalh (n : Nat) (x : BitVec 64) : (w.setWr2 n x).tvalh = w.tvalh := rfl
@[simp] theorem Wave.setWr2_tmask0 (n : Nat) (x : BitVec 64) : (w.setWr2 n x).tmask0 = w.tmask0 := rfl
@[simp] theorem Wave.setWr2_tmask1 (n : Nat) (x : BitVec 64) : (w.setWr2 n x).tmask1 = w.tmask1 := rfl
@[simp] theorem Wave.setWr2_tmask2 (n : Nat) (x : BitVec 64) : (w.setWr2 n x).tmask2 = w.tmask2 := rfl
@[simp] theorem Wave.setWr2_tlane (n : Nat) (x : BitVec 64) : (w.setWr2 n x).tlane = w.tlane := rfl
@[simp] theorem Wave.setWr2_ssc0 (n : Nat) (x : BitVec 64) : (w.setWr2 n x).ssc0 = w.ssc0 := rfl
@[simp] theorem Wave.setWr2_ssc1 (n : Nat) (x : BitVec 64) : (w.setWr2 n x).ssc1 = w.ssc1 := rfl
@[simp] theorem Wave.setWr2_lvCls (n : Nat) (x : BitVec 64) : (w.setWr2 n x).lvCls = w.lvCls := rfl
@[simp] theorem Wave.setWr2_lvGnt (n : Nat) (x : BitVec 64) : (w.setWr2 n x).lvGnt = w.lvGnt := rfl
@[simp] theorem Wave.setWr2_engCls (n : Nat) (x : BitVec 64) : (w.setWr2 n x).engCls = w.engCls := rfl
@[simp] theorem Wave.setWr2_engGnt (n : Nat) (x : BitVec 64) : (w.setWr2 n x).engGnt = w.engGnt := rfl
@[simp] theorem Wave.setWr2_tokens (n : Nat) (x : BitVec 64) : (w.setWr2 n x).tokens = w.tokens := rfl
@[simp] theorem Wave.setWr2_spilled (n : Nat) (x : BitVec 64) : (w.setWr2 n x).spilled = w.spilled := rfl
@[simp] theorem Wave.setWr2_entryDepth (n : Nat) (x : BitVec 64) : (w.setWr2 n x).entryDepth = w.entryDepth := rfl
@[simp] theorem Wave.setWr2_frame (n : Nat) (x : BitVec 64) : (w.setWr2 n x).frame = w.frame := rfl
@[simp] theorem Wave.setWr2_search (n : Nat) (x : BitVec 64) : (w.setWr2 n x).search = w.search := rfl
@[simp] theorem Wave.setWr2_vl (n : Nat) (x : BitVec 64) : (w.setWr2 n x).vl = w.vl := rfl
@[simp] theorem Wave.setWr2_wl (n : Nat) (x : BitVec 64) : (w.setWr2 n x).wl = w.wl := rfl
@[simp] theorem Wave.setWr2_st (n : Nat) (x : BitVec 64) : (w.setWr2 n x).st = w.st := rfl
@[simp] theorem Wave.setWr2_stOwed (n : Nat) (x : BitVec 64) : (w.setWr2 n x).stOwed = w.stOwed := rfl
@[simp] theorem Wave.setWr2_ec (n : Nat) (x : BitVec 64) : (w.setWr2 n x).ec = w.ec := rfl
@[simp] theorem Wave.setWr2_fl (n : Nat) (x : BitVec 64) : (w.setWr2 n x).fl = w.fl := rfl
@[simp] theorem Wave.setWr2_inflight (n : Nat) (x : BitVec 64) : (w.setWr2 n x).inflight = w.inflight := rfl
@[simp] theorem Wave.setWr2_faults (n : Nat) (x : BitVec 64) : (w.setWr2 n x).faults = w.faults := rfl
@[simp] theorem Wave.setWr2_next (n : Nat) (x : BitVec 64) : (w.setWr2 n x).next = w.next := rfl
@[simp] theorem Wave.setWr2_openBatch (n : Nat) (x : BitVec 64) : (w.setWr2 n x).openBatch = w.openBatch := rfl
@[simp] theorem Wave.setWr2_sealed (n : Nat) (x : BitVec 64) : (w.setWr2 n x).sealed = w.sealed := rfl
@[simp] theorem Wave.setWr2_arm (n : Nat) (x : BitVec 64) : (w.setWr2 n x).arm = w.arm := rfl
@[simp] theorem Wave.setWr2_done (n : Nat) (x : BitVec 64) : (w.setWr2 n x).done = w.done := rfl
@[simp] theorem Wave.setWr2_amx (n : Nat) (x : BitVec 64) : (w.setWr2 n x).amx = w.amx := rfl
@[simp] theorem Wave.setWr2_buf (n : Nat) (x : BitVec 64) : (w.setWr2 n x).buf = w.buf := rfl
@[simp] theorem Wave.setWr2_commitHeld (n : Nat) (x : BitVec 64) : (w.setWr2 n x).commitHeld = w.commitHeld := rfl
@[simp] theorem Wave.setWr2_stopped (n : Nat) (x : BitVec 64) : (w.setWr2 n x).stopped = w.stopped := rfl
@[simp] theorem Wave.setWr2_hold (n : Nat) (x : BitVec 64) : (w.setWr2 n x).hold = w.hold := rfl
@[simp] theorem Wave.setWr2_tried (n : Nat) (x : BitVec 64) : (w.setWr2 n x).tried = w.tried := rfl
@[simp] theorem Wave.setWr2_gphase (n : Nat) (x : BitVec 64) : (w.setWr2 n x).gphase = w.gphase := rfl
@[simp] theorem Wave.setWr2_gArrived (n : Nat) (x : BitVec 64) : (w.setWr2 n x).gArrived = w.gArrived := rfl
@[simp] theorem Wave.setWr2_active (n : Nat) (x : BitVec 64) : (w.setWr2 n x).active = w.active := rfl
@[simp] theorem Wave.setWr2_age (n : Nat) (x : BitVec 64) : (w.setWr2 n x).age = w.age := rfl
@[simp] theorem Wave.setWr2_waitFrom (n : Nat) (x : BitVec 64) : (w.setWr2 n x).waitFrom = w.waitFrom := rfl
@[simp] theorem Wave.setWr2_badRows (n : Nat) (x : BitVec 64) : (w.setWr2 n x).badRows = w.badRows := rfl
@[simp] theorem Wave.setWr2_badQ (n : Nat) (x : BitVec 64) : (w.setWr2 n x).badQ = w.badQ := rfl
@[simp] theorem Wave.setWr2_badQSaved (n : Nat) (x : BitVec 64) : (w.setWr2 n x).badQSaved = w.badQSaved := rfl
@[simp] theorem Wave.setWr2_trapCause (n : Nat) (x : BitVec 64) : (w.setWr2 n x).trapCause = w.trapCause := rfl
@[simp] theorem Wave.setWr2_trapPc (n : Nat) (x : BitVec 64) : (w.setWr2 n x).trapPc = w.trapPc := rfl
@[simp] theorem Wave.setWr2_exited (n : Nat) (x : BitVec 64) : (w.setWr2 n x).exited = w.exited := rfl
@[simp] theorem Wave.setWr2_core (n : Nat) (x : BitVec 64) : (w.setWr2 n x).core = w.core := rfl
@[simp] theorem Wave.setWr2_slot (n : Nat) (x : BitVec 64) : (w.setWr2 n x).slot = w.slot := rfl
@[simp] theorem Wave.setWr2_wid (n : Nat) (x : BitVec 64) : (w.setWr2 n x).wid = w.wid := rfl
@[simp] theorem Wave.setWr2_quant (n : Nat) (x : BitVec 64) : (w.setWr2 n x).quant = w.quant := rfl
@[simp] theorem Wave.setWr2_qDue (n : Nat) (x : BitVec 64) : (w.setWr2 n x).qDue = w.qDue := rfl

@[simp] theorem Wave.setMask_pc (m0 m1 m2 : Word) : (w.setMask m0 m1 m2).pc = w.pc := rfl
@[simp] theorem Wave.setMask_wbase (m0 m1 m2 : Word) : (w.setMask m0 m1 m2).wbase = w.wbase := rfl
@[simp] theorem Wave.setMask_alloc (m0 m1 m2 : Word) : (w.setMask m0 m1 m2).alloc = w.alloc := rfl
@[simp] theorem Wave.setMask_v (m0 m1 m2 : Word) : (w.setMask m0 m1 m2).v = w.v := rfl
@[simp] theorem Wave.setMask_fsr (m0 m1 m2 : Word) : (w.setMask m0 m1 m2).fsr = w.fsr := rfl
@[simp] theorem Wave.setMask_q (m0 m1 m2 : Word) : (w.setMask m0 m1 m2).q = w.q := rfl
@[simp] theorem Wave.setMask_qSaved (m0 m1 m2 : Word) : (w.setMask m0 m1 m2).qSaved = w.qSaved := rfl
@[simp] theorem Wave.setMask_count (m0 m1 m2 : Word) : (w.setMask m0 m1 m2).count = w.count := rfl
@[simp] theorem Wave.setMask_sup (m0 m1 m2 : Word) : (w.setMask m0 m1 m2).sup = w.sup := rfl
@[simp] theorem Wave.setMask_cause (m0 m1 m2 : Word) : (w.setMask m0 m1 m2).cause = w.cause := rfl
@[simp] theorem Wave.setMask_epcl (m0 m1 m2 : Word) : (w.setMask m0 m1 m2).epcl = w.epcl := rfl
@[simp] theorem Wave.setMask_epch (m0 m1 m2 : Word) : (w.setMask m0 m1 m2).epch = w.epch := rfl
@[simp] theorem Wave.setMask_tvecl (m0 m1 m2 : Word) : (w.setMask m0 m1 m2).tvecl = w.tvecl := rfl
@[simp] theorem Wave.setMask_tvech (m0 m1 m2 : Word) : (w.setMask m0 m1 m2).tvech = w.tvech := rfl
@[simp] theorem Wave.setMask_tvall (m0 m1 m2 : Word) : (w.setMask m0 m1 m2).tvall = w.tvall := rfl
@[simp] theorem Wave.setMask_tvalh (m0 m1 m2 : Word) : (w.setMask m0 m1 m2).tvalh = w.tvalh := rfl
@[simp] theorem Wave.setMask_tmask0 (m0 m1 m2 : Word) : (w.setMask m0 m1 m2).tmask0 = w.tmask0 := rfl
@[simp] theorem Wave.setMask_tmask1 (m0 m1 m2 : Word) : (w.setMask m0 m1 m2).tmask1 = w.tmask1 := rfl
@[simp] theorem Wave.setMask_tmask2 (m0 m1 m2 : Word) : (w.setMask m0 m1 m2).tmask2 = w.tmask2 := rfl
@[simp] theorem Wave.setMask_tlane (m0 m1 m2 : Word) : (w.setMask m0 m1 m2).tlane = w.tlane := rfl
@[simp] theorem Wave.setMask_ssc0 (m0 m1 m2 : Word) : (w.setMask m0 m1 m2).ssc0 = w.ssc0 := rfl
@[simp] theorem Wave.setMask_ssc1 (m0 m1 m2 : Word) : (w.setMask m0 m1 m2).ssc1 = w.ssc1 := rfl
@[simp] theorem Wave.setMask_lvCls (m0 m1 m2 : Word) : (w.setMask m0 m1 m2).lvCls = w.lvCls := rfl
@[simp] theorem Wave.setMask_lvGnt (m0 m1 m2 : Word) : (w.setMask m0 m1 m2).lvGnt = w.lvGnt := rfl
@[simp] theorem Wave.setMask_engCls (m0 m1 m2 : Word) : (w.setMask m0 m1 m2).engCls = w.engCls := rfl
@[simp] theorem Wave.setMask_engGnt (m0 m1 m2 : Word) : (w.setMask m0 m1 m2).engGnt = w.engGnt := rfl
@[simp] theorem Wave.setMask_tokens (m0 m1 m2 : Word) : (w.setMask m0 m1 m2).tokens = w.tokens := rfl
@[simp] theorem Wave.setMask_spilled (m0 m1 m2 : Word) : (w.setMask m0 m1 m2).spilled = w.spilled := rfl
@[simp] theorem Wave.setMask_entryDepth (m0 m1 m2 : Word) : (w.setMask m0 m1 m2).entryDepth = w.entryDepth := rfl
@[simp] theorem Wave.setMask_frame (m0 m1 m2 : Word) : (w.setMask m0 m1 m2).frame = w.frame := rfl
@[simp] theorem Wave.setMask_search (m0 m1 m2 : Word) : (w.setMask m0 m1 m2).search = w.search := rfl
@[simp] theorem Wave.setMask_vl (m0 m1 m2 : Word) : (w.setMask m0 m1 m2).vl = w.vl := rfl
@[simp] theorem Wave.setMask_wl (m0 m1 m2 : Word) : (w.setMask m0 m1 m2).wl = w.wl := rfl
@[simp] theorem Wave.setMask_st (m0 m1 m2 : Word) : (w.setMask m0 m1 m2).st = w.st := rfl
@[simp] theorem Wave.setMask_stOwed (m0 m1 m2 : Word) : (w.setMask m0 m1 m2).stOwed = w.stOwed := rfl
@[simp] theorem Wave.setMask_ec (m0 m1 m2 : Word) : (w.setMask m0 m1 m2).ec = w.ec := rfl
@[simp] theorem Wave.setMask_fl (m0 m1 m2 : Word) : (w.setMask m0 m1 m2).fl = w.fl := rfl
@[simp] theorem Wave.setMask_inflight (m0 m1 m2 : Word) : (w.setMask m0 m1 m2).inflight = w.inflight := rfl
@[simp] theorem Wave.setMask_faults (m0 m1 m2 : Word) : (w.setMask m0 m1 m2).faults = w.faults := rfl
@[simp] theorem Wave.setMask_next (m0 m1 m2 : Word) : (w.setMask m0 m1 m2).next = w.next := rfl
@[simp] theorem Wave.setMask_openBatch (m0 m1 m2 : Word) : (w.setMask m0 m1 m2).openBatch = w.openBatch := rfl
@[simp] theorem Wave.setMask_sealed (m0 m1 m2 : Word) : (w.setMask m0 m1 m2).sealed = w.sealed := rfl
@[simp] theorem Wave.setMask_arm (m0 m1 m2 : Word) : (w.setMask m0 m1 m2).arm = w.arm := rfl
@[simp] theorem Wave.setMask_done (m0 m1 m2 : Word) : (w.setMask m0 m1 m2).done = w.done := rfl
@[simp] theorem Wave.setMask_amx (m0 m1 m2 : Word) : (w.setMask m0 m1 m2).amx = w.amx := rfl
@[simp] theorem Wave.setMask_buf (m0 m1 m2 : Word) : (w.setMask m0 m1 m2).buf = w.buf := rfl
@[simp] theorem Wave.setMask_commitHeld (m0 m1 m2 : Word) : (w.setMask m0 m1 m2).commitHeld = w.commitHeld := rfl
@[simp] theorem Wave.setMask_stopped (m0 m1 m2 : Word) : (w.setMask m0 m1 m2).stopped = w.stopped := rfl
@[simp] theorem Wave.setMask_hold (m0 m1 m2 : Word) : (w.setMask m0 m1 m2).hold = w.hold := rfl
@[simp] theorem Wave.setMask_tried (m0 m1 m2 : Word) : (w.setMask m0 m1 m2).tried = w.tried := rfl
@[simp] theorem Wave.setMask_gphase (m0 m1 m2 : Word) : (w.setMask m0 m1 m2).gphase = w.gphase := rfl
@[simp] theorem Wave.setMask_gArrived (m0 m1 m2 : Word) : (w.setMask m0 m1 m2).gArrived = w.gArrived := rfl
@[simp] theorem Wave.setMask_active (m0 m1 m2 : Word) : (w.setMask m0 m1 m2).active = w.active := rfl
@[simp] theorem Wave.setMask_age (m0 m1 m2 : Word) : (w.setMask m0 m1 m2).age = w.age := rfl
@[simp] theorem Wave.setMask_waitFrom (m0 m1 m2 : Word) : (w.setMask m0 m1 m2).waitFrom = w.waitFrom := rfl
@[simp] theorem Wave.setMask_badRows (m0 m1 m2 : Word) : (w.setMask m0 m1 m2).badRows = w.badRows := rfl
@[simp] theorem Wave.setMask_badQ (m0 m1 m2 : Word) : (w.setMask m0 m1 m2).badQ = w.badQ := rfl
@[simp] theorem Wave.setMask_badQSaved (m0 m1 m2 : Word) : (w.setMask m0 m1 m2).badQSaved = w.badQSaved := rfl
@[simp] theorem Wave.setMask_trapCause (m0 m1 m2 : Word) : (w.setMask m0 m1 m2).trapCause = w.trapCause := rfl
@[simp] theorem Wave.setMask_trapPc (m0 m1 m2 : Word) : (w.setMask m0 m1 m2).trapPc = w.trapPc := rfl
@[simp] theorem Wave.setMask_exited (m0 m1 m2 : Word) : (w.setMask m0 m1 m2).exited = w.exited := rfl
@[simp] theorem Wave.setMask_core (m0 m1 m2 : Word) : (w.setMask m0 m1 m2).core = w.core := rfl
@[simp] theorem Wave.setMask_slot (m0 m1 m2 : Word) : (w.setMask m0 m1 m2).slot = w.slot := rfl
@[simp] theorem Wave.setMask_wid (m0 m1 m2 : Word) : (w.setMask m0 m1 m2).wid = w.wid := rfl
@[simp] theorem Wave.setMask_quant (m0 m1 m2 : Word) : (w.setMask m0 m1 m2).quant = w.quant := rfl
@[simp] theorem Wave.setMask_qDue (m0 m1 m2 : Word) : (w.setMask m0 m1 m2).qDue = w.qDue := rfl

@[simp] theorem Wave.shiftQ_pc (r : Row) : (w.shiftQ r).pc = w.pc := rfl
@[simp] theorem Wave.shiftQ_wbase (r : Row) : (w.shiftQ r).wbase = w.wbase := rfl
@[simp] theorem Wave.shiftQ_alloc (r : Row) : (w.shiftQ r).alloc = w.alloc := rfl
@[simp] theorem Wave.shiftQ_v (r : Row) : (w.shiftQ r).v = w.v := rfl
@[simp] theorem Wave.shiftQ_w (r : Row) : (w.shiftQ r).w = w.w := rfl
@[simp] theorem Wave.shiftQ_fsr (r : Row) : (w.shiftQ r).fsr = w.fsr := rfl
@[simp] theorem Wave.shiftQ_qSaved (r : Row) : (w.shiftQ r).qSaved = w.qSaved := rfl
@[simp] theorem Wave.shiftQ_count (r : Row) : (w.shiftQ r).count = w.count := rfl
@[simp] theorem Wave.shiftQ_sup (r : Row) : (w.shiftQ r).sup = w.sup := rfl
@[simp] theorem Wave.shiftQ_cause (r : Row) : (w.shiftQ r).cause = w.cause := rfl
@[simp] theorem Wave.shiftQ_epcl (r : Row) : (w.shiftQ r).epcl = w.epcl := rfl
@[simp] theorem Wave.shiftQ_epch (r : Row) : (w.shiftQ r).epch = w.epch := rfl
@[simp] theorem Wave.shiftQ_tvecl (r : Row) : (w.shiftQ r).tvecl = w.tvecl := rfl
@[simp] theorem Wave.shiftQ_tvech (r : Row) : (w.shiftQ r).tvech = w.tvech := rfl
@[simp] theorem Wave.shiftQ_tvall (r : Row) : (w.shiftQ r).tvall = w.tvall := rfl
@[simp] theorem Wave.shiftQ_tvalh (r : Row) : (w.shiftQ r).tvalh = w.tvalh := rfl
@[simp] theorem Wave.shiftQ_tmask0 (r : Row) : (w.shiftQ r).tmask0 = w.tmask0 := rfl
@[simp] theorem Wave.shiftQ_tmask1 (r : Row) : (w.shiftQ r).tmask1 = w.tmask1 := rfl
@[simp] theorem Wave.shiftQ_tmask2 (r : Row) : (w.shiftQ r).tmask2 = w.tmask2 := rfl
@[simp] theorem Wave.shiftQ_tlane (r : Row) : (w.shiftQ r).tlane = w.tlane := rfl
@[simp] theorem Wave.shiftQ_ssc0 (r : Row) : (w.shiftQ r).ssc0 = w.ssc0 := rfl
@[simp] theorem Wave.shiftQ_ssc1 (r : Row) : (w.shiftQ r).ssc1 = w.ssc1 := rfl
@[simp] theorem Wave.shiftQ_lvCls (r : Row) : (w.shiftQ r).lvCls = w.lvCls := rfl
@[simp] theorem Wave.shiftQ_lvGnt (r : Row) : (w.shiftQ r).lvGnt = w.lvGnt := rfl
@[simp] theorem Wave.shiftQ_engCls (r : Row) : (w.shiftQ r).engCls = w.engCls := rfl
@[simp] theorem Wave.shiftQ_engGnt (r : Row) : (w.shiftQ r).engGnt = w.engGnt := rfl
@[simp] theorem Wave.shiftQ_tokens (r : Row) : (w.shiftQ r).tokens = w.tokens := rfl
@[simp] theorem Wave.shiftQ_spilled (r : Row) : (w.shiftQ r).spilled = w.spilled := rfl
@[simp] theorem Wave.shiftQ_entryDepth (r : Row) : (w.shiftQ r).entryDepth = w.entryDepth := rfl
@[simp] theorem Wave.shiftQ_frame (r : Row) : (w.shiftQ r).frame = w.frame := rfl
@[simp] theorem Wave.shiftQ_search (r : Row) : (w.shiftQ r).search = w.search := rfl
@[simp] theorem Wave.shiftQ_vl (r : Row) : (w.shiftQ r).vl = w.vl := rfl
@[simp] theorem Wave.shiftQ_wl (r : Row) : (w.shiftQ r).wl = w.wl := rfl
@[simp] theorem Wave.shiftQ_st (r : Row) : (w.shiftQ r).st = w.st := rfl
@[simp] theorem Wave.shiftQ_stOwed (r : Row) : (w.shiftQ r).stOwed = w.stOwed := rfl
@[simp] theorem Wave.shiftQ_ec (r : Row) : (w.shiftQ r).ec = w.ec := rfl
@[simp] theorem Wave.shiftQ_fl (r : Row) : (w.shiftQ r).fl = w.fl := rfl
@[simp] theorem Wave.shiftQ_inflight (r : Row) : (w.shiftQ r).inflight = w.inflight := rfl
@[simp] theorem Wave.shiftQ_faults (r : Row) : (w.shiftQ r).faults = w.faults := rfl
@[simp] theorem Wave.shiftQ_next (r : Row) : (w.shiftQ r).next = w.next := rfl
@[simp] theorem Wave.shiftQ_openBatch (r : Row) : (w.shiftQ r).openBatch = w.openBatch := rfl
@[simp] theorem Wave.shiftQ_sealed (r : Row) : (w.shiftQ r).sealed = w.sealed := rfl
@[simp] theorem Wave.shiftQ_arm (r : Row) : (w.shiftQ r).arm = w.arm := rfl
@[simp] theorem Wave.shiftQ_done (r : Row) : (w.shiftQ r).done = w.done := rfl
@[simp] theorem Wave.shiftQ_amx (r : Row) : (w.shiftQ r).amx = w.amx := rfl
@[simp] theorem Wave.shiftQ_buf (r : Row) : (w.shiftQ r).buf = w.buf := rfl
@[simp] theorem Wave.shiftQ_commitHeld (r : Row) : (w.shiftQ r).commitHeld = w.commitHeld := rfl
@[simp] theorem Wave.shiftQ_stopped (r : Row) : (w.shiftQ r).stopped = w.stopped := rfl
@[simp] theorem Wave.shiftQ_hold (r : Row) : (w.shiftQ r).hold = w.hold := rfl
@[simp] theorem Wave.shiftQ_tried (r : Row) : (w.shiftQ r).tried = w.tried := rfl
@[simp] theorem Wave.shiftQ_gphase (r : Row) : (w.shiftQ r).gphase = w.gphase := rfl
@[simp] theorem Wave.shiftQ_gArrived (r : Row) : (w.shiftQ r).gArrived = w.gArrived := rfl
@[simp] theorem Wave.shiftQ_active (r : Row) : (w.shiftQ r).active = w.active := rfl
@[simp] theorem Wave.shiftQ_age (r : Row) : (w.shiftQ r).age = w.age := rfl
@[simp] theorem Wave.shiftQ_waitFrom (r : Row) : (w.shiftQ r).waitFrom = w.waitFrom := rfl
@[simp] theorem Wave.shiftQ_badRows (r : Row) : (w.shiftQ r).badRows = w.badRows := rfl
@[simp] theorem Wave.shiftQ_badQSaved (r : Row) : (w.shiftQ r).badQSaved = w.badQSaved := rfl
@[simp] theorem Wave.shiftQ_trapCause (r : Row) : (w.shiftQ r).trapCause = w.trapCause := rfl
@[simp] theorem Wave.shiftQ_trapPc (r : Row) : (w.shiftQ r).trapPc = w.trapPc := rfl
@[simp] theorem Wave.shiftQ_exited (r : Row) : (w.shiftQ r).exited = w.exited := rfl
@[simp] theorem Wave.shiftQ_core (r : Row) : (w.shiftQ r).core = w.core := rfl
@[simp] theorem Wave.shiftQ_slot (r : Row) : (w.shiftQ r).slot = w.slot := rfl
@[simp] theorem Wave.shiftQ_wid (r : Row) : (w.shiftQ r).wid = w.wid := rfl
@[simp] theorem Wave.shiftQ_quant (r : Row) : (w.shiftQ r).quant = w.quant := rfl
@[simp] theorem Wave.shiftQ_qDue (r : Row) : (w.shiftQ r).qDue = w.qDue := rfl

@[simp] theorem Wave.clearQ_pc : (w.clearQ).pc = w.pc := rfl
@[simp] theorem Wave.clearQ_wbase : (w.clearQ).wbase = w.wbase := rfl
@[simp] theorem Wave.clearQ_alloc : (w.clearQ).alloc = w.alloc := rfl
@[simp] theorem Wave.clearQ_v : (w.clearQ).v = w.v := rfl
@[simp] theorem Wave.clearQ_w : (w.clearQ).w = w.w := rfl
@[simp] theorem Wave.clearQ_fsr : (w.clearQ).fsr = w.fsr := rfl
@[simp] theorem Wave.clearQ_qSaved : (w.clearQ).qSaved = w.qSaved := rfl
@[simp] theorem Wave.clearQ_count : (w.clearQ).count = w.count := rfl
@[simp] theorem Wave.clearQ_sup : (w.clearQ).sup = w.sup := rfl
@[simp] theorem Wave.clearQ_cause : (w.clearQ).cause = w.cause := rfl
@[simp] theorem Wave.clearQ_epcl : (w.clearQ).epcl = w.epcl := rfl
@[simp] theorem Wave.clearQ_epch : (w.clearQ).epch = w.epch := rfl
@[simp] theorem Wave.clearQ_tvecl : (w.clearQ).tvecl = w.tvecl := rfl
@[simp] theorem Wave.clearQ_tvech : (w.clearQ).tvech = w.tvech := rfl
@[simp] theorem Wave.clearQ_tvall : (w.clearQ).tvall = w.tvall := rfl
@[simp] theorem Wave.clearQ_tvalh : (w.clearQ).tvalh = w.tvalh := rfl
@[simp] theorem Wave.clearQ_tmask0 : (w.clearQ).tmask0 = w.tmask0 := rfl
@[simp] theorem Wave.clearQ_tmask1 : (w.clearQ).tmask1 = w.tmask1 := rfl
@[simp] theorem Wave.clearQ_tmask2 : (w.clearQ).tmask2 = w.tmask2 := rfl
@[simp] theorem Wave.clearQ_tlane : (w.clearQ).tlane = w.tlane := rfl
@[simp] theorem Wave.clearQ_ssc0 : (w.clearQ).ssc0 = w.ssc0 := rfl
@[simp] theorem Wave.clearQ_ssc1 : (w.clearQ).ssc1 = w.ssc1 := rfl
@[simp] theorem Wave.clearQ_lvCls : (w.clearQ).lvCls = w.lvCls := rfl
@[simp] theorem Wave.clearQ_lvGnt : (w.clearQ).lvGnt = w.lvGnt := rfl
@[simp] theorem Wave.clearQ_engCls : (w.clearQ).engCls = w.engCls := rfl
@[simp] theorem Wave.clearQ_engGnt : (w.clearQ).engGnt = w.engGnt := rfl
@[simp] theorem Wave.clearQ_tokens : (w.clearQ).tokens = w.tokens := rfl
@[simp] theorem Wave.clearQ_spilled : (w.clearQ).spilled = w.spilled := rfl
@[simp] theorem Wave.clearQ_entryDepth : (w.clearQ).entryDepth = w.entryDepth := rfl
@[simp] theorem Wave.clearQ_frame : (w.clearQ).frame = w.frame := rfl
@[simp] theorem Wave.clearQ_search : (w.clearQ).search = w.search := rfl
@[simp] theorem Wave.clearQ_vl : (w.clearQ).vl = w.vl := rfl
@[simp] theorem Wave.clearQ_wl : (w.clearQ).wl = w.wl := rfl
@[simp] theorem Wave.clearQ_st : (w.clearQ).st = w.st := rfl
@[simp] theorem Wave.clearQ_stOwed : (w.clearQ).stOwed = w.stOwed := rfl
@[simp] theorem Wave.clearQ_ec : (w.clearQ).ec = w.ec := rfl
@[simp] theorem Wave.clearQ_fl : (w.clearQ).fl = w.fl := rfl
@[simp] theorem Wave.clearQ_inflight : (w.clearQ).inflight = w.inflight := rfl
@[simp] theorem Wave.clearQ_faults : (w.clearQ).faults = w.faults := rfl
@[simp] theorem Wave.clearQ_next : (w.clearQ).next = w.next := rfl
@[simp] theorem Wave.clearQ_openBatch : (w.clearQ).openBatch = w.openBatch := rfl
@[simp] theorem Wave.clearQ_sealed : (w.clearQ).sealed = w.sealed := rfl
@[simp] theorem Wave.clearQ_arm : (w.clearQ).arm = w.arm := rfl
@[simp] theorem Wave.clearQ_done : (w.clearQ).done = w.done := rfl
@[simp] theorem Wave.clearQ_amx : (w.clearQ).amx = w.amx := rfl
@[simp] theorem Wave.clearQ_buf : (w.clearQ).buf = w.buf := rfl
@[simp] theorem Wave.clearQ_commitHeld : (w.clearQ).commitHeld = w.commitHeld := rfl
@[simp] theorem Wave.clearQ_stopped : (w.clearQ).stopped = w.stopped := rfl
@[simp] theorem Wave.clearQ_hold : (w.clearQ).hold = w.hold := rfl
@[simp] theorem Wave.clearQ_tried : (w.clearQ).tried = w.tried := rfl
@[simp] theorem Wave.clearQ_gphase : (w.clearQ).gphase = w.gphase := rfl
@[simp] theorem Wave.clearQ_gArrived : (w.clearQ).gArrived = w.gArrived := rfl
@[simp] theorem Wave.clearQ_active : (w.clearQ).active = w.active := rfl
@[simp] theorem Wave.clearQ_age : (w.clearQ).age = w.age := rfl
@[simp] theorem Wave.clearQ_waitFrom : (w.clearQ).waitFrom = w.waitFrom := rfl
@[simp] theorem Wave.clearQ_badRows : (w.clearQ).badRows = w.badRows := rfl
@[simp] theorem Wave.clearQ_badQSaved : (w.clearQ).badQSaved = w.badQSaved := rfl
@[simp] theorem Wave.clearQ_trapCause : (w.clearQ).trapCause = w.trapCause := rfl
@[simp] theorem Wave.clearQ_trapPc : (w.clearQ).trapPc = w.trapPc := rfl
@[simp] theorem Wave.clearQ_exited : (w.clearQ).exited = w.exited := rfl
@[simp] theorem Wave.clearQ_core : (w.clearQ).core = w.core := rfl
@[simp] theorem Wave.clearQ_slot : (w.clearQ).slot = w.slot := rfl
@[simp] theorem Wave.clearQ_wid : (w.clearQ).wid = w.wid := rfl
@[simp] theorem Wave.clearQ_quant : (w.clearQ).quant = w.quant := rfl
@[simp] theorem Wave.clearQ_qDue : (w.clearQ).qDue = w.qDue := rfl

@[simp] theorem Wave.putRow_pc (r : Nat) (p : Nat → Bool) (f : Nat → Word) : (w.putRow r p f).pc = w.pc := rfl
@[simp] theorem Wave.putRow_wbase (r : Nat) (p : Nat → Bool) (f : Nat → Word) : (w.putRow r p f).wbase = w.wbase := rfl
@[simp] theorem Wave.putRow_alloc (r : Nat) (p : Nat → Bool) (f : Nat → Word) : (w.putRow r p f).alloc = w.alloc := rfl
@[simp] theorem Wave.putRow_w (r : Nat) (p : Nat → Bool) (f : Nat → Word) : (w.putRow r p f).w = w.w := rfl
@[simp] theorem Wave.putRow_fsr (r : Nat) (p : Nat → Bool) (f : Nat → Word) : (w.putRow r p f).fsr = w.fsr := rfl
@[simp] theorem Wave.putRow_q (r : Nat) (p : Nat → Bool) (f : Nat → Word) : (w.putRow r p f).q = w.q := rfl
@[simp] theorem Wave.putRow_qSaved (r : Nat) (p : Nat → Bool) (f : Nat → Word) : (w.putRow r p f).qSaved = w.qSaved := rfl
@[simp] theorem Wave.putRow_count (r : Nat) (p : Nat → Bool) (f : Nat → Word) : (w.putRow r p f).count = w.count := rfl
@[simp] theorem Wave.putRow_sup (r : Nat) (p : Nat → Bool) (f : Nat → Word) : (w.putRow r p f).sup = w.sup := rfl
@[simp] theorem Wave.putRow_cause (r : Nat) (p : Nat → Bool) (f : Nat → Word) : (w.putRow r p f).cause = w.cause := rfl
@[simp] theorem Wave.putRow_epcl (r : Nat) (p : Nat → Bool) (f : Nat → Word) : (w.putRow r p f).epcl = w.epcl := rfl
@[simp] theorem Wave.putRow_epch (r : Nat) (p : Nat → Bool) (f : Nat → Word) : (w.putRow r p f).epch = w.epch := rfl
@[simp] theorem Wave.putRow_tvecl (r : Nat) (p : Nat → Bool) (f : Nat → Word) : (w.putRow r p f).tvecl = w.tvecl := rfl
@[simp] theorem Wave.putRow_tvech (r : Nat) (p : Nat → Bool) (f : Nat → Word) : (w.putRow r p f).tvech = w.tvech := rfl
@[simp] theorem Wave.putRow_tvall (r : Nat) (p : Nat → Bool) (f : Nat → Word) : (w.putRow r p f).tvall = w.tvall := rfl
@[simp] theorem Wave.putRow_tvalh (r : Nat) (p : Nat → Bool) (f : Nat → Word) : (w.putRow r p f).tvalh = w.tvalh := rfl
@[simp] theorem Wave.putRow_tmask0 (r : Nat) (p : Nat → Bool) (f : Nat → Word) : (w.putRow r p f).tmask0 = w.tmask0 := rfl
@[simp] theorem Wave.putRow_tmask1 (r : Nat) (p : Nat → Bool) (f : Nat → Word) : (w.putRow r p f).tmask1 = w.tmask1 := rfl
@[simp] theorem Wave.putRow_tmask2 (r : Nat) (p : Nat → Bool) (f : Nat → Word) : (w.putRow r p f).tmask2 = w.tmask2 := rfl
@[simp] theorem Wave.putRow_tlane (r : Nat) (p : Nat → Bool) (f : Nat → Word) : (w.putRow r p f).tlane = w.tlane := rfl
@[simp] theorem Wave.putRow_ssc0 (r : Nat) (p : Nat → Bool) (f : Nat → Word) : (w.putRow r p f).ssc0 = w.ssc0 := rfl
@[simp] theorem Wave.putRow_ssc1 (r : Nat) (p : Nat → Bool) (f : Nat → Word) : (w.putRow r p f).ssc1 = w.ssc1 := rfl
@[simp] theorem Wave.putRow_lvCls (r : Nat) (p : Nat → Bool) (f : Nat → Word) : (w.putRow r p f).lvCls = w.lvCls := rfl
@[simp] theorem Wave.putRow_lvGnt (r : Nat) (p : Nat → Bool) (f : Nat → Word) : (w.putRow r p f).lvGnt = w.lvGnt := rfl
@[simp] theorem Wave.putRow_engCls (r : Nat) (p : Nat → Bool) (f : Nat → Word) : (w.putRow r p f).engCls = w.engCls := rfl
@[simp] theorem Wave.putRow_engGnt (r : Nat) (p : Nat → Bool) (f : Nat → Word) : (w.putRow r p f).engGnt = w.engGnt := rfl
@[simp] theorem Wave.putRow_tokens (r : Nat) (p : Nat → Bool) (f : Nat → Word) : (w.putRow r p f).tokens = w.tokens := rfl
@[simp] theorem Wave.putRow_spilled (r : Nat) (p : Nat → Bool) (f : Nat → Word) : (w.putRow r p f).spilled = w.spilled := rfl
@[simp] theorem Wave.putRow_entryDepth (r : Nat) (p : Nat → Bool) (f : Nat → Word) : (w.putRow r p f).entryDepth = w.entryDepth := rfl
@[simp] theorem Wave.putRow_frame (r : Nat) (p : Nat → Bool) (f : Nat → Word) : (w.putRow r p f).frame = w.frame := rfl
@[simp] theorem Wave.putRow_search (r : Nat) (p : Nat → Bool) (f : Nat → Word) : (w.putRow r p f).search = w.search := rfl
@[simp] theorem Wave.putRow_vl (r : Nat) (p : Nat → Bool) (f : Nat → Word) : (w.putRow r p f).vl = w.vl := rfl
@[simp] theorem Wave.putRow_wl (r : Nat) (p : Nat → Bool) (f : Nat → Word) : (w.putRow r p f).wl = w.wl := rfl
@[simp] theorem Wave.putRow_st (r : Nat) (p : Nat → Bool) (f : Nat → Word) : (w.putRow r p f).st = w.st := rfl
@[simp] theorem Wave.putRow_stOwed (r : Nat) (p : Nat → Bool) (f : Nat → Word) : (w.putRow r p f).stOwed = w.stOwed := rfl
@[simp] theorem Wave.putRow_ec (r : Nat) (p : Nat → Bool) (f : Nat → Word) : (w.putRow r p f).ec = w.ec := rfl
@[simp] theorem Wave.putRow_fl (r : Nat) (p : Nat → Bool) (f : Nat → Word) : (w.putRow r p f).fl = w.fl := rfl
@[simp] theorem Wave.putRow_inflight (r : Nat) (p : Nat → Bool) (f : Nat → Word) : (w.putRow r p f).inflight = w.inflight := rfl
@[simp] theorem Wave.putRow_faults (r : Nat) (p : Nat → Bool) (f : Nat → Word) : (w.putRow r p f).faults = w.faults := rfl
@[simp] theorem Wave.putRow_next (r : Nat) (p : Nat → Bool) (f : Nat → Word) : (w.putRow r p f).next = w.next := rfl
@[simp] theorem Wave.putRow_openBatch (r : Nat) (p : Nat → Bool) (f : Nat → Word) : (w.putRow r p f).openBatch = w.openBatch := rfl
@[simp] theorem Wave.putRow_sealed (r : Nat) (p : Nat → Bool) (f : Nat → Word) : (w.putRow r p f).sealed = w.sealed := rfl
@[simp] theorem Wave.putRow_arm (r : Nat) (p : Nat → Bool) (f : Nat → Word) : (w.putRow r p f).arm = w.arm := rfl
@[simp] theorem Wave.putRow_done (r : Nat) (p : Nat → Bool) (f : Nat → Word) : (w.putRow r p f).done = w.done := rfl
@[simp] theorem Wave.putRow_amx (r : Nat) (p : Nat → Bool) (f : Nat → Word) : (w.putRow r p f).amx = w.amx := rfl
@[simp] theorem Wave.putRow_buf (r : Nat) (p : Nat → Bool) (f : Nat → Word) : (w.putRow r p f).buf = w.buf := rfl
@[simp] theorem Wave.putRow_commitHeld (r : Nat) (p : Nat → Bool) (f : Nat → Word) : (w.putRow r p f).commitHeld = w.commitHeld := rfl
@[simp] theorem Wave.putRow_stopped (r : Nat) (p : Nat → Bool) (f : Nat → Word) : (w.putRow r p f).stopped = w.stopped := rfl
@[simp] theorem Wave.putRow_hold (r : Nat) (p : Nat → Bool) (f : Nat → Word) : (w.putRow r p f).hold = w.hold := rfl
@[simp] theorem Wave.putRow_tried (r : Nat) (p : Nat → Bool) (f : Nat → Word) : (w.putRow r p f).tried = w.tried := rfl
@[simp] theorem Wave.putRow_gphase (r : Nat) (p : Nat → Bool) (f : Nat → Word) : (w.putRow r p f).gphase = w.gphase := rfl
@[simp] theorem Wave.putRow_gArrived (r : Nat) (p : Nat → Bool) (f : Nat → Word) : (w.putRow r p f).gArrived = w.gArrived := rfl
@[simp] theorem Wave.putRow_active (r : Nat) (p : Nat → Bool) (f : Nat → Word) : (w.putRow r p f).active = w.active := rfl
@[simp] theorem Wave.putRow_age (r : Nat) (p : Nat → Bool) (f : Nat → Word) : (w.putRow r p f).age = w.age := rfl
@[simp] theorem Wave.putRow_waitFrom (r : Nat) (p : Nat → Bool) (f : Nat → Word) : (w.putRow r p f).waitFrom = w.waitFrom := rfl
@[simp] theorem Wave.putRow_badQ (r : Nat) (p : Nat → Bool) (f : Nat → Word) : (w.putRow r p f).badQ = w.badQ := rfl
@[simp] theorem Wave.putRow_badQSaved (r : Nat) (p : Nat → Bool) (f : Nat → Word) : (w.putRow r p f).badQSaved = w.badQSaved := rfl
@[simp] theorem Wave.putRow_trapCause (r : Nat) (p : Nat → Bool) (f : Nat → Word) : (w.putRow r p f).trapCause = w.trapCause := rfl
@[simp] theorem Wave.putRow_trapPc (r : Nat) (p : Nat → Bool) (f : Nat → Word) : (w.putRow r p f).trapPc = w.trapPc := rfl
@[simp] theorem Wave.putRow_exited (r : Nat) (p : Nat → Bool) (f : Nat → Word) : (w.putRow r p f).exited = w.exited := rfl
@[simp] theorem Wave.putRow_core (r : Nat) (p : Nat → Bool) (f : Nat → Word) : (w.putRow r p f).core = w.core := rfl
@[simp] theorem Wave.putRow_slot (r : Nat) (p : Nat → Bool) (f : Nat → Word) : (w.putRow r p f).slot = w.slot := rfl
@[simp] theorem Wave.putRow_wid (r : Nat) (p : Nat → Bool) (f : Nat → Word) : (w.putRow r p f).wid = w.wid := rfl
@[simp] theorem Wave.putRow_quant (r : Nat) (p : Nat → Bool) (f : Nat → Word) : (w.putRow r p f).quant = w.quant := rfl
@[simp] theorem Wave.putRow_qDue (r : Nat) (p : Nat → Bool) (f : Nat → Word) : (w.putRow r p f).qDue = w.qDue := rfl

@[simp] theorem Wave.dropLeave_pc : (w.dropLeave).pc = w.pc := rfl
@[simp] theorem Wave.dropLeave_wbase : (w.dropLeave).wbase = w.wbase := rfl
@[simp] theorem Wave.dropLeave_alloc : (w.dropLeave).alloc = w.alloc := rfl
@[simp] theorem Wave.dropLeave_v : (w.dropLeave).v = w.v := rfl
@[simp] theorem Wave.dropLeave_w : (w.dropLeave).w = w.w := rfl
@[simp] theorem Wave.dropLeave_fsr : (w.dropLeave).fsr = w.fsr := rfl
@[simp] theorem Wave.dropLeave_q : (w.dropLeave).q = w.q := rfl
@[simp] theorem Wave.dropLeave_qSaved : (w.dropLeave).qSaved = w.qSaved := rfl
@[simp] theorem Wave.dropLeave_count : (w.dropLeave).count = w.count := rfl
@[simp] theorem Wave.dropLeave_sup : (w.dropLeave).sup = w.sup := rfl
@[simp] theorem Wave.dropLeave_cause : (w.dropLeave).cause = w.cause := rfl
@[simp] theorem Wave.dropLeave_epcl : (w.dropLeave).epcl = w.epcl := rfl
@[simp] theorem Wave.dropLeave_epch : (w.dropLeave).epch = w.epch := rfl
@[simp] theorem Wave.dropLeave_tvecl : (w.dropLeave).tvecl = w.tvecl := rfl
@[simp] theorem Wave.dropLeave_tvech : (w.dropLeave).tvech = w.tvech := rfl
@[simp] theorem Wave.dropLeave_tvall : (w.dropLeave).tvall = w.tvall := rfl
@[simp] theorem Wave.dropLeave_tvalh : (w.dropLeave).tvalh = w.tvalh := rfl
@[simp] theorem Wave.dropLeave_tmask0 : (w.dropLeave).tmask0 = w.tmask0 := rfl
@[simp] theorem Wave.dropLeave_tmask1 : (w.dropLeave).tmask1 = w.tmask1 := rfl
@[simp] theorem Wave.dropLeave_tmask2 : (w.dropLeave).tmask2 = w.tmask2 := rfl
@[simp] theorem Wave.dropLeave_tlane : (w.dropLeave).tlane = w.tlane := rfl
@[simp] theorem Wave.dropLeave_ssc0 : (w.dropLeave).ssc0 = w.ssc0 := rfl
@[simp] theorem Wave.dropLeave_ssc1 : (w.dropLeave).ssc1 = w.ssc1 := rfl
@[simp] theorem Wave.dropLeave_tokens : (w.dropLeave).tokens = w.tokens := rfl
@[simp] theorem Wave.dropLeave_spilled : (w.dropLeave).spilled = w.spilled := rfl
@[simp] theorem Wave.dropLeave_entryDepth : (w.dropLeave).entryDepth = w.entryDepth := rfl
@[simp] theorem Wave.dropLeave_frame : (w.dropLeave).frame = w.frame := rfl
@[simp] theorem Wave.dropLeave_search : (w.dropLeave).search = w.search := rfl
@[simp] theorem Wave.dropLeave_vl : (w.dropLeave).vl = w.vl := rfl
@[simp] theorem Wave.dropLeave_wl : (w.dropLeave).wl = w.wl := rfl
@[simp] theorem Wave.dropLeave_st : (w.dropLeave).st = w.st := rfl
@[simp] theorem Wave.dropLeave_stOwed : (w.dropLeave).stOwed = w.stOwed := rfl
@[simp] theorem Wave.dropLeave_ec : (w.dropLeave).ec = w.ec := rfl
@[simp] theorem Wave.dropLeave_fl : (w.dropLeave).fl = w.fl := rfl
@[simp] theorem Wave.dropLeave_inflight : (w.dropLeave).inflight = w.inflight := rfl
@[simp] theorem Wave.dropLeave_faults : (w.dropLeave).faults = w.faults := rfl
@[simp] theorem Wave.dropLeave_next : (w.dropLeave).next = w.next := rfl
@[simp] theorem Wave.dropLeave_openBatch : (w.dropLeave).openBatch = w.openBatch := rfl
@[simp] theorem Wave.dropLeave_sealed : (w.dropLeave).sealed = w.sealed := rfl
@[simp] theorem Wave.dropLeave_arm : (w.dropLeave).arm = w.arm := rfl
@[simp] theorem Wave.dropLeave_done : (w.dropLeave).done = w.done := rfl
@[simp] theorem Wave.dropLeave_amx : (w.dropLeave).amx = w.amx := rfl
@[simp] theorem Wave.dropLeave_buf : (w.dropLeave).buf = w.buf := rfl
@[simp] theorem Wave.dropLeave_commitHeld : (w.dropLeave).commitHeld = w.commitHeld := rfl
@[simp] theorem Wave.dropLeave_stopped : (w.dropLeave).stopped = w.stopped := rfl
@[simp] theorem Wave.dropLeave_hold : (w.dropLeave).hold = w.hold := rfl
@[simp] theorem Wave.dropLeave_tried : (w.dropLeave).tried = w.tried := rfl
@[simp] theorem Wave.dropLeave_gphase : (w.dropLeave).gphase = w.gphase := rfl
@[simp] theorem Wave.dropLeave_gArrived : (w.dropLeave).gArrived = w.gArrived := rfl
@[simp] theorem Wave.dropLeave_active : (w.dropLeave).active = w.active := rfl
@[simp] theorem Wave.dropLeave_age : (w.dropLeave).age = w.age := rfl
@[simp] theorem Wave.dropLeave_waitFrom : (w.dropLeave).waitFrom = w.waitFrom := rfl
@[simp] theorem Wave.dropLeave_badRows : (w.dropLeave).badRows = w.badRows := rfl
@[simp] theorem Wave.dropLeave_badQ : (w.dropLeave).badQ = w.badQ := rfl
@[simp] theorem Wave.dropLeave_badQSaved : (w.dropLeave).badQSaved = w.badQSaved := rfl
@[simp] theorem Wave.dropLeave_trapCause : (w.dropLeave).trapCause = w.trapCause := rfl
@[simp] theorem Wave.dropLeave_trapPc : (w.dropLeave).trapPc = w.trapPc := rfl
@[simp] theorem Wave.dropLeave_exited : (w.dropLeave).exited = w.exited := rfl
@[simp] theorem Wave.dropLeave_core : (w.dropLeave).core = w.core := rfl
@[simp] theorem Wave.dropLeave_slot : (w.dropLeave).slot = w.slot := rfl
@[simp] theorem Wave.dropLeave_wid : (w.dropLeave).wid = w.wid := rfl
@[simp] theorem Wave.dropLeave_quant : (w.dropLeave).quant = w.quant := rfl
@[simp] theorem Wave.dropLeave_qDue : (w.dropLeave).qDue = w.qDue := rfl

@[simp] theorem Wave.retireTo_wbase (pc : BitVec 49) : (w.retireTo pc).wbase = w.wbase := by unfold Wave.retireTo; split <;> rfl
@[simp] theorem Wave.retireTo_alloc (pc : BitVec 49) : (w.retireTo pc).alloc = w.alloc := by unfold Wave.retireTo; split <;> rfl
@[simp] theorem Wave.retireTo_v (pc : BitVec 49) : (w.retireTo pc).v = w.v := by unfold Wave.retireTo; split <;> rfl
@[simp] theorem Wave.retireTo_w (pc : BitVec 49) : (w.retireTo pc).w = w.w := by unfold Wave.retireTo; split <;> rfl
@[simp] theorem Wave.retireTo_fsr (pc : BitVec 49) : (w.retireTo pc).fsr = w.fsr := by unfold Wave.retireTo; split <;> rfl
@[simp] theorem Wave.retireTo_q (pc : BitVec 49) : (w.retireTo pc).q = w.q := by unfold Wave.retireTo; split <;> rfl
@[simp] theorem Wave.retireTo_qSaved (pc : BitVec 49) : (w.retireTo pc).qSaved = w.qSaved := by unfold Wave.retireTo; split <;> rfl
@[simp] theorem Wave.retireTo_sup (pc : BitVec 49) : (w.retireTo pc).sup = w.sup := by unfold Wave.retireTo; split <;> rfl
@[simp] theorem Wave.retireTo_cause (pc : BitVec 49) : (w.retireTo pc).cause = w.cause := by unfold Wave.retireTo; split <;> rfl
@[simp] theorem Wave.retireTo_epcl (pc : BitVec 49) : (w.retireTo pc).epcl = w.epcl := by unfold Wave.retireTo; split <;> rfl
@[simp] theorem Wave.retireTo_epch (pc : BitVec 49) : (w.retireTo pc).epch = w.epch := by unfold Wave.retireTo; split <;> rfl
@[simp] theorem Wave.retireTo_tvecl (pc : BitVec 49) : (w.retireTo pc).tvecl = w.tvecl := by unfold Wave.retireTo; split <;> rfl
@[simp] theorem Wave.retireTo_tvech (pc : BitVec 49) : (w.retireTo pc).tvech = w.tvech := by unfold Wave.retireTo; split <;> rfl
@[simp] theorem Wave.retireTo_tvall (pc : BitVec 49) : (w.retireTo pc).tvall = w.tvall := by unfold Wave.retireTo; split <;> rfl
@[simp] theorem Wave.retireTo_tvalh (pc : BitVec 49) : (w.retireTo pc).tvalh = w.tvalh := by unfold Wave.retireTo; split <;> rfl
@[simp] theorem Wave.retireTo_tmask0 (pc : BitVec 49) : (w.retireTo pc).tmask0 = w.tmask0 := by unfold Wave.retireTo; split <;> rfl
@[simp] theorem Wave.retireTo_tmask1 (pc : BitVec 49) : (w.retireTo pc).tmask1 = w.tmask1 := by unfold Wave.retireTo; split <;> rfl
@[simp] theorem Wave.retireTo_tmask2 (pc : BitVec 49) : (w.retireTo pc).tmask2 = w.tmask2 := by unfold Wave.retireTo; split <;> rfl
@[simp] theorem Wave.retireTo_tlane (pc : BitVec 49) : (w.retireTo pc).tlane = w.tlane := by unfold Wave.retireTo; split <;> rfl
@[simp] theorem Wave.retireTo_ssc0 (pc : BitVec 49) : (w.retireTo pc).ssc0 = w.ssc0 := by unfold Wave.retireTo; split <;> rfl
@[simp] theorem Wave.retireTo_ssc1 (pc : BitVec 49) : (w.retireTo pc).ssc1 = w.ssc1 := by unfold Wave.retireTo; split <;> rfl
@[simp] theorem Wave.retireTo_lvCls (pc : BitVec 49) : (w.retireTo pc).lvCls = w.lvCls := by unfold Wave.retireTo; split <;> rfl
@[simp] theorem Wave.retireTo_lvGnt (pc : BitVec 49) : (w.retireTo pc).lvGnt = w.lvGnt := by unfold Wave.retireTo; split <;> rfl
@[simp] theorem Wave.retireTo_engCls (pc : BitVec 49) : (w.retireTo pc).engCls = w.engCls := by unfold Wave.retireTo; split <;> rfl
@[simp] theorem Wave.retireTo_engGnt (pc : BitVec 49) : (w.retireTo pc).engGnt = w.engGnt := by unfold Wave.retireTo; split <;> rfl
@[simp] theorem Wave.retireTo_tokens (pc : BitVec 49) : (w.retireTo pc).tokens = w.tokens := by unfold Wave.retireTo; split <;> rfl
@[simp] theorem Wave.retireTo_spilled (pc : BitVec 49) : (w.retireTo pc).spilled = w.spilled := by unfold Wave.retireTo; split <;> rfl
@[simp] theorem Wave.retireTo_entryDepth (pc : BitVec 49) : (w.retireTo pc).entryDepth = w.entryDepth := by unfold Wave.retireTo; split <;> rfl
@[simp] theorem Wave.retireTo_frame (pc : BitVec 49) : (w.retireTo pc).frame = w.frame := by unfold Wave.retireTo; split <;> rfl
@[simp] theorem Wave.retireTo_search (pc : BitVec 49) : (w.retireTo pc).search = w.search := by unfold Wave.retireTo; split <;> rfl
@[simp] theorem Wave.retireTo_vl (pc : BitVec 49) : (w.retireTo pc).vl = w.vl := by unfold Wave.retireTo; split <;> rfl
@[simp] theorem Wave.retireTo_wl (pc : BitVec 49) : (w.retireTo pc).wl = w.wl := by unfold Wave.retireTo; split <;> rfl
@[simp] theorem Wave.retireTo_st (pc : BitVec 49) : (w.retireTo pc).st = w.st := by unfold Wave.retireTo; split <;> rfl
@[simp] theorem Wave.retireTo_stOwed (pc : BitVec 49) : (w.retireTo pc).stOwed = w.stOwed := by unfold Wave.retireTo; split <;> rfl
@[simp] theorem Wave.retireTo_ec (pc : BitVec 49) : (w.retireTo pc).ec = w.ec := by unfold Wave.retireTo; split <;> rfl
@[simp] theorem Wave.retireTo_fl (pc : BitVec 49) : (w.retireTo pc).fl = w.fl := by unfold Wave.retireTo; split <;> rfl
@[simp] theorem Wave.retireTo_inflight (pc : BitVec 49) : (w.retireTo pc).inflight = w.inflight := by unfold Wave.retireTo; split <;> rfl
@[simp] theorem Wave.retireTo_faults (pc : BitVec 49) : (w.retireTo pc).faults = w.faults := by unfold Wave.retireTo; split <;> rfl
@[simp] theorem Wave.retireTo_next (pc : BitVec 49) : (w.retireTo pc).next = w.next := by unfold Wave.retireTo; split <;> rfl
@[simp] theorem Wave.retireTo_openBatch (pc : BitVec 49) : (w.retireTo pc).openBatch = w.openBatch := by unfold Wave.retireTo; split <;> rfl
@[simp] theorem Wave.retireTo_sealed (pc : BitVec 49) : (w.retireTo pc).sealed = w.sealed := by unfold Wave.retireTo; split <;> rfl
@[simp] theorem Wave.retireTo_arm (pc : BitVec 49) : (w.retireTo pc).arm = w.arm := by unfold Wave.retireTo; split <;> rfl
@[simp] theorem Wave.retireTo_done (pc : BitVec 49) : (w.retireTo pc).done = w.done := by unfold Wave.retireTo; split <;> rfl
@[simp] theorem Wave.retireTo_amx (pc : BitVec 49) : (w.retireTo pc).amx = w.amx := by unfold Wave.retireTo; split <;> rfl
@[simp] theorem Wave.retireTo_buf (pc : BitVec 49) : (w.retireTo pc).buf = w.buf := by unfold Wave.retireTo; split <;> rfl
@[simp] theorem Wave.retireTo_commitHeld (pc : BitVec 49) : (w.retireTo pc).commitHeld = w.commitHeld := by unfold Wave.retireTo; split <;> rfl
@[simp] theorem Wave.retireTo_stopped (pc : BitVec 49) : (w.retireTo pc).stopped = w.stopped := by unfold Wave.retireTo; split <;> rfl
@[simp] theorem Wave.retireTo_tried (pc : BitVec 49) : (w.retireTo pc).tried = w.tried := by unfold Wave.retireTo; split <;> rfl
@[simp] theorem Wave.retireTo_gphase (pc : BitVec 49) : (w.retireTo pc).gphase = w.gphase := by unfold Wave.retireTo; split <;> rfl
@[simp] theorem Wave.retireTo_gArrived (pc : BitVec 49) : (w.retireTo pc).gArrived = w.gArrived := by unfold Wave.retireTo; split <;> rfl
@[simp] theorem Wave.retireTo_active (pc : BitVec 49) : (w.retireTo pc).active = w.active := by unfold Wave.retireTo; split <;> rfl
@[simp] theorem Wave.retireTo_age (pc : BitVec 49) : (w.retireTo pc).age = w.age := by unfold Wave.retireTo; split <;> rfl
@[simp] theorem Wave.retireTo_waitFrom (pc : BitVec 49) : (w.retireTo pc).waitFrom = w.waitFrom := by unfold Wave.retireTo; split <;> rfl
@[simp] theorem Wave.retireTo_badRows (pc : BitVec 49) : (w.retireTo pc).badRows = w.badRows := by unfold Wave.retireTo; split <;> rfl
@[simp] theorem Wave.retireTo_badQ (pc : BitVec 49) : (w.retireTo pc).badQ = w.badQ := by unfold Wave.retireTo; split <;> rfl
@[simp] theorem Wave.retireTo_badQSaved (pc : BitVec 49) : (w.retireTo pc).badQSaved = w.badQSaved := by unfold Wave.retireTo; split <;> rfl
@[simp] theorem Wave.retireTo_trapCause (pc : BitVec 49) : (w.retireTo pc).trapCause = w.trapCause := by unfold Wave.retireTo; split <;> rfl
@[simp] theorem Wave.retireTo_trapPc (pc : BitVec 49) : (w.retireTo pc).trapPc = w.trapPc := by unfold Wave.retireTo; split <;> rfl
@[simp] theorem Wave.retireTo_exited (pc : BitVec 49) : (w.retireTo pc).exited = w.exited := by unfold Wave.retireTo; split <;> rfl
@[simp] theorem Wave.retireTo_core (pc : BitVec 49) : (w.retireTo pc).core = w.core := by unfold Wave.retireTo; split <;> rfl
@[simp] theorem Wave.retireTo_slot (pc : BitVec 49) : (w.retireTo pc).slot = w.slot := by unfold Wave.retireTo; split <;> rfl
@[simp] theorem Wave.retireTo_wid (pc : BitVec 49) : (w.retireTo pc).wid = w.wid := by unfold Wave.retireTo; split <;> rfl
@[simp] theorem Wave.retireTo_quant (pc : BitVec 49) : (w.retireTo pc).quant = w.quant := by unfold Wave.retireTo; split <;> rfl

@[simp] theorem Wave.retireTo_pc (pc : BitVec 49) : (w.retireTo pc).pc = pc := by unfold Wave.retireTo; split <;> rfl
@[simp] theorem Wave.retireTo_hold (pc : BitVec 49) : (w.retireTo pc).hold = none := by unfold Wave.retireTo; split <;> rfl
@[simp] theorem Wave.retireTo_count (pc : BitVec 49) : (w.retireTo pc).count = if w.sup then w.count else w.count + 1 := by
  unfold Wave.retireTo; split <;> rfl
@[simp] theorem Wave.retireTo_qDue (pc : BitVec 49) :
    (w.retireTo pc).qDue = if w.sup then w.qDue else (w.qDue || (w.det && (w.count + 1).toNat % w.quant == 0)) := by
  unfold Wave.retireTo; split <;> rfl

end Wave

end Sys2Proof.Machine
end

