-- ==== Sys2Proof/Laws/Store.lean ====
section
/-! SUPPORT. Reading after writing: association lists, lists by position, and byte memory, whose canonical form every operation keeps. -/

namespace Sys2Proof.Machine

/-- The value under a key after the value under another, or the same, is replaced. -/
theorem aget_aput [DecidableEq κ] (m : List (κ × α)) (k j : κ) (v : α) :
    aget (aput m k v) j = if k = j then some v else aget m j := by
  induction m with
  | nil => simp [aput, aget]
  | cons p m ih =>
    simp only [aput]
    by_cases h : p.1 = k
    · subst h; by_cases hj : p.1 = j <;> simp [aget, hj]
    · by_cases hj : p.1 = j
      · subst hj; simp [aget, h, Ne.symm h]
      · simp [aget, h, hj, ih]

@[simp] theorem aget_aput_same [DecidableEq κ] (m : List (κ × α)) (k : κ) (v : α) : aget (aput m k v) k = some v := by
  simp [aget_aput]

theorem aget_aput_ne [DecidableEq κ] (m : List (κ × α)) {k j : κ} (v : α) (h : k ≠ j) : aget (aput m k v) j = aget m j := by
  simp [aget_aput, h]

/-- The value under a key after a key is removed. -/
theorem aget_adel [DecidableEq κ] (m : List (κ × α)) (k j : κ) : aget (adel m k) j = if k = j then none else aget m j := by
  induction m with
  | nil => simp [adel, aget]
  | cons p m ih =>
    unfold adel at ih ⊢
    by_cases h : p.1 = k
    · subst h; by_cases hj : p.1 = j <;> simp_all [aget]
    · by_cases hj : p.1 = j
      · subst hj; simp [aget, h, Ne.symm h]
      · simp_all [aget]

/-- What a key holds stands in the list. -/
theorem mem_of_aget [DecidableEq κ] {m : List (κ × α)} {k : κ} {v : α} (h : aget m k = some v) : (k, v) ∈ m := by
  induction m with
  | nil => simp [aget] at h
  | cons p m ih =>
    unfold aget at h; split at h
    · next hk => obtain rfl := hk; obtain rfl := Option.some.inj h; simp
    · simp [ih h]

/-- An entry of a list after a replacement is the new one or an old one. -/
theorem mem_aput [DecidableEq κ] {m : List (κ × α)} {k : κ} {v : α} {p : κ × α} (h : p ∈ aput m k v) : p = (k, v) ∨ p ∈ m := by
  induction m with
  | nil => simpa [aput] using h
  | cons q m ih =>
    simp only [aput] at h; split at h <;> simp only [List.mem_cons] at h ⊢
    · tauto
    · rcases h with h | h
      · tauto
      · have := ih h; tauto

/-- Entry `m` of a list after entry `n` is replaced. -/
theorem getD_setAt (z : α) (l : List α) (n m : Nat) (x : α) : (setAt z l n x).getD m z = if n = m then x else l.getD m z := by
  induction n generalizing l m with
  | zero => cases l <;> cases m <;> simp [setAt]
  | succ n ih => cases l <;> cases m <;> simp_all [setAt]

@[simp] theorem getD_setAt_same (z : α) (l : List α) (n : Nat) (x : α) : (setAt z l n x).getD n z = x := by rw [getD_setAt, if_pos rfl]

theorem getD_setAt_ne (z : α) (l : List α) {n m : Nat} (x : α) (h : n ≠ m) : (setAt z l n x).getD m z = l.getD m z := by
  rw [getD_setAt, if_neg h]

/-- Entry `i` of a table. -/
theorem getD_tab (n i : Nat) (f : Nat → α) (z : α) : (tab n f).getD i z = if i < n then f i else z := by
  unfold tab; by_cases h : i < n <;> simp [List.getD, h]

@[simp] theorem length_tab (n : Nat) (f : Nat → α) : (tab n f).length = n := by simp [tab]

/-! ### Byte memory -/

/-- Nothing stands at an address below a bound. -/
theorem Mem.get_below {lo a : Nat} {m : Mem} (h : m.wfFrom (some lo) = true) (ha : a ≤ lo) : m.get a = unwritten := by
  cases m with
  | nil => rfl
  | cons p m =>
    simp only [wfFrom, Bool.and_eq_true, decide_eq_true_eq] at h
    simp only [get]; rw [if_pos (by omega)]

theorem Mem.wfFrom_cons (lo : Option Nat) (k : Nat) (v : Byte) (m : Mem) :
    Mem.wfFrom lo ((k, v) :: m) = true ↔ (∀ l, lo = some l → l < k) ∧ v ≠ unwritten ∧ m.wfFrom (some k) = true := by
  cases lo <;> simp [wfFrom, and_assoc]

theorem Mem.wfFrom_set {m : Mem} {lo : Option Nat} {a : Nat} {b : Byte} (h : m.wfFrom lo = true) (ha : ∀ l, lo = some l → l < a) :
    (m.set a b).wfFrom lo = true := by
  induction m generalizing lo with
  | nil =>
    unfold set; split
    · rfl
    · next hb => rw [wfFrom_cons]; exact ⟨ha, hb, rfl⟩
  | cons p m ih =>
    obtain ⟨k, v⟩ := p
    obtain ⟨hk, hv, hm⟩ := (wfFrom_cons ..).1 h
    unfold set; split
    · next hlt =>
      split
      · exact h
      · next hb => rw [wfFrom_cons, wfFrom_cons]; exact ⟨ha, hb, by intro l hl; cases hl; exact hlt, hv, hm⟩
    · next hge =>
      split
      · next he =>
        subst he
        split
        · cases m with
          | nil => rfl
          | cons q m =>
            obtain ⟨h1, h2, h3⟩ := (wfFrom_cons ..).1 hm
            exact (wfFrom_cons ..).2 ⟨fun l hl => Nat.lt_trans (ha l hl) (h1 _ rfl), h2, h3⟩
        · next hb => exact (wfFrom_cons ..).2 ⟨ha, hb, hm⟩
      · next hne => exact (wfFrom_cons ..).2 ⟨hk, hv, ih hm (by intro l hl; cases hl; omega)⟩

/-- Writing one byte keeps the canonical form. -/
theorem Mem.wf_set {m : Mem} (h : m.wf = true) (a : Nat) (b : Byte) : (m.set a b).wf = true :=
  wfFrom_set h (by intro l hl; cases hl)

/-- Writing bytes keeps the canonical form. -/
theorem Mem.wf_write {m : Mem} (h : m.wf = true) (a : Nat) (bs : List Byte) : (m.write a bs).wf = true := by
  induction bs generalizing m a with
  | nil => exact h
  | cons b bs ih => exact ih (wf_set h a b) (a + 1)

/-- Writing a list of bytes, each at its address, keeps the canonical form. -/
theorem Mem.wf_foldl_set {m : Mem} (h : m.wf = true) (f : α → Nat) (g : α → Byte) (ws : List α) :
    (ws.foldl (fun m p => Mem.set m (f p) (g p)) m).wf = true := by
  induction ws generalizing m with
  | nil => exact h
  | cons p ws ih => exact ih (wf_set h _ _)

@[simp] theorem Mem.wf_nil : Mem.wf [] = true := rfl

theorem Mem.get_set_from {m : Mem} {lo : Option Nat} (h : m.wfFrom lo = true) (a x : Nat) (b : Byte) :
    (m.set a b).get x = if a = x then b else m.get x := by
  induction m generalizing lo with
  | nil =>
    unfold set; split
    · next hb => by_cases hx : a = x <;> simp [get, hb, hx]
    · by_cases hx : a = x
      · subst hx; simp [get]
      · by_cases hl : x < a <;> simp [get, hx, hl, Ne.symm hx]
  | cons p m ih =>
    obtain ⟨k, v⟩ := p
    have hm : wfFrom (some k) m = true := by simp only [wfFrom, Bool.and_eq_true] at h; exact h.2
    unfold set; split
    · next hlt =>
      split
      · next hb =>
        by_cases hx : a = x
        · subst hx; simp [get, hlt, hb]
        · simp [hx]
      · by_cases hx : a = x
        · subst hx; simp [get]
        · by_cases hl : x < a
          · simp [get, hx, hl, show x < k by omega]
          · simp [get, hx, hl, Ne.symm hx]
    · next hge =>
      split
      · next he =>
        subst he
        split
        · next hb =>
          by_cases hx : a = x
          · subst hx; rw [if_pos rfl, hb]; exact get_below hm (Nat.le_refl _)
          · by_cases hl : x < a
            · rw [if_neg hx, get_below hm (by omega)]; simp [get, hl]
            · simp [get, hx, hl, Ne.symm hx]
        · by_cases hx : a = x
          · subst hx; simp [get]
          · by_cases hl : x < a <;> simp [get, hx, hl, Ne.symm hx]
      · next hne =>
        by_cases hl : x < k
        · simp [get, hl, show a ≠ x by omega]
        · by_cases hk : x = k
          · subst hk; simp [get, hne]
          · simp [get, hl, hk, ih hm]

/-- Reading one byte after writing one. -/
theorem Mem.get_set {m : Mem} (h : m.wf = true) (a x : Nat) (b : Byte) : (m.set a b).get x = if a = x then b else m.get x :=
  get_set_from h a x b

/-- Reading one byte after writing a run of bytes. -/
theorem Mem.get_write {m : Mem} (h : m.wf = true) (a x : Nat) (bs : List Byte) :
    (m.write a bs).get x = if a ≤ x ∧ x < a + bs.length then bs.getD (x - a) 0 else m.get x := by
  induction bs generalizing m a with
  | nil => rw [if_neg (by simp only [List.length_nil]; omega)]; rfl
  | cons b bs ih =>
    unfold write
    rw [ih (wf_set h a b), get_set h]
    simp only [List.length_cons]
    by_cases h1 : a = x
    · subst h1; rw [if_neg (by omega), if_pos rfl, if_pos (by omega)]; simp
    · by_cases h2 : a + 1 ≤ x ∧ x < a + 1 + bs.length
      · rw [if_pos h2, if_pos (by omega), show x - a = (x - (a + 1)) + 1 by omega]; simp
      · rw [if_neg h2, if_neg h1, if_neg (by omega)]

end Sys2Proof.Machine
end

