-- ==== Sys2Proof/Laws/Cache.lean ====
section
/-! SUPPORT. What an acquire, a release at `cr` and a shootdown can do, and what they leave alone. -/

namespace Sys2Proof.Machine

/-- An acquire changes caches only (R263). -/
structure State.CachesOnly (s t : State) : Prop where
  waves : t.waves = s.waves
  crews : t.crews = s.crews
  grids : t.grids = s.grids
  hbm : t.hbm = s.hbm
  sysMem : t.sysMem = s.sysMem
  llc : t.llc = s.llc
  sc : t.sc = s.sc

theorem State.acquire_cachesOnly (s : State) (core lvl : Nat) : s.CachesOnly (s.acquire core lvl) := by
  unfold State.acquire
  dsimp only
  split
  · exact ⟨rfl, rfl, rfl, rfl, rfl, rfl, rfl⟩
  · split <;> exact ⟨rfl, rfl, rfl, rfl, rfl, rfl, rfl⟩

/-- An acquire at `cr` or wider leaves in its core's L1 the dirty bytes of the dirty lines, and nothing else (R255). -/
theorem State.l1_acquire (s : State) (core lvl : Nat) (h : lvl ≠ 0) : ((s.acquire core lvl).coreOf core).l1 =
    ((s.coreOf core).l1.filter (fun p => p.2.isDirty)).map (fun p => (p.1, p.2.dirtyOnly)) := by
  have key : ∀ t : State, t.cores = (s.modCore core (fun k =>
      { k with l1 := (k.l1.filter (fun p => p.2.isDirty)).map (fun p => (p.1, p.2.dirtyOnly)) })).cores →
      (t.coreOf core).l1 = ((s.coreOf core).l1.filter (fun p => p.2.isDirty)).map (fun p => (p.1, p.2.dirtyOnly)) := by
    intro t ht
    unfold State.coreOf at *
    rw [ht]
    simp [State.modCore, State.setCore, State.coreOf]
  unfold State.acquire
  dsimp only
  rw [if_neg h]
  split <;> exact key _ rfl

/-- A release whose core holds no dirty line does nothing to the state, below `sy` (R231, log 9). -/
theorem State.writeDown_clean (s : State) (id : WaveId) (core lvl : Nat) (h : s.dirtyLines core lvl = []) (hl : lvl ≠ 4) :
    s.writeDown id core lvl = (s, none) := by
  unfold State.writeDown; simp [h, hl]
theorem State.release_clean (s : State) (lvl : Nat) (go : State → State) (h : s.dirtyLines s.w.core lvl = []) (hl : lvl ≠ 4) :
    s.release lvl go = go s := by
  unfold State.release; rw [State.writeDown_clean s _ _ _ h hl]

/-- After a shootdown no core, gang or walker cache holds a translation of the context (R391, R393). -/
theorem State.shoot_forgets (s : State) (ctx : Nat) :
    (∀ k ∈ (s.shoot ctx).cores, ∀ e ∈ k.2.tlb, e.ctx ≠ ctx) ∧ (∀ k ∈ (s.shoot ctx).gangTlb, ∀ e ∈ k.2, e.ctx ≠ ctx) ∧
      ∀ k ∈ (s.shoot ctx).walkTlb, ∀ e ∈ k.2, e.ctx ≠ ctx := by
  refine ⟨?_, ?_, ?_⟩ <;>
  · intro k hk e he
    simp only [State.shoot, List.mem_map] at hk
    obtain ⟨p, -, rfl⟩ := hk
    simpa using (List.mem_filter.mp he).2

end Sys2Proof.Machine
end

