-- ==== Sys2Proof/Laws/Operands.lean ====
section
/-! SUPPORT. What each shared operation over the executing wave does: naming a part of the state, destinations with their latches,
retirement, the checks at issue, and the ends of integer and floating-point instructions. -/

namespace Sys2Proof.Machine

/-! ### Naming a part of the state -/

@[simp] theorem State.wv_setWv (s : State) (i j : WaveId) (w : Wave) : (s.setWv i w).wv j = if i = j then w else s.wv j := by
  simp only [State.wv, State.setWv, aget_aput]; split <;> rfl

@[simp] theorem State.w_setW (s : State) (w : Wave) : (s.setW w).w = w := by
  show (s.setWv s.cur w).wv s.cur = w; simp

@[simp] theorem State.setWv_setWv (s : State) (i : WaveId) (w x : Wave) : (s.setWv i w).setWv i x = s.setWv i x := by
  have aput_aput : ∀ m : List (WaveId × Wave), aput (aput m i w) i x = aput m i x := by
    intro m; induction m with
    | nil => simp [aput]
    | cons p m ih => by_cases h : p.1 = i <;> simp [aput, h, ih]
  simp [State.setWv, aput_aput]

@[simp] theorem State.setW_setW (s : State) (w x : Wave) : (s.setW w).setW x = s.setW x :=
  State.setWv_setWv s s.cur w x

theorem State.modW_eq (s : State) (f : Wave → Wave) : s.modW f = s.setW (f s.w) := rfl

@[simp] theorem State.w_modW (s : State) (f : Wave → Wave) : (s.modW f).w = f s.w := by simp [State.modW_eq]

@[simp] theorem State.modW_modW (s : State) (f g : Wave → Wave) : (s.modW f).modW g = s.setW (g (f s.w)) := by simp [State.modW_eq]

@[simp] theorem State.modW_setW (s : State) (w : Wave) (g : Wave → Wave) : (s.setW w).modW g = s.setW (g w) := by simp [State.modW_eq]

@[simp] theorem State.crewOf_setCrew (s : State) (i j : CrewId) (x : Crew) :
    (s.setCrew i x).crewOf j = if i = j then x else s.crewOf j := by
  simp only [State.crewOf, State.setCrew, aget_aput]; split <;> rfl

@[simp] theorem State.coreOf_setCore (s : State) (i j : Nat) (x : Core) :
    (s.setCore i x).coreOf j = if i = j then x else s.coreOf j := by
  simp only [State.coreOf, State.setCore, aget_aput]; split <;> rfl

@[simp] theorem State.gridOf_setGrid (s : State) (i j : Nat) (x : Grid) :
    (s.setGrid i x).gridOf j = if i = j then x else s.gridOf j := by
  simp only [State.gridOf, State.setGrid, aget_aput]; split <;> rfl

@[simp] theorem State.ctxOf_setCtx (s : State) (i j : Nat) (x : Ctx) :
    (s.setCtx i x).ctxOf j = if i = j then x else s.ctxOf j := by
  simp only [State.ctxOf, State.setCtx, aget_aput]; split <;> rfl

@[simp] theorem State.wv_setCrew (s : State) (c : CrewId) (x : Crew) (i : WaveId) : (s.setCrew c x).wv i = s.wv i := rfl
@[simp] theorem State.wv_setCore (s : State) (c : Nat) (x : Core) (i : WaveId) : (s.setCore c x).wv i = s.wv i := rfl
@[simp] theorem State.wv_setGrid (s : State) (g : Nat) (x : Grid) (i : WaveId) : (s.setGrid g x).wv i = s.wv i := rfl
@[simp] theorem State.crewOf_setWv (s : State) (i : WaveId) (w : Wave) (c : CrewId) : (s.setWv i w).crewOf c = s.crewOf c := rfl
@[simp] theorem State.coreOf_setWv (s : State) (i : WaveId) (w : Wave) (c : Nat) : (s.setWv i w).coreOf c = s.coreOf c := rfl
@[simp] theorem State.gridOf_setWv (s : State) (i : WaveId) (w : Wave) (g : Nat) : (s.setWv i w).gridOf g = s.gridOf g := rfl
@[simp] theorem State.crewId_setWv (s : State) (i j : WaveId) (w : Wave) : (s.setWv i w).crewId j = s.crewId j := rfl

/-! ### Destinations -/

theorem Wave.wr_setWr (w : Wave) (n m : Nat) (x : Word) : (w.setWr n x).wr m = if n = m then x else w.wr m :=
  getD_setAt 0 w.w n m x

theorem Row.at_tab (f : Nat → Word) {t : Nat} (h : t < threads) : Row.at (tab threads f) t = f t := by
  unfold Row.at; rw [getD_tab, if_pos h]

theorem Row.at_replicate (x : Word) {t : Nat} (h : t < threads) : Row.at (List.replicate threads x) t = x := by
  unfold Row.at; rw [List.getD_eq_getElem?_getD, List.getElem?_replicate, if_pos h]; rfl

theorem Wave.cell_putRow (w : Wave) (r : Nat) (p : Nat → Bool) (f : Nat → Word) (k t : Nat) (h : t < threads) :
    (w.putRow r p f).cell k t = if k = w.wbase + r ∧ p t = true then f t else w.cell k t := by
  unfold Wave.cell
  show Row.at ((setAt [] w.v (w.wbase + r) _).getD k []) t = _
  rw [getD_setAt]
  by_cases hk : w.wbase + r = k
  · subst hk; rw [if_pos rfl, Row.at_tab _ h]; by_cases hp : p t <;> simp [hp]
  · rw [if_neg hk, if_neg (by rintro ⟨rfl, -⟩; exact hk rfl)]

theorem Wave.shifted_shiftQ (w : Wave) (r : Row) : w.Shifted (w.shiftQ r) (fun t => r.at t) where
  first := fun _ _ => rfl
  rest := by
    intro k t hk
    unfold Wave.latch Wave.shiftQ
    simp only [List.getD_cons_succ]
    rw [List.getD_eq_getElem?_getD, List.getElem?_take, if_pos hk, List.getD_eq_getElem?_getD]
  errors := rfl

/-- A row written in the window unless NW. -/
theorem Wave.rowSet_out (w : Wave) (d : Code) (nw : Bool) (f : Nat → Word) :
    w.RowSet (if nw then w else w.putRow d.toNat w.act f) (!nw) d.toNat f := by
  cases nw
  · refine ⟨fun k t h => ?_, rfl⟩
    simp only [Bool.false_eq_true, if_false, Bool.not_false, true_and]
    exact w.cell_putRow _ _ _ _ _ h
  · exact ⟨fun k t _ => by simp, rfl⟩

theorem Wave.out32_eq (w : Wave) (d : Code) (nw : Bool) (f : Nat → Word) :
    ∃ v b, w.out32 d nw f = ({ w with v := v, badRows := b } : Wave).shiftQ (w.lrow f)
      ∧ w.RowSet { w with v := v, badRows := b } (!nw) d.toNat f := by
  have h := w.rowSet_out d nw f
  cases nw
  · exact ⟨_, _, rfl, h⟩
  · exact ⟨w.v, w.badRows, rfl, h⟩

theorem Wave.act_of_regs {w x : Wave} (h : x.w = w.w) (t : Nat) : x.act t = w.act t := by
  unfold Wave.act Wave.bit3 Wave.wr; rw [h]

/-- A wave whose mode, count and quantum are those of `w` retires as `w` does. -/
theorem Wave.retired_of {w y : Wave} (pc : BitVec 49) (h : y.sup = w.sup ∧ y.count = w.count ∧ y.quant = w.quant ∧ y.qDue = w.qDue) :
    w.Retired (y.retireTo pc) pc := by
  obtain ⟨h1, h2, h3, h4⟩ := h
  refine ⟨y.retireTo_pc pc, ?_, y.retireTo_hold pc, ?_⟩
  · rw [Wave.retireTo_count, h1, h2]
  · rw [Wave.retireTo_qDue, h1, h2, h4, show y.det = w.det by unfold Wave.det; rw [h3], h3]; cases w.sup <;> simp

theorem Wave.retired_retireTo (w : Wave) (pc : BitVec 49) : w.Retired (w.retireTo pc) pc := by
  exact Wave.retired_of pc ⟨rfl, rfl, rfl, rfl⟩

/-- An instruction that writes a row. -/
theorem Wave.out32_retire (w : Wave) (d : Code) (nw : Bool) (f : Nat → Word) (n : Nat) :
    w.Retired ((w.out32 d nw f).retire n) (w.past n) ∧ w.RowSet ((w.out32 d nw f).retire n) (!nw) d.toNat f
      ∧ w.Shifted ((w.out32 d nw f).retire n) (fun t => if w.act t then f t else 0) ∧ w.OnlyRows ((w.out32 d nw f).retire n) := by
  obtain ⟨v, b, he, hr⟩ := w.out32_eq d nw f
  rw [he]
  have hs := Wave.shifted_shiftQ { w with v := v, badRows := b } (w.lrow f)
  unfold Wave.retire
  refine ⟨?_, ⟨?_, ?_⟩, ⟨?_, ?_, ?_⟩, ?_⟩
  · exact Wave.retired_of _ ⟨rfl, rfl, rfl, rfl⟩
  · intro k t h
    have := hr.cells k t h
    simp only [Wave.cell, Wave.retireTo_v, Wave.shiftQ_v] at this ⊢; exact this
  · have := hr.errors; simpa using this
  · intro t h
    simp only [Wave.latch, Wave.retireTo_q]
    exact Row.at_tab (fun t => if w.act t then _ else 0) h
  · intro k t h
    have := hs.rest k t h
    simp only [Wave.latch, Wave.retireTo_q] at this ⊢; exact this
  · simp only [Wave.retireTo_badQ]; rfl
  · unfold Wave.retireTo; split <;> rfl

/-- An instruction that writes a pair. -/
theorem Wave.out64_retire (w : Wave) (d : Code) (f : Nat → BitVec 64) :
    w.Retired ((w.out64 d f).retire) w.past ∧ w.PairSet ((w.out64 d f).retire) d.toNat f
      ∧ w.Shifted ((w.out64 d f).retire) (fun t => if w.act t then (f t).extractLsb' 0 32 else 0) ∧ w.OnlyRows ((w.out64 d f).retire) := by
  unfold Wave.retire Wave.out64
  refine ⟨?_, ⟨?_, ?_⟩, ⟨?_, ?_, ?_⟩, ?_⟩
  · exact Wave.retired_of _ ⟨rfl, rfl, rfl, rfl⟩
  · intro k t h
    have h2 := Wave.cell_putRow (w.putRow d.toNat w.act (fun t => (f t).extractLsb' 0 32)) (d.toNat + 1) w.act
      (fun t => (f t).extractLsb' 32 32) k t h
    have h1 := w.cell_putRow d.toNat w.act (fun t => (f t).extractLsb' 0 32) k t h
    simp only [Wave.cell, Wave.retireTo_v, Wave.shiftQ_v] at h1 h2 ⊢
    rw [h2, h1]
    simp only [Wave.putRow_wbase]
    by_cases ha : w.act t <;> simp only [ha, and_true, and_false, true_and, false_and, if_false, Bool.false_eq_true]
    by_cases hk : k = w.wbase + d.toNat
    · simp [hk]
    · simp [hk, Nat.add_assoc]
  · simp only [Wave.retireTo_badRows, Wave.shiftQ_badRows]
    show (w.badRows.filter _).filter _ = _
    rw [List.filter_filter]; congr 1; funext k
    simp only [Wave.putRow_wbase, ← Nat.add_assoc, ne_eq, decide_not]
    rw [Bool.decide_and, decide_not, decide_not, Bool.and_comm]
  · intro t h
    simp only [Wave.latch, Wave.retireTo_q]
    exact Row.at_tab (fun t => if w.act t then (f t).extractLsb' 0 32 else 0) h
  · intro k t h
    have := (Wave.shifted_shiftQ ((w.putRow d.toNat w.act (fun t => (f t).extractLsb' 0 32)).putRow (d.toNat + 1) w.act
      (fun t => (f t).extractLsb' 32 32)) (w.lrow (fun t => (f t).extractLsb' 0 32))).rest k t h
    simp only [Wave.latch, Wave.retireTo_q] at this ⊢; exact this
  · simp only [Wave.retireTo_badQ]; rfl
  · unfold Wave.retireTo; split <;> rfl

/-- An instruction that writes a wave register. -/
theorem Wave.outW_retire (w : Wave) (d : Code) (nw : Bool) (v : Word) (n : Nat) :
    w.Retired ((w.outW d nw v).retire n) (w.past n) ∧ w.RegSet ((w.outW d nw v).retire n) (!nw) d.toNat v
      ∧ w.Shifted ((w.outW d nw v).retire n) (fun _ => v) ∧ w.OnlyRegs ((w.outW d nw v).retire n) := by
  have hx : ∃ l, w.outW d nw v = ({ w with w := l } : Wave).shiftQ (List.replicate threads v)
      ∧ w.RegSet { w with w := l } (!nw) d.toNat v := by
    cases nw
    · refine ⟨_, rfl, fun m => ?_⟩
      rw [show (Wave.wr { w with w := setAt 0 w.w d.toNat v } m) = (w.setWr d.toNat v).wr m from rfl, Wave.wr_setWr]
      by_cases h : d.toNat = m
      · subst h; simp
      · rw [if_neg h, if_neg (by rintro ⟨-, rfl⟩; exact h rfl)]
    · exact ⟨w.w, rfl, fun m => by simp⟩
  obtain ⟨l, he, hr⟩ := hx
  rw [he]
  unfold Wave.retire
  refine ⟨?_, ?_, ⟨?_, ?_, ?_⟩, ?_⟩
  · exact Wave.retired_of _ ⟨rfl, rfl, rfl, rfl⟩
  · intro m
    have := hr m
    simp only [Wave.wr, Wave.retireTo_w, Wave.shiftQ_w] at this ⊢; exact this
  · intro t h
    simp only [Wave.latch, Wave.retireTo_q]
    exact Row.at_replicate _ h
  · intro k t h
    have := (Wave.shifted_shiftQ { w with w := l } (List.replicate threads v)).rest k t h
    simp only [Wave.latch, Wave.retireTo_q] at this ⊢; exact this
  · simp only [Wave.retireTo_badQ]; rfl
  · unfold Wave.retireTo; split <;> rfl

theorem Wave.wr_setWr2 (w : Wave) (n m : Nat) (x : BitVec 64) :
    (w.setWr2 n x).wr m = if m = n then x.extractLsb' 0 32 else if m = n + 1 then x.extractLsb' 32 32 else w.wr m := by
  unfold Wave.setWr2
  rw [Wave.wr_setWr, Wave.wr_setWr]
  by_cases h1 : m = n
  · subst h1; simp
  · by_cases h2 : m = n + 1
    · subst h2; simp
    · simp [h1, h2, Ne.symm h1, Ne.symm h2]

/-- An instruction that writes a wave pair. -/
theorem Wave.outW2_retire (w : Wave) (d : Code) (v : BitVec 64) :
    w.Retired ((w.outW2 d v).retire) w.past ∧ w.RegPairSet ((w.outW2 d v).retire) d.toNat v
      ∧ w.Shifted ((w.outW2 d v).retire) (fun _ => v.extractLsb' 0 32) ∧ w.OnlyRegs ((w.outW2 d v).retire) := by
  unfold Wave.retire Wave.outW2
  refine ⟨?_, ?_, ⟨?_, ?_, ?_⟩, ?_⟩
  · exact Wave.retired_of _ ⟨rfl, rfl, rfl, rfl⟩
  · intro m
    have := w.wr_setWr2 d.toNat m v
    simp only [Wave.wr, Wave.retireTo_w, Wave.shiftQ_w] at this ⊢; exact this
  · intro t h
    simp only [Wave.latch, Wave.retireTo_q]
    exact Row.at_replicate _ h
  · intro k t h
    have := (Wave.shifted_shiftQ (w.setWr2 d.toNat v) (List.replicate threads (v.extractLsb' 0 32))).rest k t h
    simp only [Wave.latch, Wave.retireTo_q] at this ⊢; exact this
  · simp only [Wave.retireTo_badQ]; rfl
  · unfold Wave.retireTo; split <;> rfl

/-! ### The checks at issue -/

/-- An instruction whose fields pass the checks has its effect; one whose fields do not takes the trap they name (R9, R379). -/
theorem State.guarded_eq (s : State) (ops : List Opnd) (f : State → State) :
    s.guarded ops f = .next (match s.w.precheck ops with | some t => s.trap t | none => f s) := rfl

theorem State.guarded_pass {s : State} {ops : List Opnd} (f : State → State) (h : s.w.precheck ops = none) :
    s.guarded ops f = .next (f s) := by rw [State.guarded_eq, h]

/-- The checks of a list of fields pass exactly when every row is in the allocation and no source is in error. -/
theorem Wave.precheck_none (w : Wave) (ops : List Opnd) : w.precheck ops = none ↔
    ∀ o ∈ ops, (∀ r ∈ o.rows, w.wbase + r < w.alloc) ∧ (∀ r ∈ o.srcRows, w.wbase + r ∉ w.badRows)
      ∧ ∀ q, latchOf o = some q → q ∉ w.badQ := by
  unfold Wave.precheck
  constructor
  · intro h o ho
    split at h
    · simp at h
    · next h1 =>
      split at h
      · simp at h
      · next h2 =>
        simp only [List.any_eq_true, not_exists, not_and, decide_eq_true_eq, Nat.not_le, Bool.or_eq_true, not_or] at h1 h2
        refine ⟨fun r hr => h1 o ho r hr, fun r hr => ?_, fun q hq => ?_⟩
        · have := (h2 o ho).1 r hr; simpa using this
        · have := (h2 o ho).2; rw [hq] at this; simpa using this
  · intro h
    rw [if_neg, if_neg]
    · simp only [List.any_eq_true, not_exists, not_and, Bool.or_eq_true, not_or]
      intro o ho
      obtain ⟨-, h2, h3⟩ := h o ho
      refine ⟨fun r hr => by simpa using h2 r hr, ?_⟩
      cases hq : latchOf o with
      | none => simp
      | some q => simpa using h3 q hq
    · simp only [List.any_eq_true, not_exists, not_and, decide_eq_true_eq, Nat.not_le]
      intro o ho; exact (h o ho).1

/-! ### Ends of instructions -/

theorem State.writesRow_of {s : State} {d : Code} {nw : Bool} {n : Nat} {f : Wave → Nat → Word} {ops : List Opnd}
    (h : s.w.precheck ops = none) {o : Out}
    (ho : o = s.guarded ops (fun s => s.modW (fun w => (w.out32 d nw (f w)).retire n))) : s.writesRow d nw n f o := by
  subst ho; rw [State.guarded_pass _ h]; exact ⟨_, rfl, s.w.out32_retire d nw (f s.w) n⟩

theorem State.writesPair_of {s : State} {d : Code} {f : Wave → Nat → BitVec 64} {ops : List Opnd}
    (h : s.w.precheck ops = none) {o : Out}
    (ho : o = s.guarded ops (fun s => s.modW (fun w => (w.out64 d (f w)).retire))) : s.writesPair d f o := by
  subst ho; rw [State.guarded_pass _ h]; exact ⟨_, rfl, s.w.out64_retire d (f s.w)⟩

theorem State.writesReg_of {s : State} {d : Code} {nw : Bool} {n : Nat} {f : Wave → Word} {ops : List Opnd}
    (h : s.w.precheck ops = none) {o : Out}
    (ho : o = s.guarded ops (fun s => s.modW (fun w => (w.outW d nw (f w)).retire n))) : s.writesReg d nw n f o := by
  subst ho; rw [State.guarded_pass _ h]; exact ⟨_, rfl, s.w.outW_retire d nw (f s.w) n⟩

theorem State.writesRegPair_of {s : State} {d : Code} {f : Wave → BitVec 64} {ops : List Opnd}
    (h : s.w.precheck ops = none) {o : Out}
    (ho : o = s.guarded ops (fun s => s.modW (fun w => (w.outW2 d (f w)).retire))) : s.writesRegPair d f o := by
  subst ho; rw [State.guarded_pass _ h]; exact ⟨_, rfl, s.w.outW2_retire d (f s.w)⟩

end Sys2Proof.Machine
end

