-- ==== Sys2Proof/Laws/Control.lean ====
section
/-! SUPPORT. What taking a trap, returning from one, ending a wave and ending a grid do, and what they leave alone. -/

namespace Sys2Proof.Machine

/-! ### Releasing crews and ending waves -/

/-- The parts of the state that no release of a crew changes. -/
structure State.SameBut (s t : State) : Prop where
  waves : t.waves = s.waves
  grids : t.grids = s.grids
  hbm : t.hbm = s.hbm
  sysMem : t.sysMem = s.sysMem
  llc : t.llc = s.llc
  cur : t.cur = s.cur
  arrivals : t.arrivals = s.arrivals
  sectors : t.sectors = s.sectors

theorem State.SameBut.refl (s : State) : s.SameBut s := ⟨rfl, rfl, rfl, rfl, rfl, rfl, rfl, rfl⟩

theorem State.SameBut.trans {s t u : State} (h : s.SameBut t) (k : t.SameBut u) : s.SameBut u :=
  ⟨k.1.trans h.1, k.2.trans h.2, k.3.trans h.3, k.4.trans h.4, k.5.trans h.5, k.6.trans h.6, k.7.trans h.7, k.8.trans h.8⟩

/-- A release changes the crew, its core, its context's stamp and nothing else. -/
theorem State.releaseCrew_same (s : State) (c : CrewId) : s.SameBut (s.releaseCrew c) := by
  unfold State.releaseCrew; dsimp only; split <;> exact ⟨rfl, rfl, rfl, rfl, rfl, rfl, rfl, rfl⟩

/-- The crew after its release: not resident, ended, its bytes untouched. -/
theorem State.crewOf_releaseCrew (s : State) (c : CrewId) : (s.releaseCrew c).crewOf c =
    { s.crewOf c with bound := false, ended := true, xfers := (s.crewOf c).xfers.filter (fun y => y.started && y.stage = 0) } := by
  unfold State.releaseCrew; rw [State.crewOf_setCrew, if_pos rfl]

theorem State.foldl_releaseCrew_same (s : State) (cs : List CrewId) : s.SameBut (cs.foldl State.releaseCrew s) := by
  induction cs generalizing s with
  | nil => exact .refl s
  | cons c cs ih => exact (s.releaseCrew_same c).trans (ih _)

theorem State.wv_of_waves {s t : State} (h : t.waves = s.waves) (id : WaveId) : t.wv id = s.wv id := by unfold State.wv; rw [h]
theorem State.gridOf_of_grids {s t : State} (h : t.grids = s.grids) (g : Nat) : t.gridOf g = s.gridOf g := by unfold State.gridOf; rw [h]

/-- The value under a key after a function of key and value is applied to every entry. -/
theorem aget_map [DecidableEq κ] (m : List (κ × α)) (f : κ × α → α) (k : κ) :
    aget (m.map (fun p => (p.1, f p))) k = (aget m k).map (fun v => f (k, v)) := by
  induction m with
  | nil => rfl
  | cons p m ih =>
    simp only [List.map_cons, aget]
    by_cases h : p.1 = k
    · subst h; simp
    · simp [h, ih]

/-- The waves after a grid's termination. -/
theorem State.wv_terminate (s : State) (g status : Nat) (cause : Word) (tpc wid : Nat) (h : (s.gridOf g).ending = false)
    (h' : (s.gridOf g).ended = false) (id : WaveId) :
    (s.terminate g status cause tpc wid).wv id = if id.g = g ∧ (aget s.waves id).isSome = true then (s.wv id).stop else s.wv id := by
  have h0 : (s.terminate g status cause tpc wid).waves
      = s.waves.map (fun (p : WaveId × Wave) => (p.1, if p.1.g = g then p.2.stop else p.2)) := by
    unfold State.terminate
    simp only [h, h', Bool.or_self, Bool.false_eq_true, if_false]
    rw [(State.foldl_releaseCrew_same _ _).waves]
    apply List.map_congr_left
    intro p _; split <;> rfl
  unfold State.wv
  rw [h0, aget_map s.waves (fun p => if p.1.g = g then p.2.stop else p.2) id]
  cases aget s.waves id with
  | none => simp
  | some w => by_cases hg : id.g = g <;> simp [hg]

/-- The grids after a grid's termination. -/
theorem State.gridOf_terminate (s : State) (g status : Nat) (cause : Word) (tpc wid : Nat) (h : (s.gridOf g).ending = false)
    (h' : (s.gridOf g).ended = false) (k : Nat) :
    (s.terminate g status cause tpc wid).gridOf k = if g = k then
      { s.gridOf g with status := status, cause := cause, tpc := tpc, wid := wid, ending := true } else s.gridOf k := by
  have h0 : (s.terminate g status cause tpc wid).grids
      = (s.setGrid g { s.gridOf g with status := status, cause := cause, tpc := tpc, wid := wid, ending := true }).grids := by
    unfold State.terminate
    simp only [h, h', Bool.or_self, Bool.false_eq_true, if_false]
    rw [(State.foldl_releaseCrew_same _ _).grids]
  rw [State.gridOf_of_grids h0, State.gridOf_setGrid]

/-- A termination changes the waves, the grids and what a release of crews changes, and nothing else. -/
theorem State.terminate_same (s : State) (g status : Nat) (cause : Word) (tpc wid : Nat) :
    { s with waves := (s.terminate g status cause tpc wid).waves, grids := (s.terminate g status cause tpc wid).grids }.SameBut
      (s.terminate g status cause tpc wid) := by
  unfold State.terminate
  simp only
  split
  · exact .refl s
  · have h := State.foldl_releaseCrew_same
    refine ⟨rfl, rfl, ?_, ?_, ?_, ?_, ?_, ?_⟩
    · rw [(h _ _).hbm]; rfl
    · rw [(h _ _).sysMem]; rfl
    · rw [(h _ _).llc]; rfl
    · rw [(h _ _).cur]; rfl
    · rw [(h _ _).arrivals]; rfl
    · rw [(h _ _).sectors]; rfl

end Sys2Proof.Machine
end

