-- ==== Sys2Proof/Laws/Flags.lean ====
section
/-! SUPPORT. The end of a floating-point instruction (R83, R104): whether it traps, and what it leaves when it does not. -/

namespace Sys2Proof.Machine

/-- There is no floating-point trap exactly when no thread raises an enabled exception. -/
theorem Wave.fpTrap_none (w : Wave) (p : Nat → Bool) (fl : Nat → FFlags) : w.fpTrap p fl = none ↔ w.Untrapped p fl := by
  unfold Wave.fpTrap Wave.Untrapped
  simp only
  split
  · next h =>
    simp only [true_iff]
    intro t ht hp
    have := List.find?_eq_none.1 h t (List.mem_range.2 ht)
    simpa [hp, Wave.enabled] using this
  · next t h =>
    simp only [reduceCtorEq, false_iff]
    intro hu
    have h1 := List.mem_range.1 (List.mem_of_find?_eq_some h)
    have h2 := List.find?_some h
    simp only [Bool.and_eq_true, bne_iff_ne, ne_eq] at h2
    exact h2.2 (hu t h1 h2.1)

/-- A flag that is not enabled is raised whole. -/
theorem flags_clear {a b : FFlags} (h : a &&& b = 0) : a &&& ~~~ b = a := by
  apply BitVec.eq_of_getLsbD_eq
  intro i hi
  have := congrArg (fun x => x.getLsbD i) h
  simp only [BitVec.getLsbD_and, BitVec.getLsbD_not, hi, decide_true, Bool.true_and] at this ⊢
  cases ha : a.getLsbD i <;> simp_all

theorem Wave.fsrOf_raise (w : Wave) (p : Nat → Bool) (fl : Nat → FFlags) (t : Nat) (h : t < threads) :
    (w.raise p fl).fsrOf t = if p t then w.fsrOf t ||| (fl t &&& ~~~ w.enables t).setWidth 32 else w.fsrOf t := by
  unfold Wave.fsrOf; exact Row.at_tab (fun t => if p t then w.fsrOf t ||| (fl t &&& ~~~ w.enables t).setWidth 32 else w.fsrOf t) h

/-- With no enabled exception the flags of `p` are ORed in. -/
theorem Wave.flagsSet_raise {w : Wave} {p : Nat → Bool} {fl : Nat → FFlags} (h : w.Untrapped p fl) : w.FlagsSet (w.raise p fl) p fl := by
  intro t ht
  rw [w.fsrOf_raise p fl t ht]
  by_cases hp : p t
  · rw [if_pos hp, if_pos hp, flags_clear (h t ht hp)]
  · rw [if_neg hp, if_neg hp]

/-- Flags that agree on the threads of `p` do the same. -/
theorem Wave.raise_congr (w : Wave) {p : Nat → Bool} {f g : Nat → FFlags} (h : ∀ t, t < threads → p t = true → f t = g t) :
    w.raise p f = w.raise p g := by
  unfold Wave.raise
  congr 1
  unfold tab
  apply List.map_congr_left
  intro t ht
  by_cases hp : p t
  · rw [if_pos hp, if_pos hp, h t (List.mem_range.1 ht) hp]
  · rw [if_neg hp, if_neg hp]

/-- The end of a floating-point instruction that raises no enabled exception. -/
theorem State.fpEnd_pass (s : State) {p : Nat → Bool} {fl : Nat → FFlags} (wr : Wave → Wave) (h : s.w.Untrapped p fl) :
    s.fpEnd p fl wr = s.setW (wr (s.w.raise p fl)).retire := by
  unfold State.fpEnd
  simp only [(Wave.fpTrap_none ..).2 h, State.modW_setW]

theorem Wave.act_raise (w : Wave) (p : Nat → Bool) (fl : Nat → FFlags) (t : Nat) : (w.raise p fl).act t = w.act t := rfl

theorem lane_getD (p : Nat → Bool) (f : Nat → Nat × FFlags) {t : Nat} (ht : t < threads) (hp : p t = true) :
    (tab threads (fun t => if p t then f t else (0, 0))).getD t (0, 0) = f t := by
  rw [getD_tab, if_pos ht, if_pos hp]

theorem Wave.Untrapped.lanes {w : Wave} {f : Nat → Nat × FFlags} (h : w.Untrapped w.act (fun t => (f t).2)) :
    w.Untrapped w.act (fun t => ((tab threads (fun t => if w.act t then f t else (0, 0))).getD t (0, 0)).2) := by
  intro t ht hp; simp only [lane_getD w.act f ht hp]; exact h t ht hp

theorem Wave.FlagsSet.congr {w x : Wave} {p : Nat → Bool} {f g : Nat → FFlags} (h : w.FlagsSet x p f)
    (hfg : ∀ t, t < threads → p t = true → f t = g t) : w.FlagsSet x p g := by
  intro t ht
  rw [h t ht]
  by_cases hp : p t
  · rw [if_pos hp, if_pos hp, hfg t ht hp]
  · rw [if_neg hp, if_neg hp]

theorem Wave.OnlyRows.fsrOf {w x : Wave} (h : w.OnlyRows x) (t : Nat) : x.fsrOf t = w.fsrOf t := by
  show x.sansRows.fsrOf t = w.sansRows.fsrOf t
  rw [show x.sansRows = w.sansRows from h]

theorem Wave.OnlyRows.flags {w y x : Wave} (h : y.OnlyRows x) (hy : y.sansFsr = w.sansFsr) : w.OnlyRowsFlags x :=
  (congrArg Wave.sansFsr (show x.sansRows = y.sansRows from h)).trans (congrArg Wave.sansRows hy)

/-- A floating-point instruction with a 32-bit destination. -/
theorem State.fp32_writes (s : State) (d : Code) (nw : Bool) (f : Wave → Nat → Nat × FFlags) :
    s.writesFpRow d nw f (.next (s.fp32 d nw f)) := by
  intro hu
  have hl := fun t ht hp => lane_getD s.w.act (f s.w) (t := t) ht hp
  unfold State.fp32
  simp only
  rw [State.fpEnd_pass s _ hu.lanes]
  refine ⟨_, rfl, ?_⟩
  obtain ⟨h1, h2, h3, h4⟩ := Wave.out32_retire (s.w.raise s.w.act
    (fun t => ((tab threads (fun t => if s.w.act t then f s.w t else (0, 0))).getD t (0, 0)).2)) d nw
    (fun t => BitVec.ofNat 32 ((tab threads (fun t => if s.w.act t then f s.w t else (0, 0))).getD t (0, 0)).1) 4
  refine ⟨⟨h1.pc, h1.count, h1.hold, h1.due⟩, ⟨?_, h2.errors⟩, ⟨?_, h3.rest, h3.errors⟩, ?_, ?_⟩
  · intro k t ht
    rw [h2.cells k t ht]
    simp only [Wave.act_raise]
    by_cases hp : s.w.act t
    · rw [hl t ht hp]; rfl
    · simp only [hp, and_false, Bool.false_eq_true, if_false]; rfl
  · intro t ht
    rw [h3.first t ht, Wave.act_raise]
    by_cases hp : s.w.act t
    · rw [if_pos hp, if_pos hp, hl t ht hp]
    · rw [if_neg hp, if_neg hp]
  · intro t ht
    rw [h4.fsrOf]
    exact (Wave.flagsSet_raise hu.lanes).congr (fun t ht hp => by rw [hl t ht hp]) t ht
  · exact h4.flags rfl

/-- A floating-point instruction with a pair destination. -/
theorem State.fp64_writes (s : State) (d : Code) (f : Wave → Nat → Nat × FFlags) :
    s.writesFpPair d f (.next (s.fp64 d f)) := by
  intro hu
  have hl := fun t ht hp => lane_getD s.w.act (f s.w) (t := t) ht hp
  unfold State.fp64
  simp only
  rw [State.fpEnd_pass s _ hu.lanes]
  refine ⟨_, rfl, ?_⟩
  obtain ⟨h1, h2, h3, h4⟩ := Wave.out64_retire (s.w.raise s.w.act
    (fun t => ((tab threads (fun t => if s.w.act t then f s.w t else (0, 0))).getD t (0, 0)).2)) d
    (fun t => BitVec.ofNat 64 ((tab threads (fun t => if s.w.act t then f s.w t else (0, 0))).getD t (0, 0)).1)
  refine ⟨⟨h1.pc, h1.count, h1.hold, h1.due⟩, ⟨?_, h2.errors⟩, ⟨?_, h3.rest, h3.errors⟩, ?_, ?_⟩
  · intro k t ht
    rw [h2.cells k t ht]
    simp only [Wave.act_raise]
    by_cases hp : s.w.act t
    · rw [hl t ht hp]; rfl
    · simp only [hp, false_and, Bool.false_eq_true, if_false]; rfl
  · intro t ht
    rw [h3.first t ht, Wave.act_raise]
    by_cases hp : s.w.act t
    · rw [if_pos hp, if_pos hp, hl t ht hp]
      apply BitVec.eq_of_toNat_eq
      simp only [BitVec.extractLsb'_toNat, BitVec.toNat_ofNat, Nat.shiftRight_zero]
      omega
    · rw [if_neg hp, if_neg hp]
  · intro t ht
    rw [h4.fsrOf]
    exact (Wave.flagsSet_raise hu.lanes).congr (fun t ht hp => by rw [hl t ht hp]) t ht
  · exact h4.flags rfl

theorem State.writesFpRow_of {s : State} {d : Code} {nw : Bool} {f : Wave → Nat → Nat × FFlags} {ops : List Opnd}
    (h : s.w.precheck ops = none) {o : Out} (ho : o = s.guarded ops (fun s => s.fp32 d nw f)) : s.writesFpRow d nw f o := by
  subst ho; rw [State.guarded_pass _ h]; exact s.fp32_writes d nw f

theorem State.writesFpPair_of {s : State} {d : Code} {f : Wave → Nat → Nat × FFlags} {ops : List Opnd}
    (h : s.w.precheck ops = none) {o : Out} (ho : o = s.guarded ops (fun s => s.fp64 d f)) : s.writesFpPair d f o := by
  subst ho; rw [State.guarded_pass _ h]; exact s.fp64_writes d f

end Sys2Proof.Machine
end

