-- ==== Sys2Proof/Tests/Slice0.lean ====
section
/-! SUPPORT. The author's tests: words written out from the encodings, ill-formed terms, one-step results from the spec's worked examples, and
for each statement a concrete state and operands that meet its hypotheses together. -/

namespace Sys2Proof.Tests

open Sys2Proof Sys2Proof.Machine

set_option Elab.async false

/-! ### States -/

/-- A register of 96 threads. -/
def rowOf (f : Nat → Nat) : Row := tab 96 (fun t => BitVec.ofNat 32 (f t))

/-- A wave in user mode with a handler, of 32 rows; row k holds 64·k + t in thread t, register n holds n, and threads 0, 31 and 33 are active. -/
def aWave : Wave :=
  { pc := 0x10000, alloc := 32, v := tab 32 (fun k => rowOf (fun t => 64 * k + t)),
    w := tab 61 (BitVec.ofNat 32) ++ [0x80000001, 2, 0], fsr := rowOf (fun _ => 0), q := tab 8 (fun k => rowOf (fun t => 1000 + k + t)),
    tvecl := 0x20000, active := true, age := 5 }

/-- The wave with registers replaced. -/
def regs (w : Wave) (rs : List (Nat × Word)) : Wave := rs.foldl (fun w p => w.setWr p.1 p.2) w

/-- A core that holds translations of context 1: a readable and writable page, a page that is read only, and one that may be executed. -/
def aCore : Core :=
  { tlb := [⟨1, 0x40000, 0x10000, ⟨0x40000, 1, true, true, false, false, true, true⟩⟩,
      ⟨1, 0x50000, 0x10000, ⟨0x50000, 1, true, true, false, false, false, true⟩⟩,
      ⟨1, 0x10000, 0x10000, ⟨0x30000, 1, false, false, false, true, false, true⟩⟩] }

/-- A context with a key in the slots of every stack. -/
def keys1 : List (Nat × Nat) := tab 12 (fun k => (256 * k + 1, 7))

/-- A wave in its crew on core 0, in a grid of context 1. -/
def solo (w : Wave) : State :=
  { waves := [(⟨1, 0⟩, w)], crews := [(⟨1, 0⟩, { waves := 1, lsLen := 0x10000, image := 0x2000000, bound := true })], cores := [(0, aCore)],
    grids := [(1, { ctx := 1, rows := 32 })], ctxs := [(1, { tkey := 1, quota := 64 })], keys := keys1, cur := ⟨1, 0⟩ }

/-- The state with its crew changed. -/
def crewed (f : Crew → Crew) (s : State) : State := s.modCrew ⟨1, 0⟩ f

/-- A wave whose thread 31 adds infinities of both signs, with every exception enabled. -/
def infWave : Wave :=
  { aWave with fsr := rowOf (fun _ => 0x3E0), v := tab 8 (fun k => rowOf (fun t =>
      if t = 31 then (if k = 2 then 0x7F800000 else 0xFF800000) else 0x3F800000)) ++ tab 24 (fun _ => zeroRow) }

/-- A wave with no thread active. -/
def idleWave : Wave := regs aWave [(61, 0), (62, 0), (63, 0)]

/-- A wave in supervisor mode, entered from 0x12340 with no token. -/
def superWave : Wave := { aWave with sup := true, epcl := 0x12340, qSaved := tab 8 (fun _ => rowOf (fun t => t)) }

/-- A token of a kind and an address, of thread 0 and of thread 33. -/
def tokenOf (kind addr : Nat) : Token := ⟨kind, addr, 1, 2, 0⟩

/-- A token without threads. -/
def deadToken (kind addr : Nat) : Token := ⟨kind, addr, 0, 0, 0⟩

/-- A token for every one of the 32 places of a wave. -/
def fullStack : List Token := tab 32 (fun k => tokenOf 0 (0x100 + 4 * k))

/-- One thread's access. -/
def acc1 (t addr data cmp : Nat) (got : Option Nat) : Acc1 := ⟨t, addr, data, cmp, got, none, false⟩

/-- A flight of some accesses. -/
def flight (k : MemKind) (size sc : Nat) (dst : Dst) (as : List Acc1) : Flight := ⟨k, size, false, sc, dst, as, false, 0⟩

/-- A wave whose threads hold addresses of a page in rows 2 and 3, one of it in w10 and w11, and one of local store in w12 and row 6. -/
def memWave : Wave :=
  regs { aWave with v := tab 32 (fun k => rowOf (fun t => if k = 2 then 0x40000 + 8 * t else if k = 3 then 0 else if k = 6 then 16 * t else if k = 7 then 0
      else 64 * k + t)) } [(10, 0x40010), (11, 0), (12, 0x100), (13, 0)]

/-- The frame of an open line: EXACT, of a target, with 32 elements. -/
def aFrame (tgt : Nat) : Frame := ⟨1, 3, true, tgt, 0, 0, 1, tab 32 (fun k => (k : Int)), tab 32 (fun _ => 0), false, [], 0, 5, none⟩

/-- A page open from its first line on. -/
def opened (tgt : Nat) (s : State) : State :=
  { s with frames := [(0x800, aFrame tgt)], ctxs := [(1, { tkey := 1, quota := 64, sessions := [(3, ⟨1, 9, 0x100004 + tgt, 0x40000, 0, false, 1, [0x800]⟩)] })] }

/-- A wave of the words of rows 4 and 5 that stores compressed from w14 and w15 on, with w60 at `first`. -/
def stcWave (base first : Nat) : Wave := regs aWave [(14, BitVec.ofNat 32 base), (15, 0), (60, BitVec.ofNat 32 first)]

/-- A state with one memory instruction in flight. -/
def flying (f : Flight) : State := solo { memWave with inflight := [f], vl := 1, wl := 1, st := 1 }

/-- A line of bytes, some of them dirty. -/
def aLine : CLine := ⟨tab 128 (fun i => if i < 8 then .dirty (BitVec.ofNat 8 (i + 1)) else .absent), [⟨1, 0⟩], 1, 0x40000, 1, false⟩

/-- A state whose core holds that line at 0x40000. -/
def lined (w : Wave) : State := { solo w with cores := [(0, { aCore with l1 := [(0x800, aLine)] })] }

/-- A memory that holds bytes from an address on. -/
def bytesAt (a : Nat) (bs : List Nat) : Mem := Mem.write [] a (bs.map (BitVec.ofNat 8))

/-- A second wave of the crew, of a slot and an age, on the same core. -/
def mate (w : Wave) (s : State) : State :=
  { s with waves := s.waves ++ [(⟨1, 1⟩, w)], grids := [(1, { ctx := 1, rows := 32, nWaves := 2 })] }

/-- A launch record with some bytes. -/
def recOf (bs : List (Nat × Nat)) : List Byte := tab 256 (fun i => BitVec.ofNat 8 ((aget bs i).getD 0))

/-- The grid is cooperative. -/
def coopGrid (s : State) : State := { s with grids := [(1, { ctx := 1, rows := 32, lrec := recOf [(2, 8)], nWaves := 2 })] }

/-- A barrier register. -/
def barred (n : Nat) (b : Bar) (s : State) : State := crewed (fun c => { c with bars := tab 16 (fun k => if k = n then b else ⟨0, false, 0, 0, 0⟩) }) s

/-- A stream register of a depth and entries. -/
def streamed (n : Nat) (q : Stream) (s : State) : State := crewed (fun c => { c with streams := tab 4 (fun k => if k = n then q else ⟨0, []⟩) }) s

/-- A copy of 64 bytes within the local store, from 0x100 to 0x200. -/
def copyWave (ctl : Nat) : Wave := regs aWave [(20, 0x100), (21, 0), (22, 0x200), (23, 0), (24, 64), (25, 1), (26, 0), (27, 0), (28, 0), (29, 0), (30, BitVec.ofNat 32 ctl)]

/-- A view in registers 20 to 26: 4 points of binary64 on one axis. -/
def viewWave (fw base : Nat) : Wave :=
  regs aWave [(20, BitVec.ofNat 32 base), (21, 0), (22, 0x10004), (23, 1), (24, 0), (25, 0), (26, BitVec.ofNat 32 fw), (27, 0x15), (28, 0), (29, 0)]

/-- A crew with two views of 4 points in its local store. -/
def viewed (s : State) : State :=
  crewed (fun c => { c with views := [⟨true, 0x400, 4, 1, 1, 0, 0, 0, true, 1, 0, 0⟩, ⟨true, 0x800, 4, 1, 1, 0, 0, 0, true, 1, 0, 0⟩] }) s

/-- A transfer of one slice on tag 5. -/
def aXfer (minor : Nat) (p : Slice) (us : List XUnit) (job : Option GridJob) (stage : Nat) : Xfer := ⟨9, 5, minor, 0, [p], us, job, true, stage⟩

/-- A slice of the wave: direction, barrier mode, and whether it pushes. -/
def aSlice (dir bm : Nat) (sp : Bool) : Slice := ⟨⟨1, 0⟩, 0, 0, dir, bm, 2, sp, 1, 0x200⟩

/-- The crew has one transfer. -/
def moving (x : Xfer) (s : State) : State := crewed (fun c => { c with xfers := [x] }) s

/-- A restriction from the first view to the second, with weight 1. -/
def aJob : GridJob := ⟨2, 0, ⟨true, 0x400, 4, 1, 1, 0, 0, 0, true, 1, 0, 0⟩, ⟨true, 0x800, 1, 1, 1, 0, 0, 0, true, 1, 0, 0⟩, [⟨1, 1, 1, [0x3F800000]⟩], 0, 0⟩

/-- A wave that opens: base in w10 and w11, control word in w12, handle in w13. -/
def openWave (base ctl handle : Nat) : Wave :=
  regs aWave [(10, BitVec.ofNat 32 base), (11, 0), (12, BitVec.ofNat 32 ctl), (13, BitVec.ofNat 32 handle)]

/-- A context with one session entry. -/
def session (st : Nat) (lines : List Nat) (s : State) : State :=
  { s with ctxs := [(1, { tkey := 1, quota := 64, sessions := [(3, ⟨st, 9, 0x100006, 0x40000, 5, false, 1, lines⟩)] })] }

/-- An arrival of the wave at 0x40004 with a number, posted. -/
def anArrival (num : Nat) : Arrival := ⟨2, 5, num, ⟨1, 0⟩, 4, .lane, 0x40004, 0x40004, .code 2 0xFFFFFFFE, false⟩

/-- That arrival in flight, counted on EC, where its channel has applied the numbers up to `mark`. -/
def arrivesAt (num mark : Nat) (s : State) : State := { s with arrivals := [anArrival num], hwm := [((2, 5), mark)] }

/-- An operand block of a matrix instruction in w20 to w29: A at 0x40000, B at 0x44000, strides 64. -/
def mmaWave (ctl c : Nat) : Wave :=
  regs { aWave with ec := 1 } [(20, 0x40000), (21, 0), (22, 0x44000), (23, 0), (24, 512), (25, 512), (26, 0), (27, 0), (28, 0), (29, 0), (30, BitVec.ofNat 32 ctl),
    (31, BitVec.ofNat 32 c), (16, BitVec.ofNat 32 c), (17, 0)]

/-- A command of that wave. -/
def aCmd (minor : Nat) : MatCmd :=
  ⟨⟨1, 0⟩, minor, 0x40000, 0x44000, 512, 512, 0, 0, if 4 ≤ minor % 16 then 32 else 64, 1, false, if 16 ≤ minor then 0x48000 else 0x100, 1, 2, 0, 0, 0, false, false, 7⟩

/-- The command is in its core's queue. -/
def queued (c : MatCmd) (s : State) : State := { s with cores := [(0, { aCore with mq := [c] })] }

/-- Codes of binary32 of every class. -/
def codes32 : List Nat :=
  [0, 0x80000000, 0x3F800000, 0xBF800000, 0x7F800000, 0xFF800000, 0x7FC00001, 0x7F800001, 1, 0x807FFFFF, 0x00800000, 0x7F7FFFFF, 0x40490FDB,
   0x3EAAAAAB, 0xC1200000, 0x4F000000, 0xCF000001, 0x3F000000, 0x42FE0000, 0xC2FE0000, 0x33800000]

/-- A wave whose rows hold them, with every thread active. -/
def fpWave : Wave :=
  regs { aWave with v := tab 32 (fun k => rowOf (fun t => codes32.getD (((2 * k + 1) * t + k) % 21) 0)) } [(61, 0xFFFFFFFF), (62, 0x7FFFFFFF), (63, 0x80000001)]

/-- Tables of context 1, at 0: a page at 0x40000, and a page for function tables at 0x70000. -/
def tables : Mem :=
  Mem.write (Mem.write (Mem.write (Mem.write (Mem.write [] 0x0 (leBytes 8 0xC001)) 0xC000 (leBytes 8 0x18001)) 0x18000 (leBytes 8 0x24001)) 0x24020
    (leBytes 8 0x0100000000040333)) 0x24038 (leBytes 8 0x0100000000070333)

/-- A descriptor: one argument and one value in binary32, 8 buckets, routine 0x100, table 0x70000, width 1, radius 0.5, tolerance 0.25. -/
def aDescriptor : List Byte :=
  tab 352 (fun i => BitVec.ofNat 8 ((aget [(0, 1), (1, 1), (3, 3), (9, 1), (0x12, 7), (0x66, 0xF0), (0x67, 0x3F), (0xA6, 0xE0), (0xA7, 0x3F),
    (0xE6, 0xD0), (0xE7, 0x3F)] i).getD 0))

/-- What it says. -/
def aFunction : FDesc := FDesc.parse aDescriptor

/-- A context in which function 6 is defined, with a number of values. -/
def functioned (s : State) (k : Nat := 1) : State :=
  { s with ctxs := [(1, { tkey := 1, quota := 64, fids := [(6, ⟨true, 4, { aFunction with k := k }, tab 8 (· + 10)⟩)] })] }

/-- Bytes at 0x40000, under the tables. -/
def paged (bs : List Byte) (s : State) : State := { s with hbm := Mem.write tables 0x40000 bs }

/-- A wave with an address in w10 and w11, a word in w12 and another in w13. -/
def fnWave (base x y : Nat) : Wave := openWave base x y

/-- A wave of arguments in row 2: 1.5 for thread 0, a NaN for thread 31 and 7.25 for thread 33; function 6 in w12. -/
def argWave : Wave := { openWave 0 6 0 with v := tab 32 (fun k => rowOf (fun t => if k = 2 then (if t = 31 then 0x7FC00000 else if t = 33 then 0x40E80000 else 0x3FC00000) else 64 * k + t)) }

/-- The answers of a search: thread 0 has hit, and the others have missed. -/
def aSearch (miss : Bool) : Searching :=
  ⟨6, 4, aFunction, [⟨0, [0x3FC00000], 3, true, some (some (2, 8, [0x40000000]))⟩, ⟨31, [0x7FC00000], 0, false, some (if miss then none else some (0, 9, [5]))⟩,
    ⟨33, [0x40E80000], 1, true, some (if miss then none else some (1, 7, [6]))⟩], none, []⟩

/-- A wave that serves misses of threads 31 and 33 under a frame and its token. -/
def missWave : Wave :=
  let rows := argWave.v.set 6 (rowOf (fun t => 0x40000000 + t))
  let w := { argWave with v := rows, frame := some ⟨6, 4, 1, 1, false, [31, 33], [31], 4, 2, 8⟩, tokens := [⟨2, 0x10004, 0x80000001, 2, 0⟩, tokenOf 0 8] }
  regs w [(61, 0x80000000), (62, 2)]

/-- A record. -/
def aRec (rid gen c : Nat) : FRec := ⟨rid, false, 3, 1, gen, [c], [0x3F000000], [0x40000000], [0x3F800000]⟩

/-- A function store with one bucket and one operation posted for it. -/
def storing (b : Nat) (ways : List (Option FRec)) (os : List FsOp) (s : State) : State :=
  { functioned s with buckets := [((1, 6, b), ⟨true, ways⟩)], storeGen := [((1, 6, b), 4)], fsOps := os }

/-- Eight ways that hold records of another cell, with hits k + 3. -/
def otherWays : List (Option FRec) := tab 8 (fun k => some { aRec (20 + k) 4 0x40A00000 with hits := k + 3 })

/-- An operation posted by the wave. -/
def anOp (stores : List Nat) (k : FsKind) : FsOp := ⟨⟨1, 0⟩, 1, 6, 7, stores, k⟩

/-- An insert of the value 2.25 for the argument 1.75, with its derivative 1. -/
def anInsert (gen : Nat) : FsKind := .insert gen 3 [0x3FE00000] [0x40100000] [0x3F800000]

/-- A wave whose thread 0 searches for the argument 1.75. -/
def seeker : Wave := { argWave with search := some ⟨6, 4, aFunction, [⟨0, [0x3FE00000], 3, true, none⟩], none, []⟩, fl := 1 }

/-- The wave requests leave of class 2, and `n` waves of other cores hold class 1. -/
def leaving (n temp : Nat) : State :=
  let s := solo { aWave with lvCls := 2 }
  { s with waves := s.waves ++ tab n (fun k => (⟨2, k⟩, { core := k + 1, lvCls := 1, lvGnt := true })), sectors := [(0, { temp := temp, reqs := [(⟨1, 0⟩, 2)] })] }

/-- The crew's first line of local store is dirty, and its image is at 0x60000. -/
def imaged (s : State) : State := crewed (fun c => { c with ls := bytesAt 5 [7, 8], lsDirty := [0, 3], image := 0x60000 }) s

/-- Every die has booted, die 0 with the state given. -/
def allBooted (d : Die) : List (Nat × Die) := (0, d) :: [1, 2, 3].map (fun k => (k, { booted := true }))

/-- A GiB that the host may reach under key 1, of which it holds a half in a state, with bytes. -/
def hosted (h : Option (Nat × List Byte)) (s : State) : State :=
  { s with dies := allBooted { booted := true }, hostWin := [(0, 1)], hostHalf := match h with | some x => [(0x1000, x)] | none => [] }

/-- A device link that is up, with flits sent. -/
def linked (sent : List Nat) (resends : Nat) (training : Bool) : State :=
  { State.reset with dies := allBooted { booted := true }, links := [(2, { sent := sent.map (fun n => ⟨n, 0, 1, 0, [], 0⟩), expect := 4095, resends := resends, training := training })] }

/-- Device 3 is in the domain, and device memory is open to it under key 1. -/
def peered (missed : Nat) (dead : Bool) (s : State) : State :=
  { s with dies := allBooted { booted := true }, peers := [(3, { inDomain := true, missed := missed, dead := dead, doneTxn := [7] })], fabWin := [(0, 1)], dirs := [(0x800, 0x800000001), (0x900, 0x800000000)] }

/-- Tables with a second page, at 0x50000, that is writable and not executable. -/
def homeOf (f : State → State) : State := f { solo aWave with hbm := tables }

/-- The steward of die 0 has booted, with a queue and a device queue. -/
def stewarded (x : LQueue) (dq : List (Nat × List Byte)) (s : State) : State := { s with dies := allBooted { booted := true, queues := [(2, x)], devq := dq }, hostWin := [(0, 1)] }

/-- A grid of 2 waves of 40 rows in each of 2 crews, of which none is bound, beside the running one. -/
def unbound (bs : List (Nat × Nat)) (s : State) : State :=
  let r := recOf ([(0, 1), (0x15, 1), (0x16, 1), (0x18, 2), (0x17, 2), (0x80, 7), (0x85, 8), (0x34, 255), (0x70, 4), (0x74, 3)] ++ bs)
  let g : Grid := { ctx := 1, rows := 40, nWaves := 2, lsLen := 0x1000, entry := 0x10000, lrec := r }
  { s with grids := s.grids ++ [(2, g)], dies := allBooted { booted := true } }

/-- The wave waits on an instruction since a time. -/
def waits (op : LongOp) (since : Nat) (w : Wave) : Wave := { w with hold := some ⟨op, since, []⟩ }

/-- The grid is deterministic, and its wave has stopped at its quantum with a store of 7 and 8 to its local store held. -/
def roundEnd (f : Wave → Wave) : State :=
  let w := { aWave with stopped := some .quantum, quant := 1024, active := false, buf := [.stores [(.ls ⟨1, 0⟩ 5, [7, 8]), (.ls ⟨1, 0⟩ 6, [9])]] }
  { solo (f w) with grids := [(1, { ctx := 1, rows := 32, lrec := recOf [(2, 12), (5, 4)] })] }

/-- Grid 2 has no wave left, has been given a status, and has its completion record at 0x40020. -/
def finishing (st : Nat) (s : State) : State :=
  { s with hbm := tables, grids := s.grids ++ [(2, { ctx := 1, lrec := recOf [(0x20, 0x20), (0x22, 4)], status := st, cause := 0x05000000, tpc := 0x12340, wid := 3, ending := decide (st ≠ 0) })] }

/-- A grid of class 3 waits to be bound on a device whose dies are not booted. -/
def urgent (s : State) : State := { s with grids := s.grids ++ [(2, { ctx := 1, nWaves := 1, rows := 32, lrec := recOf [(2, 3), (0x15, 1), (0x16, 1), (0x18, 1)] })] }

/-- The crew is chosen for pre-emption, and its core is halted. -/
def preempted (s : State) : State := { s with preempting := [⟨1, 0⟩], cores := s.cores.map (fun p => (p.1, { p.2 with halted := true })) }

/-- The value of an answer, or the second argument. -/
def okOr {α β : Type} (e : Except α β) (d : β) : β := match e with | .ok b => b | .error _ => d

/-- The error of an answer, or the second argument. -/
def errOr {α β : Type} (e : Except α β) (d : α) : α := match e with | .ok _ => d | .error a => a

/-- A wave of core 0 whose issue clock is next. -/
def clocked (s : State) : State := { s with agenda := [.issue 0 []] }

/-- The second page may be executed, and its word at 0x10000 is `x`, under a key instance that is the line's own. -/
def worded (xs : List Nat) (s : State) : State := { s with hbm := bytesAt 0x30000 (xs.flatMap (fun x => [x % 256, x / 256 % 256, x / 65536 % 256, x / 16777216])) }

/-- An answer is a value where the value it gives is that one. -/
theorem okOf {α β : Type} [DecidableEq β] {e : Except α β} {b : β}
    (h : (match e with | .ok c => decide (c = b) | .error _ => false) = true) : e = .ok b := by
  cases e <;> simp_all

/-- An answer is an error where the error it gives is that one. -/
theorem errOf {α β : Type} [DecidableEq α] {e : Except α β} {a : α}
    (h : (match e with | .ok _ => false | .error c => decide (c = a)) = true) : e = .error a := by
  cases e <;> simp_all

/-- An answer that is a value is the value it gives. -/
theorem okSelf {α β : Type} {e : Except α β} {d : β} (h : e.isOk = true) : e = .ok (okOr e d) := by cases e <;> simp_all [okOr, Except.isOk, Except.toBool]

/-- An answer that is an error is the error it gives. -/
theorem errSelf {α β : Type} {e : Except α β} {d : α} (h : e.isOk = false) : e = .error (errOr e d) := by cases e <;> simp_all [errOr, Except.isOk, Except.toBool]

/-- An address needs no walk: no page can hold it, or a translation cache holds its translation. -/
def walkless (s : State) (core ctx va : Nat) : Bool :=
  decide (2 ^ 49 ≤ va) || inAperture va || ((tlbFind (s.coreOf core).tlb ctx va).or (tlbFind ((aget s.gangTlb (gangOf core)).getD []) ctx va)).isSome

/-- Where no walk is needed, none changes the state. -/
theorem walkless_walked {s : State} {core ctx va : Nat} (h : walkless s core ctx va = true) : s.walked core ctx va = s := by
  unfold walkless at h
  unfold State.walked
  split
  · rfl
  · split
    · rfl
    · simp_all

/-- A flight may be performed, where its accesses pass one by one. -/
theorem performOf {s : State} {id : WaveId} {f : Flight} {ps : List Place}
    (h : (s.goes id && decide ((s.wv id).inflight.head? = some f) && decide (f.accs.length = ps.length) && (f.accs.zip ps).all (fun p => !p.1.held &&
      (match p.1.got with
      | none => (match s.place id f.kind f.sc p.1.addr f.size with | .ok q => decide (q = p.2) | .error _ => false) && decide (s.asksPeer f p.2 = none) &&
          (decide (f.kind = .store) || decide (f.kind = .stc) || !s.placeBad (s.wv id).core p.2 f.size) && (f.sc == 6 || walkless s (s.wv id).core (s.ctxN id.g) p.1.addr)
      | some _ => (match f.kind with | .load _ => true | _ => false)))) = true) : s.canPerform id f ps := by
  simp only [Bool.and_eq_true, decide_eq_true_eq, List.all_eq_true] at h
  refine ⟨h.1.1.1, h.1.1.2, h.1.2, fun p hp => ?_⟩
  obtain ⟨h1, h2⟩ := h.2 p hp
  refine ⟨by simpa using h1, ?_, fun hn => ?_⟩
  · cases hg : p.1.got with
    | none => exact .inl rfl
    | some v => exact .inr (by cases hk : f.kind <;> simp_all)
  · simp only [hn, Bool.and_eq_true, decide_eq_true_eq] at h2
    exact ⟨okOf (by cases hp : s.place id f.kind f.sc p.1.addr f.size <;> simp_all), h2.1.1.2,
      fun h1 h3 => by simpa [h1, h3] using h2.1.2, fun hs => walkless_walked (by simpa [hs] using h2.2)⟩

/-- An answer that is a pair is the pair it gives. -/
theorem okPair {α β γ : Type} {e : Except α (β × γ)} {d : β × γ} (h : e.isOk = true) : e = .ok ((okOr e d).1, (okOr e d).2) := okSelf h

/-- The wave waits at `aopen` for a frame of slice 96, of whose frames another context, no crew of which is bound, holds one, at line 0x1801. -/
def crowded : State :=
  { solo { openWave 0x40000 0x100004 0 with hold := some ⟨.aopen false 13 10 12, 0, []⟩ } with
    frames := (0x1801, { aFrame 2 with ctx := 2 }) :: (List.range 1023).map (fun a => ((a + 2) ^^^ 0x800 + 4096 * (a + 2), { aFrame 2 with ctx := 3 })),
    ctxs := [(1, { tkey := 1, quota := 64 }), (2, { tkey := 1, quota := 5, saveArea := 0x80000 })] }

/-! ### Words -/

/-- Words of major 0x01, written out field by field. -/
theorem test_decode_major_01 : ∀ p ∈ (
    [(0x0A534360, .addN32 37 26 13 true), (0x0A534361, .subN32 37 26 13 true), (0x0A534362, .mulN32 37 26 13 true),
      (0x0A534363, .mulhiS32 37 26 13 true), (0x0A534364, .mulhiN32 37 26 13 true), (0x0A534365, .madN32 37 26 13 true),
      (0x0A534366, .andN32 37 26 13 true), (0x0A534367, .orN32 37 26 13 true), (0x0A534368, .xorN32 37 26 13 true),
      (0x0A534369, .shlN32 37 26 13 true), (0x0A53436A, .shrN32 37 26 13 true), (0x0A53436B, .shrS32 37 26 13 true),
      (0x0A53436C, .minS32 37 26 13 true), (0x0A53436D, .minN32 37 26 13 true), (0x0A53436E, .maxS32 37 26 13 true),
      (0x0A53436F, .maxN32 37 26 13 true), (0x0A534370, .seqN32 37 26 13 true), (0x0A534371, .sltS32 37 26 13 true),
      (0x0A534372, .sltN32 37 26 13 true), (0x0A534373, .selN32 37 26 13 true), (0x0A534034, .popN32 37 26 true), (0x0A534035, .clzN32 37 26 true),
      (0x0A534036, .brevN32 37 26 true), (0x0A534377, .addsS32 37 26 13 true), (0x0A534378, .subsS32 37 26 13 true),
      (0x0A534379, .addsN32 37 26 13 true), (0x0A53437A, .subsN32 37 26 13 true), (0x0A53437B, .bfxN32 37 26 13 true),
      (0x0A53437C, .bfiN32 37 26 13 true)] : List (Word × Instr)),
    decodeWord p.1 = .instr p.2 := by decide +kernel

/-- Words of major 0x02, written out field by field. -/
theorem test_decode_major_02 : ∀ p ∈ (
    [(0x12535A53, .addImmN32 37 26 true 0xa53)] : List (Word × Instr)),
    decodeWord p.1 = .instr p.2 := by decide +kernel

/-- Words of major 0x03, written out field by field. -/
theorem test_decode_major_03 : ∀ p ∈ (
    [(0x1A634300, .addN64 38 26 12 false), (0x1A634301, .subN64 38 26 12 false), (0x1A634302, .addxN64 38 26 12 false),
      (0x1A634303, .addxS64 38 26 12 false), (0x1A634304, .shlN64 38 26 12 false), (0x1A634305, .shrN64 38 26 12 false),
      (0x1A634306, .shrS64 38 26 12 false), (0x1A634307, .andN64 38 26 12 false), (0x1A634308, .orN64 38 26 12 false),
      (0x1A634309, .xorN64 38 26 12 false), (0x1A63432A, .seqN64 38 26 12 true), (0x1A63432B, .sltS64 38 26 12 true),
      (0x1A63432C, .sltN64 38 26 12 true), (0x1A63430D, .mulwN32 38 26 12 false), (0x1A63430E, .mulwS32 38 26 12 false)] : List (Word × Instr)),
    decodeWord p.1 = .instr p.2 := by decide +kernel

/-- Words of major 0x04, written out field by field. -/
theorem test_decode_major_04_1 : ∀ p ∈ (
    [(0x22534360, .addF32 37 26 13 true), (0x22534361, .addF32Rne 37 26 13 true), (0x22534362, .addF32Rtz 37 26 13 true),
      (0x22534363, .addF32Rup 37 26 13 true), (0x22534364, .addF32Rdn 37 26 13 true), (0x22534365, .subF32 37 26 13 true),
      (0x22534366, .subF32Rne 37 26 13 true), (0x22534367, .subF32Rtz 37 26 13 true), (0x22534368, .subF32Rup 37 26 13 true),
      (0x22534369, .subF32Rdn 37 26 13 true), (0x2253436A, .mulF32 37 26 13 true), (0x2253436B, .mulF32Rne 37 26 13 true),
      (0x2253436C, .mulF32Rtz 37 26 13 true), (0x2253436D, .mulF32Rup 37 26 13 true), (0x2253436E, .mulF32Rdn 37 26 13 true),
      (0x2253436F, .fmaF32 37 26 13 true), (0x22534370, .fmaF32Rne 37 26 13 true), (0x22534371, .fmaF32Rtz 37 26 13 true),
      (0x22534372, .fmaF32Rup 37 26 13 true), (0x22534373, .fmaF32Rdn 37 26 13 true), (0x22534374, .minF32 37 26 13 true),
      (0x22534375, .maxF32 37 26 13 true), (0x22534376, .ceqF32 37 26 13 true), (0x22534377, .cltF32 37 26 13 true),
      (0x22534378, .cleF32 37 26 13 true), (0x22534379, .cunF32 37 26 13 true), (0x2253437A, .addF16 37 26 13 true),
      (0x2253437B, .mulF16 37 26 13 true), (0x2253437C, .fmaF16 37 26 13 true), (0x2253437D, .addBf16 37 26 13 true)] : List (Word × Instr)),
    decodeWord p.1 = .instr p.2 := by decide +kernel

/-- Words of major 0x04, written out field by field. -/
theorem test_decode_major_04_2 : ∀ p ∈ (
    [(0x2253437E, .mulBf16 37 26 13 true), (0x2253437F, .fmaBf16 37 26 13 true)] : List (Word × Instr)),
    decodeWord p.1 = .instr p.2 := by decide +kernel

/-- Words of major 0x05, written out field by field. -/
theorem test_decode_major_05 : ∀ p ∈ (
    [(0x2A634300, .addF64 38 26 12 false), (0x2A634301, .addF64Rne 38 26 12 false), (0x2A634302, .addF64Rtz 38 26 12 false),
      (0x2A634303, .addF64Rup 38 26 12 false), (0x2A634304, .addF64Rdn 38 26 12 false), (0x2A634305, .subF64 38 26 12 false),
      (0x2A634306, .subF64Rne 38 26 12 false), (0x2A634307, .subF64Rtz 38 26 12 false), (0x2A634308, .subF64Rup 38 26 12 false),
      (0x2A634309, .subF64Rdn 38 26 12 false), (0x2A63430A, .mulF64 38 26 12 false), (0x2A63430B, .mulF64Rne 38 26 12 false),
      (0x2A63430C, .mulF64Rtz 38 26 12 false), (0x2A63430D, .mulF64Rup 38 26 12 false), (0x2A63430E, .mulF64Rdn 38 26 12 false),
      (0x2A63430F, .fmaF64 38 26 12 false), (0x2A634310, .fmaF64Rne 38 26 12 false), (0x2A634311, .fmaF64Rtz 38 26 12 false),
      (0x2A634312, .fmaF64Rup 38 26 12 false), (0x2A634313, .fmaF64Rdn 38 26 12 false), (0x2A634314, .minF64 38 26 12 false),
      (0x2A634315, .maxF64 38 26 12 false), (0x2A634336, .ceqF64 38 26 12 true), (0x2A634337, .cltF64 38 26 12 true),
      (0x2A634338, .cleF64 38 26 12 true), (0x2A634339, .cunF64 38 26 12 true), (0x2A63401A, .absF64 38 26 false), (0x2A63401B, .negF64 38 26 false),
      (0x2A53403C, .classF64 37 26 true)] : List (Word × Instr)),
    decodeWord p.1 = .instr p.2 := by decide +kernel

/-- Words of major 0x06, written out field by field. -/
theorem test_decode_major_06 : ∀ p ∈ (
    [(0x32534360, .divF32 37 26 13 true), (0x32534021, .sqrtF32 37 26 true), (0x32534022, .rcpF32 37 26 true), (0x32534023, .rsqF32 37 26 true),
      (0x32534024, .exp2F32 37 26 true), (0x32534025, .log2F32 37 26 true), (0x32534026, .sinpiF32 37 26 true), (0x32534027, .cospiF32 37 26 true),
      (0x32534028, .absF32 37 26 true), (0x32534029, .negF32 37 26 true), (0x3253402A, .classF32 37 26 true), (0x3253402B, .absF16 37 26 true),
      (0x3253402C, .negF16 37 26 true), (0x3253402D, .absBf16 37 26 true), (0x3253402E, .negBf16 37 26 true), (0x32634310, .divF64 38 26 12 false),
      (0x32634011, .sqrtF64 38 26 false), (0x32634012, .rcpF64 38 26 false), (0x32634013, .rsqF64 38 26 false), (0x32634014, .exp2F64 38 26 false),
      (0x32634015, .log2F64 38 26 false)] : List (Word × Instr)),
    decodeWord p.1 = .instr p.2 := by decide +kernel

/-- Words of major 0x07, written out field by field. -/
theorem test_decode_major_07 : ∀ p ∈ (
    [(0x3A5340A0, .cnvF64F32 37 26 2 true), (0x3A634001, .cnvF32F64 38 26 false), (0x3A5340A2, .cnvF32F16 37 26 2 true),
      (0x3A534023, .cnvF16F32 37 26 true), (0x3A5340A4, .cnvF32Bf16 37 26 2 true), (0x3A534025, .cnvBf16F32 37 26 true),
      (0x3A5340A6, .cnvF64F16 37 26 2 true), (0x3A5340A7, .cnvF64Bf16 37 26 2 true), (0x3A5340A8, .cnvF32S32 37 26 2 true),
      (0x3A5340A9, .cnvF32N32 37 26 2 true), (0x3A5340AA, .cnvS32F32 37 26 2 true), (0x3A5340AB, .cnvN32F32 37 26 2 true),
      (0x3A5340AC, .cnvF64S32 37 26 2 true), (0x3A5340AD, .cnvF64N32 37 26 2 true), (0x3A63400E, .cnvS32F64 38 26 false),
      (0x3A63400F, .cnvN32F64 38 26 false), (0x3A634090, .cnvF64S64 38 26 2 false), (0x3A634091, .cnvF64N64 38 26 2 false),
      (0x3A634092, .cnvS64F64 38 26 2 false), (0x3A634093, .cnvN64F64 38 26 2 false), (0x3A5340B4, .cnvS64F32 37 26 2 true),
      (0x3A5340B5, .cnvN64F32 37 26 2 true), (0x3A5340B6, .cnvS32S16 37 26 2 true), (0x3A5340B7, .cnvS32N16 37 26 2 true),
      (0x3A5340B8, .cnvS32S8 37 26 2 true), (0x3A5340B9, .cnvS32N8 37 26 2 true), (0x3A63401A, .cnvS32S64 38 26 false),
      (0x3A63401B, .cnvN32N64 38 26 false), (0x3A5340BC, .rintF32 37 26 2 true), (0x3A63409D, .rintF64 38 26 2 false)] : List (Word × Instr)),
    decodeWord p.1 = .instr p.2 := by decide +kernel

/-- Words of major 0x08, written out field by field. -/
theorem test_decode_major_08_1 : ∀ p ∈ (
    [(0x42534360, .waveAddN32 37 26 13 true), (0x42534361, .waveSubN32 37 26 13 true), (0x42534362, .waveMulN32 37 26 13 true),
      (0x42534363, .waveMulhiS32 37 26 13 true), (0x42534364, .waveMulhiN32 37 26 13 true), (0x42534365, .waveMadN32 37 26 13 true),
      (0x42534366, .waveAndN32 37 26 13 true), (0x42534367, .waveOrN32 37 26 13 true), (0x42534368, .waveXorN32 37 26 13 true),
      (0x42534369, .waveShlN32 37 26 13 true), (0x4253436A, .waveShrN32 37 26 13 true), (0x4253436B, .waveShrS32 37 26 13 true),
      (0x4253436C, .waveMinS32 37 26 13 true), (0x4253436D, .waveMinN32 37 26 13 true), (0x4253436E, .waveMaxS32 37 26 13 true),
      (0x4253436F, .waveMaxN32 37 26 13 true), (0x42534370, .waveSeqN32 37 26 13 true), (0x42534371, .waveSltS32 37 26 13 true),
      (0x42534372, .waveSltN32 37 26 13 true), (0x42534373, .waveSelN32 37 26 13 true), (0x42534034, .wavePopN32 37 26 true),
      (0x42534035, .waveClzN32 37 26 true), (0x42534036, .waveBrevN32 37 26 true), (0x42534377, .waveAddsS32 37 26 13 true),
      (0x42534378, .waveSubsS32 37 26 13 true), (0x42534379, .waveAddsN32 37 26 13 true), (0x4253437A, .waveSubsN32 37 26 13 true),
      (0x4253437B, .waveBfxN32 37 26 13 true), (0x4253437C, .waveBfiN32 37 26 13 true),
      (0x4263431D, .waveAddN64 38 26 12 false)] : List (Word × Instr)),
    decodeWord p.1 = .instr p.2 := by decide +kernel

/-- Words of major 0x08, written out field by field. -/
theorem test_decode_major_08_2 : ∀ p ∈ (
    [(0x4263431E, .waveSubN64 38 26 12 false), (0x4263433F, .waveSltN64 38 26 12 true)] : List (Word × Instr)),
    decodeWord p.1 = .instr p.2 := by decide +kernel

/-- Words of major 0x09, written out field by field. -/
theorem test_decode_major_09 : ∀ p ∈ (
    [(0x4A535A53, .waveAddImmN32 37 26 true 0xa53)] : List (Word × Instr)),
    decodeWord p.1 = .instr p.2 := by decide +kernel

/-- Words of major 0x0A, written out field by field. -/
theorem test_decode_major_0a : ∀ p ∈ (
    [(0x52534000, .ballot 37 26), (0x52534021, .vany 37 26 true), (0x52534022, .vall 37 26 true), (0x52534023, .mpop 37 26 true),
      (0x52534024, .mffs 37 26 true), (0x52534365, .lsel 37 26 13 true), (0x52534366, .lbck 37 26 13 true), (0x52534367, .lfwd 37 26 13 true),
      (0x52534368, .lmir 37 26 13 true), (0x52534369, .bcast 37 26 13 true), (0x5253402A, .scanN32 37 26 true), (0x5253402B, .xscanN32 37 26 true),
      (0x5253402C, .redaddN32 37 26 true), (0x5253402D, .redminS32 37 26 true), (0x5253402E, .redmaxS32 37 26 true),
      (0x5253402F, .redandN32 37 26 true), (0x52534030, .redorN32 37 26 true), (0x52534031, .redaddF32 37 26 true)] : List (Word × Instr)),
    decodeWord p.1 = .instr p.2 := by decide +kernel

/-- Words of major 0x0B, written out field by field. -/
theorem test_decode_major_0b : ∀ p ∈ (
    [(0x58A5A5A5, .br 0xa5a5a5), (0x59A5A5A5, .bz 0xa5a5a5), (0x5AA5A5A5, .bnz 0xa5a5a5), (0x5BA5A5A5, .call 0xa5a5a5), (0x5CA5A5A5, .split 0xa5a5a5),
      (0x5DA5A5A5, .bl 0xa5a5a5), (0x5EA5A5A5, .brk 0xa5a5a5)] : List (Word × Instr)),
    decodeWord p.1 = .instr p.2 := by decide +kernel

/-- Words of major 0x0C, written out field by field. -/
theorem test_decode_major_0c : ∀ p ∈ (
    [(0x60000000, .join), (0x60000001, .ret), (0x60034002, .jr 26), (0x62634003, .jalr 38 26), (0x6091A284, .waitc 1 2 3 4 5), (0x60000005, .yield),
      (0x60000006, .exit)] : List (Word × Instr)),
    decodeWord p.1 = .instr p.2 := by decide +kernel

/-- Words of major 0x0D, written out field by field. -/
theorem test_decode_major_0d : ∀ p ∈ (
    [(0x68000480, .svc 18), (0x68000481, .trap 18), (0x68000002, .eret), (0x6A5004A3, .rsr 37 18 true), (0x68034484, .wsr 26 18),
      (0x6A500025, .vrsr 37 0 true), (0x68034006, .vwsr 26 0), (0x6A600007, .clk 38 false), (0x68000348, .win 13),
      (0x68000009, .leave 0)] : List (Word × Instr)),
    decodeWord p.1 = .instr p.2 := by decide +kernel

/-- Words of major 0x0E, written out field by field. -/
theorem test_decode_major_0e : ∀ p ∈ (
    [(0x725B4360, .ldN8 37 45 13 4), (0x725B4361, .ldS8 37 45 13 4), (0x725B4362, .ldN16 37 45 13 4), (0x725B4363, .ldS16 37 45 13 4),
      (0x725B4364, .ld32 37 45 13 4), (0x726C4325, .ld64 38 49 12 4), (0x726367A0, .ldUniN8 38 13 30 4), (0x726367A1, .ldUniS8 38 13 30 4),
      (0x726367A2, .ldUniN16 38 13 30 4), (0x726367A3, .ldUniS16 38 13 30 4), (0x726367A4, .ldUni32 38 13 30 4),
      (0x726367A5, .ldUni64 38 13 30 4)] : List (Word × Instr)),
    decodeWord p.1 = .instr p.2 := by decide +kernel

/-- Words of major 0x0F, written out field by field. -/
theorem test_decode_major_0f : ∀ p ∈ (
    [(0x7A5B4360, .st8 37 45 13 4), (0x7A5B4361, .st16 37 45 13 4), (0x7A5B4362, .st32 37 45 13 4), (0x7A6C4323, .st64 38 49 12 4),
      (0x7A6367A0, .stUni8 38 13 30 4), (0x7A6367A1, .stUni16 38 13 30 4), (0x7A6367A2, .stUni32 38 13 30 4), (0x7A6367A3, .stUni64 38 13 30 4),
      (0x7A6C4024, .stcN32 38 49 4), (0x7A6C4025, .stcN64 38 49 4)] : List (Word × Instr)),
    decodeWord p.1 = .instr p.2 := by decide +kernel

/-- Words of major 0x10, written out field by field. -/
theorem test_decode_major_10 : ∀ p ∈ (
    [(0x825B4360, .amaddN32 37 45 13 4), (0x826C4321, .amaddN64 38 49 12 4), (0x825B4362, .amaddF32 37 45 13 4), (0x826C4323, .amaddF64 38 49 12 4),
      (0x825B4364, .amminS32 37 45 13 4), (0x825B4365, .ammaxS32 37 45 13 4), (0x825B4366, .amminN32 37 45 13 4), (0x825B4367, .ammaxN32 37 45 13 4),
      (0x825B6360, .amandN32 37 45 13 4), (0x825B6361, .amorN32 37 45 13 4), (0x825B6362, .amxorN32 37 45 13 4), (0x825B6363, .amswpN32 37 45 13 4),
      (0x826C6324, .amswpN64 38 49 12 4), (0x825B6365, .amcasN32 37 45 13 4), (0x826C6326, .amcasN64 38 49 12 4)] : List (Word × Instr)),
    decodeWord p.1 = .instr p.2 := by decide +kernel

/-- Words of major 0x11, written out field by field. -/
theorem test_decode_major_11 : ∀ p ∈ (
    [(0x88900020, .fence 9 4), (0x880B4361, .cwb 45 13 4), (0x880B4362, .cinv 45 13 4), (0x880B4363, .cinvd 45 13 4),
      (0x880B4364, .pref 45 13 4)] : List (Word × Instr)),
    decodeWord p.1 = .instr p.2 := by decide +kernel

/-- Words of major 0x12, written out field by field. -/
theorem test_decode_major_12 : ∀ p ∈ (
    [(0x92534340, .aopen 37 26 13), (0x92534341, .aopennb 37 26 13), (0x92534342, .aredF32 37 26 13), (0x92634303, .aredF64 38 26 12),
      (0x92534344, .aredS32 37 26 13), (0x92634305, .aredS64 38 26 12), (0x92534006, .aseal 37 26), (0x92634007, .asnap 38 26),
      (0x92534008, .aqry 37 26)] : List (Word × Instr)),
    decodeWord p.1 = .instr p.2 := by decide +kernel

/-- Words of major 0x13, written out field by field. -/
theorem test_decode_major_13 : ∀ p ∈ (
    [(0x9A534340, .mmaF64 37 26 13), (0x9A534341, .mmaF32 37 26 13), (0x9A534342, .mmaF16 37 26 13), (0x9A534343, .mmaBf16 37 26 13),
      (0x9A534344, .mmaE4m3 37 26 13), (0x9A534345, .mmaE5m2 37 26 13), (0x9A534346, .mmaE3m2 37 26 13), (0x9A534347, .mmaE2m3 37 26 13),
      (0x9A534348, .mmaE2m1 37 26 13), (0x9A534349, .mmaMxi8 37 26 13), (0x9A53434A, .mmaE4m3E5m2 37 26 13), (0x9A53434B, .mmaE5m2E4m3 37 26 13),
      (0x9A53434C, .mmaE3m2E2m3 37 26 13), (0x9A53434D, .mmaE2m3E3m2 37 26 13), (0x9A634310, .mmafF64 38 26 12), (0x9A634311, .mmafF32 38 26 12),
      (0x9A634312, .mmafF16 38 26 12), (0x9A634313, .mmafBf16 38 26 12), (0x9A634314, .mmafE4m3 38 26 12), (0x9A634315, .mmafE5m2 38 26 12),
      (0x9A634316, .mmafE3m2 38 26 12), (0x9A634317, .mmafE2m3 38 26 12), (0x9A634318, .mmafE2m1 38 26 12), (0x9A634319, .mmafMxi8 38 26 12),
      (0x9A63431A, .mmafE4m3E5m2 38 26 12), (0x9A63431B, .mmafE5m2E4m3 38 26 12), (0x9A63431C, .mmafE3m2E2m3 38 26 12),
      (0x9A63431D, .mmafE2m3E3m2 38 26 12)] : List (Word × Instr)),
    decodeWord p.1 = .instr p.2 := by decide +kernel

/-- Words of major 0x14, written out field by field. -/
theorem test_decode_major_14 : ∀ p ∈ (
    [(0xA2534340, .cvtmxE4m3F32 37 26 13), (0xA2534341, .cvtmxE5m2F32 37 26 13), (0xA2534342, .cvtmxE3m2F32 37 26 13),
      (0xA2534343, .cvtmxE2m3F32 37 26 13), (0xA2534344, .cvtmxE2m1F32 37 26 13), (0xA2534345, .cvtmxMxi8F32 37 26 13),
      (0xA2534346, .dqmxE4m3F32 37 26 13), (0xA2534347, .dqmxE5m2F32 37 26 13), (0xA2534348, .dqmxE3m2F32 37 26 13),
      (0xA2534349, .dqmxE2m3F32 37 26 13), (0xA253434A, .dqmxE2m1F32 37 26 13), (0xA253434B, .dqmxMxi8F32 37 26 13), (0xA253400C, .scaccF32 37 26),
      (0xA253400D, .scaccF64 37 26), (0xA253400E, .amxrd 37 26), (0xA003400F, .amxclr 26)] : List (Word × Instr)),
    decodeWord p.1 = .instr p.2 := by decide +kernel

/-- Words of major 0x15, written out field by field. -/
theorem test_decode_major_15 : ∀ p ∈ (
    [(0xA8034340, .fdef 26 13), (0xAA534341, .fcall 37 26 13), (0xA8034342, .fret 26 13), (0xA8000343, .finv 13), (0xAA634304, .fstat 38 26 12),
      (0xA8034345, .fpre 26 13)] : List (Word × Instr)),
    decodeWord p.1 = .instr p.2 := by decide +kernel

/-- Words of major 0x16, written out field by field. -/
theorem test_decode_major_16 : ∀ p ∈ (
    [(0xB0034340, .copy 26 13), (0xB0034341, .copybox 26 13), (0xB0034342, .copyred 26 13), (0xB2500003, .cseal 37), (0xB0034004, .cwait 26),
      (0xB0034005, .twaitany 26), (0xB0034006, .twaitall 26), (0xB2534007, .tffr 37 26)] : List (Word × Instr)),
    decodeWord p.1 = .instr p.2 := by decide +kernel

/-- Words of major 0x17, written out field by field. -/
theorem test_decode_major_17 : ∀ p ∈ (
    [(0xB8434000, .gview 4 26), (0xB8434301, .gstn 4 26 12), (0xB8034342, .grst 26 13), (0xB8034343, .gprol 26 13), (0xB8034344, .gproladd 26 13),
      (0xB8034345, .gred 26 13)] : List (Word × Instr)),
    decodeWord p.1 = .instr p.2 := by decide +kernel

/-- Words of major 0x18, written out field by field. -/
theorem test_decode_major_18 : ∀ p ∈ (
    [(0xC0434000, .binit 4 26), (0xC0400001, .barv 4), (0xC0400002, .bwait 4), (0xC0434003, .bexp 4 26), (0xC0A00044, .spop 10 1),
      (0xC0914045, .spush 9 10 1), (0xC0034006, .tagclr 26), (0xC2600007, .tagrd 38)] : List (Word × Instr)),
    decodeWord p.1 = .instr p.2 := by decide +kernel

/-- Words of major 0x19, written out field by field. -/
theorem test_decode_major_19 : ∀ p ∈ (
    [(0xCA534000, .launch 37 26), (0xC8034301, .dwait 26 12), (0xC8000002, .gbar)] : List (Word × Instr)),
    decodeWord p.1 = .instr p.2 := by decide +kernel

/-- Words of major 0x1F, written out field by field. -/
theorem test_decode_major_1f : ∀ p ∈ (
    [(0xF805A5A5, .lit 0x5a5a5)] : List (Word × Instr)),
    decodeWord p.1 = .instr p.2 := by decide +kernel

/-- Words of an unallocated major or minor, with a reserved field that is not zero, or with an operand its position does not take. -/
theorem test_words_rejected :
    decodeWord 0x00000000 = .reject .unallocated ∧ decodeWord 0xF0000000 = .reject .unallocated ∧ decodeWord 0x9940028E = .reject .unallocated ∧
    decodeWord 0x68000142 = .reject .reservedField ∧ decodeWord 0x63514003 = .reject .operand := by decide +kernel

/-- A term that each kind of field refuses: a code above its range, an odd pair, or a number its position does not take. -/
theorem test_ill_formed : ∀ i ∈ ([
    .addN32 96 0 0 false, .addN64 1 0 0 false, .addN64 96 0 0 false, .addN32 0 116 0 false, .addN32 0 0 119 false, .addN64 0 111 0 false,
    .addN64 0 0 114 false, .addN64 0 0 0 true, .waveAddImmN32 64 0 false 0, .waveAddImmN32 0 113 false 0, .waveAddN64 1 0 0 false, .waveAddN64 64 0 0 false,
    .waveAddN64 0 63 0 false, .waveAddN64 0 96 0 false, .cnvF64F32 0 0 6 false, .ballot 62 0, .mpop 0 62 false, .rsr 0 0x0F false, .rsr 0 0x24 false,
    .wsr 0 0x10, .wsr 0 0x18, .vrsr 0 1 false] : List Instr) ++ [
    .win 64, .lit 0x100000, .ldN8 0 0 0 7, .stcN32 0 47 0, .stcN32 0 56 0, .amaddN32 96 0 0 1, .amaddN32 0 0 0 0, .amaddN64 1 0 0 1, .amaddN64 113 0 0 1,
    .fence 0 0, .fence 1 6, .aopen 0 63 0, .aopen 0 64 0, .mmaF64 0 60 0, .mmafE4m3 0 56 0, .cvtmxE4m3F32 0 0 63, .scaccF32 0 62, .fcall 96 0 0, .copy 58 0,
    .gview 16 0, .gstn 8 0 0, .binit 20 0, .spop 0 4],
    i.wellFormed = false := by decide +kernel

/-! ### Results of the spec's worked examples -/

/-- The state after an instruction. -/
def ran (i : Instr) (s : State) : State := match exec i s with | .next t => t | _ => s

/-- A wave with values in row 0 and on of thread 0, and a rounding mode. -/
def rowsOf (vs : List Nat) (fs : Nat) : State :=
  solo { aWave with v := tab 32 (fun k => rowOf (fun _ => vs.getD k 0)), fsr := rowOf (fun _ => fs) }

/-- R101: the carry of a pointer's step crosses into the high half. -/
theorem test_addx_carries : ((ran (.addxN64 8 8 6 false) (rowsOf [0, 0, 0, 0, 0, 0, 16, 0, 0xFFFFFFF8, 1] 0)).w.vr2 8 0) = 0x0000000200000008 := by decide +kernel

/-- R118: values outside the range are clamped. -/
theorem test_integer_conversions_clamp :
    (ran (.cnvS32N8 1 0 0 false) (rowsOf [0xFFFFFF00] 0)).w.vr 1 0 = 0 ∧ (ran (.cnvS32S8 1 0 0 false) (rowsOf [300] 0)).w.vr 1 0 = 0x7F := by decide +kernel

/-- R75: the tie 1 + 2^-24 in the modes that an instruction may name. -/
theorem test_fma_rounds_ties :
    (ran (.fmaF32Rne 2 0 1 false) (rowsOf [0x3F800000, 0x33800000, 0x3F800000] 0)).w.vr 2 0 = 0x3F800000 ∧
    (ran (.fmaF32Rtz 2 0 1 false) (rowsOf [0x3F800000, 0x33800000, 0x3F800000] 0)).w.vr 2 0 = 0x3F800000 ∧
    (ran (.fmaF32Rup 2 0 1 false) (rowsOf [0x3F800000, 0x33800000, 0x3F800000] 0)).w.vr 2 0 = 0x3F800001 ∧
    (ran (.fmaF32Rdn 2 0 1 false) (rowsOf [0xBF800000, 0x33800000, 0xBF800000] 0)).w.vr 2 0 = 0xBF800001 := by decide +kernel

/-- R79: a NaN keeps its sign and high bits when its format changes; R75: a tie rounds away with selector 5. -/
theorem test_float_conversions :
    (ran (.cnvF64F32 2 0 0 false) (rowsOf [1, 0xFFF40000] 0)).w.vr 2 0 = 0xFFE00000 ∧
    (ran (.cnvF32F64 2 0 false) (rowsOf [0x7FA00001] 0)).w.vr2 2 0 = 0x7FFC000020000000 ∧
    (ran (.cnvF64F32 2 0 5 false) (rowsOf [0x10000000, 0x3FF00000] 0)).w.vr 2 0 = 0x3F800001 := by decide +kernel

/-- The wave of 08's worked example: threads 0 to 3 are active, and row 3 holds 5, 0, 7, 2 and 9. -/
def lanes : Wave :=
  regs { aWave with v := tab 8 (fun k => rowOf (fun t => if k = 3 then [5, 0, 7, 2, 9].getD t 0 else 0)) ++ tab 24 (fun _ => zeroRow) }
    [(10, 1), (57, 0xD), (58, 0), (59, 0), (61, 0xF), (62, 0), (63, 0)]

/-- 08, worked example: masks and votes. -/
theorem test_masks_and_votes :
    (ran (.ballot 57 3) (solo lanes)).w.wr 57 = 0xD ∧ (ran (.mpop 20 57 false) (solo lanes)).w.wr 20 = 3 ∧
    (ran (.mffs 21 57 false) (solo lanes)).w.wr 21 = 0 ∧ (ran (.vall 56 3 false) (solo lanes)).w.wr 56 = 0 := by decide +kernel

/-- 08, worked example: a scan, a shuffle, and a reduction, which writes every thread's q0. -/
theorem test_lanes_exchange :
    tab 5 (fun t => (ran (.scanN32 4 3 false) (solo lanes)).w.vr 4 t) = [5, 5, 12, 14, 0] ∧
    tab 5 (fun t => (ran (.lfwd 5 3 106 false) (solo lanes)).w.vr 5 t) = [0, 7, 2, 9, 0] ∧
    (ran (.redmaxS32 22 3 false) (solo lanes)).w.wr 22 = 7 ∧ (ran (.redmaxS32 22 3 false) (solo lanes)).w.latch 0 95 = 7 := by decide +kernel

/-- 08: the sum of 1, 2^-24 and 2^-24 is rounded once. -/
theorem test_reduction_rounds_once :
    let w := regs { aWave with v := tab 32 (fun _ => rowOf (fun t => if t = 0 then 0x3F800000 else 0x33800000)) } [(61, 7), (62, 0), (63, 0)]
    (ran (.redaddF32 22 3 false) (solo w)).w.wr 22 = 0x3F800001 := by decide +kernel

/-- 08, worked example: the words of two of its lines. -/
theorem test_lane_words : decodeWord 0x50507A87 = .instr (.lfwd 5 3 106 false) ∧ decodeWord 0x51472003 = .instr (.mpop 20 57 false) := by decide +kernel

/-! ### States and operands that meet the hypotheses of the statements

One theorem for each statement with hypotheses, clause by clause. A hypothesis that quantifies over the answers of a function is written as the
`match` that computes it. -/

/-- The hypotheses of `VectorIntegersWriteTheirResult`, clause by clause, can be met together. -/
theorem test_meets_VectorIntegersWriteTheirResult :
    (let i : Instr := .orN32 7 2 3 false; let s : State := solo aWave; let k : Nat := 0x07; let d : Code := 7; let a : Code := 2; let b : Code := 3;
        let nw : Bool := false; vecIntForm i = some (k, d, a, b, nw) ∧ s.issues i) :=
  by delta State.issues; decide +kernel

/-- The hypotheses of `PairIntegersWriteTheirResult`, clause by clause, can be met together. -/
theorem test_meets_PairIntegersWriteTheirResult :
    ((let i : Instr := .orN64 8 2 4 false; let s : State := solo aWave; let k : Nat := 0x08; let d : Code := 8; let a : Code := 2; let b : Code := 4;
        pairIntForm i = some (k, d, a, b) ∧ s.issues i) ∧
      (let i : Instr := .seqN64 2 2 2 true; let s : State := solo aWave; let k : Nat := 0x0A; let d : Code := 2; let a : Code := 2; let b : Code := 2;
        let nw : Bool := true; pairCmpForm i = some (k, d, a, b, nw) ∧ s.issues i)) :=
  by delta State.issues; dsimp only; decide +kernel

/-- The hypotheses of `WaveIntegersWriteTheirResult`, clause by clause, can be met together. -/
theorem test_meets_WaveIntegersWriteTheirResult :
    ((let i : Instr := .waveOrN32 2 2 9 true; let s : State := solo aWave; let k : Nat := 0x07; let d : Code := 2; let a : Code := 2; let b : Code := 9;
        let nw : Bool := true; waveIntForm i = some (k, d, a, b, nw) ∧ s.issues i) ∧
      (let s : State := solo aWave; let d : Code := 8; let a : Code := 2; let b : Code := 4; let nw : Bool := false; s.issues (.waveAddN64 d a b nw)) ∧
      (let s : State := solo aWave; let d : Code := 8; let a : Code := 2; let b : Code := 4; let nw : Bool := false; s.issues (.waveSubN64 d a b nw)) ∧
      (let s : State := solo aWave; let d : Code := 5; let a : Code := 2; let b : Code := 4; let nw : Bool := true; s.issues (.waveSltN64 d a b nw))) :=
  by delta State.issues; dsimp only; decide +kernel

/-- The hypotheses of `ImmediatesAreAdded`, clause by clause, can be met together. -/
theorem test_meets_ImmediatesAreAdded :
    ((let s : State := solo aWave; let d : Code := 5; let a : Code := 2; let nw : Bool := true; let imm : BitVec 12 := 5; s.issues (.addImmN32 d a nw imm)) ∧
      (let s : State := solo aWave; let d : Code := 5; let a : Code := 2; let nw : Bool := true; let imm : BitVec 12 := 5;
        s.issues (.waveAddImmN32 d a nw imm))) ∧
    (let s : State := worded [0xF8000005, 0x10504105] (solo aWave); let pay : BitVec 27 := 5;
      let x : Word := okOr (s.fetchWord s.cur (s.w.pc + 4).toNat) 0; let d : Code := 5; let a : Code := 2; let nw : Bool := false;
      let imm : BitVec 12 := 0x105; s.fetchWord s.cur (s.w.pc + 4).toNat = .ok x ∧ pay.toNat < 2 ^ 20 ∧
      decodeWord x = .instr (.addImmN32 d a nw imm) ∧ s.issues (.addImmN32 d a nw imm)) ∧
    (let s : State := worded [0xF80FFFFF, 0x48504FFF] (solo aWave); let pay : BitVec 27 := 0xFFFFF;
      let x : Word := okOr (s.fetchWord s.cur (s.w.pc + 4).toNat) 0; let d : Code := 5; let a : Code := 2; let nw : Bool := false;
      let imm : BitVec 12 := 0xFFF; s.fetchWord s.cur (s.w.pc + 4).toNat = .ok x ∧ pay.toNat < 2 ^ 20 ∧
      decodeWord x = .instr (.waveAddImmN32 d a nw imm) ∧ s.issues (.waveAddImmN32 d a nw imm)) :=
  ⟨by delta State.issues; dsimp only; decide +kernel,
    ⟨okSelf (by decide +kernel), by delta State.issues; decide +kernel⟩,
    ⟨okSelf (by decide +kernel), by delta State.issues; decide +kernel⟩⟩

/-- The hypotheses of `FloatArithmeticWritesItsResult`, clause by clause, can be met together. -/
theorem test_meets_FloatArithmeticWritesItsResult :
    (let i : Instr := .addF64 8 10 12 false; let s : State := solo fpWave; let op : FOp := .add; let m : Option RM := none; let d : Code := 8;
        let a : Code := 10; let b : Code := 12; fpForm64 i = some (op, m, d, a, b) ∧ s.issues i) ∧
    (let i : Instr := .addF32 7 2 3 false; let s : State := solo fpWave; let op : FOp := .add; let F : Fmt := f32; let m : Option RM := none;
      let d : Code := 7; let a : Code := 2; let b : Code := 3; let nw : Bool := false; fpForm i = some (op, F, m, d, a, b, nw) ∧ s.issues i) :=
  ⟨by delta State.issues; decide +kernel,
    ⟨rfl, by delta State.issues; decide +kernel⟩⟩

/-- The hypotheses of `SpecialFunctionsWriteTheirResult`, clause by clause, can be met together. -/
theorem test_meets_SpecialFunctionsWriteTheirResult :
    ((let F : Fmt := f32; let v : FEnv := ⟨.rne, false, false⟩; let a : Nat := 0x7F800001; let x := F.readF v.fzi a; F ∈ [f64, f32] ∧ F.isNaN x = true) ∧
      (let F : Fmt := f32; let v : FEnv := ⟨.rne, false, false⟩; let a : Nat := 0x7F800001; let x := F.readF v.fzi a; F ∈ [f64, f32] ∧ F.isNaN x = true) ∧
      (let F : Fmt := f32; let v : FEnv := ⟨.rne, false, false⟩; let a : Nat := 0; let b : Nat := 0xFFC00001; let x := F.readF v.fzi a;
        let y := F.readF v.fzi b; F ∈ [f64, f32] ∧ F.isNaN x = false ∧ F.isNaN y = true) ∧
      (let F : Fmt := f32; let v : FEnv := ⟨.rne, false, false⟩; let a : Nat := 0x80000000; let b : Nat := 0; let x := F.readF v.fzi a;
        let y := F.readF v.fzi b; let p : Bool := true; let n : Bool := false; F ∈ [f64, f32] ∧ x = F.zero p ∧ y = F.zero n) ∧
      (let F : Fmt := f32; let v : FEnv := ⟨.rne, false, false⟩; let a : Nat := 0x7F800000; let b : Nat := 0xFF800000; let x := F.readF v.fzi a;
        let y := F.readF v.fzi b; let p : Bool := false; let n : Bool := true; F ∈ [f64, f32] ∧ x = F.inf p ∧ y = F.inf n) ∧
      (let F : Fmt := f32; let v : FEnv := ⟨.rne, false, false⟩; let a : Nat := 0x40000000; let b : Nat := 0x80000000; let x := F.readF v.fzi a;
        let y := F.readF v.fzi b; let p : Bool := false; let n : Bool := true; let m := 2 ^ 23; let e := -22; F ∈ [f64, f32] ∧ F.val x = .fin p m e ∧
        y = F.zero n) ∧
      (let F : Fmt := f32; let v : FEnv := ⟨.rne, false, false⟩; let a : Nat := 0xFF800000; let b : Nat := 0x40000000; let x := F.readF v.fzi a;
        let y := F.readF v.fzi b; let p : Bool := true; let n : Bool := false; let m := 2 ^ 23; let e := -22; F ∈ [f64, f32] ∧ x = F.inf p ∧
        (F.val y = .fin n m e ∨ y = F.zero n)) ∧
      (let F : Fmt := f32; let v : FEnv := ⟨.rne, false, false⟩; let a : Nat := 0xC0000000; let b : Nat := 0x7F800000; let x := F.readF v.fzi a;
        let y := F.readF v.fzi b; let p : Bool := true; let n : Bool := false; let m := 2 ^ 23; let e := -22; F ∈ [f64, f32] ∧
        (F.val x = .fin p m e ∨ x = F.zero p) ∧ y = F.inf n) ∧
      (let F : Fmt := f32; let v : FEnv := ⟨.rne, false, false⟩; let a : Nat := 0x80000000; let b : Nat := 0x40000000; let x := F.readF v.fzi a;
        let y := F.readF v.fzi b; let p : Bool := true; let n : Bool := false; let m := 2 ^ 23; let e := -22; F ∈ [f64, f32] ∧ x = F.zero p ∧
        F.val y = .fin n m e) ∧
      (let F : Fmt := f32; let v : FEnv := ⟨.rne, false, false⟩; let a : Nat := 0x80000000; let x := F.readF v.fzi a; let p : Bool := true; F ∈ [f64, f32] ∧
        x = F.zero p)) ∧
    ((let F : Fmt := f32; let v : FEnv := ⟨.rne, false, false⟩; let a : Nat := 0xFF800000; let x := F.readF v.fzi a; let p : Bool := true; F ∈ [f64, f32] ∧
        x = F.inf p) ∧
      (let F : Fmt := f32; let v : FEnv := ⟨.rne, false, false⟩; let a : Nat := 0xC0000000; let x := F.readF v.fzi a; let p : Bool := true; let m := 2 ^ 23;
        let e := -22; F ∈ [f64, f32] ∧ F.val x = .fin p m e ∧ p = true) ∧
      (let F : Fmt := f32; let v : FEnv := ⟨.rne, false, false⟩; let a : Nat := 0xC0000000; let x := F.readF v.fzi a; let p : Bool := true; let m := 2 ^ 23;
        let e := -22; F ∈ [f64, f32] ∧ F.val x = .fin p m e ∧ m % 2 ^ (-e).toNat = 0) ∧
      (let F : Fmt := f32; let v : FEnv := ⟨.rne, false, false⟩; let a : Nat := 0x3F000000; let x := F.readF v.fzi a; let p : Bool := false;
        let m := 2 ^ 23; let e := -24; F ∈ [f64, f32] ∧ F.val x = .fin p m e ∧ m % 2 ^ (-e).toNat ≠ 0 ∧ 2 * m % 2 ^ (-e).toNat = 0) ∧
      (let F : Fmt := f32; let v : FEnv := ⟨.rne, false, false⟩; let a : Nat := 0x3F800000; let b : Nat := 0x40400000; let x := F.readF v.fzi a;
        let y := F.readF v.fzi b; let p := false; let m := 0x800000; let e := -23; let n := false; let m' := 0xC00000; let e' := -22; F ∈ [f64, f32] ∧
        F.val x = .fin p m e ∧ F.val y = .fin n m' e') ∧
      (let F : Fmt := f32; let v : FEnv := ⟨.rne, false, false⟩; let a : Nat := 0x40400000; let x := F.readF v.fzi a; let p := false; let m := 0xC00000;
        let e := -22; F ∈ [f64, f32] ∧ F.val x = .fin p m e ∧ p = false) ∧
      (let F : Fmt := f32; let v : FEnv := ⟨.rne, false, false⟩; let a : Nat := 0x40400000; let x := F.readF v.fzi a; let p := false; let m := 0xC00000;
        let e := -22; F ∈ [f64, f32] ∧ F.val x = .fin p m e) ∧
      (let F : Fmt := f32; let v : FEnv := ⟨.rne, false, false⟩; let a : Nat := 0x3F800000; let x := F.readF v.fzi a; F ∈ [f64, f32] ∧
        x = F.bias * 2 ^ F.fb) ∧
      (let i : Instr := .rcpF32 7 2 false; let s : State := solo fpWave; let f : SFn := .rcp; let d : Code := 7; let a : Code := 2; let nw : Bool := false;
        specialForm i = some (f, d, a, nw) ∧ s.issues i) ∧
      (let i : Instr := .rcpF64 8 10 false; let s : State := solo fpWave; let f : SFn := .rcp; let d : Code := 8; let a : Code := 10;
        specialForm64 i = some (f, d, a) ∧ s.issues i)) ∧
    ((let s : State := solo fpWave; let d : Code := 5; let a : Code := 2; let b : Code := 3; let nw : Bool := false; s.issues (.divF32 d a b nw)) ∧
      (let s : State := solo fpWave; let d : Code := 8; let a : Code := 10; let b : Code := 12; let nw : Bool := false; s.issues (.divF64 d a b nw))) :=
  ⟨by dsimp only; decide +kernel,
    by delta State.issues; dsimp only; decide +kernel,
    by delta State.issues; dsimp only; decide +kernel⟩

/-- The hypotheses of `SignsAndFloatChoices`, clause by clause, can be met together. -/
theorem test_meets_SignsAndFloatChoices :
    ((let s : State := solo fpWave; let d : Code := 5; let a : Code := 2; let nw : Bool := false; s.issues (.absF32 d a nw)) ∧
      (let s : State := solo fpWave; let d : Code := 5; let a : Code := 2; let nw : Bool := false; s.issues (.negF32 d a nw)) ∧
      (let s : State := solo fpWave; let d : Code := 5; let a : Code := 2; let nw : Bool := false; s.issues (.absF16 d a nw)) ∧
      (let s : State := solo fpWave; let d : Code := 5; let a : Code := 2; let nw : Bool := false; s.issues (.negF16 d a nw)) ∧
      (let s : State := solo fpWave; let d : Code := 5; let a : Code := 2; let nw : Bool := false; s.issues (.absBf16 d a nw)) ∧
      (let s : State := solo fpWave; let d : Code := 5; let a : Code := 2; let nw : Bool := false; s.issues (.negBf16 d a nw)) ∧
      (let s : State := solo fpWave; let d : Code := 8; let a : Code := 10; let nw : Bool := false; s.issues (.absF64 d a nw)) ∧
      (let s : State := solo fpWave; let d : Code := 8; let a : Code := 10; let nw : Bool := false; s.issues (.negF64 d a nw)) ∧
      (let s : State := solo fpWave; let d : Code := 5; let a : Code := 2; let nw : Bool := false; s.issues (.classF32 d a nw)) ∧
      (let s : State := solo fpWave; let d : Code := 5; let a : Code := 2; let nw : Bool := false; s.issues (.classF64 d a nw))) ∧
    ((let F : Fmt := f32; let v : FEnv := ⟨.rne, false, false⟩; let a : Nat := 0x7F800001; let b : Nat := 0x7FC00000; let x := F.readF v.fzi a;
        let y := F.readF v.fzi b; F ∈ [f64, f32] ∧ F.isNaN x = true ∧ F.isNaN y = true) ∧
      (let F : Fmt := f32; let v : FEnv := ⟨.rne, false, false⟩; let a : Nat := 0x7F800001; let b : Nat := 0x807FFFFF; let x := F.readF v.fzi a;
        let y := F.readF v.fzi b; F ∈ [f64, f32] ∧ F.isNaN x = true ∧ F.isNaN y = false) ∧
      (let F : Fmt := f32; let v : FEnv := ⟨.rne, false, false⟩; let a : Nat := 0x80000000; let b : Nat := 0x7FC00000; let x := F.readF v.fzi a;
        let y := F.readF v.fzi b; F ∈ [f64, f32] ∧ F.isNaN x = false ∧ F.isNaN y = true) ∧
      (let F : Fmt := f32; let v : FEnv := ⟨.rne, false, false⟩; let a : Nat := 0x80000000; let b : Nat := 0; let x := F.readF v.fzi a;
        let y := F.readF v.fzi b; F ∈ [f64, f32] ∧ F.isNaN x = false ∧ F.isNaN y = false) ∧
      (let F : Fmt := f32; let v : FEnv := ⟨.rne, false, false⟩; let a : Nat := 0x80000000; let b : Nat := 0x7F800001; let x := F.readF v.fzi a;
        let y := F.readF v.fzi b; F ∈ [f64, f32] ∧ (F.isNaN x = true ∨ F.isNaN y = true)) ∧
      (let F : Fmt := f32; let v : FEnv := ⟨.rne, false, false⟩; let a : Nat := 0xFF800000; let b : Nat := 1; let x := F.readF v.fzi a;
        let y := F.readF v.fzi b; F ∈ [f64, f32] ∧ F.isNaN x = false ∧ F.isNaN y = false) ∧
      (let s : State := solo fpWave; let d : Code := 5; let a : Code := 2; let b : Code := 3; let nw : Bool := false; s.issues (.minF32 d a b nw)) ∧
      (let s : State := solo fpWave; let d : Code := 5; let a : Code := 2; let b : Code := 3; let nw : Bool := false; s.issues (.maxF32 d a b nw)) ∧
      (let s : State := solo fpWave; let d : Code := 8; let a : Code := 10; let b : Code := 12; let nw : Bool := false; s.issues (.minF64 d a b nw)) ∧
      (let s : State := solo fpWave; let d : Code := 8; let a : Code := 10; let b : Code := 12; let nw : Bool := false; s.issues (.maxF64 d a b nw))) ∧
    ((let s : State := solo fpWave; let d : Code := 5; let a : Code := 2; let b : Code := 3; let nw : Bool := false; s.issues (.ceqF32 d a b nw)) ∧
      (let s : State := solo fpWave; let d : Code := 5; let a : Code := 2; let b : Code := 3; let nw : Bool := false; s.issues (.cltF32 d a b nw)) ∧
      (let s : State := solo fpWave; let d : Code := 5; let a : Code := 2; let b : Code := 3; let nw : Bool := false; s.issues (.cleF32 d a b nw)) ∧
      (let s : State := solo fpWave; let d : Code := 5; let a : Code := 2; let b : Code := 3; let nw : Bool := false; s.issues (.cunF32 d a b nw)) ∧
      (let s : State := solo fpWave; let d : Code := 8; let a : Code := 10; let b : Code := 12; let nw : Bool := false; s.issues (.ceqF64 d a b nw)) ∧
      (let s : State := solo fpWave; let d : Code := 8; let a : Code := 10; let b : Code := 12; let nw : Bool := false; s.issues (.cltF64 d a b nw)) ∧
      (let s : State := solo fpWave; let d : Code := 8; let a : Code := 10; let b : Code := 12; let nw : Bool := false; s.issues (.cleF64 d a b nw)) ∧
      (let s : State := solo fpWave; let d : Code := 8; let a : Code := 10; let b : Code := 12; let nw : Bool := false; s.issues (.cunF64 d a b nw))) :=
  ⟨by delta State.issues; dsimp only; decide +kernel,
    by delta State.issues; dsimp only; decide +kernel,
    by delta State.issues; dsimp only; decide +kernel⟩

/-- The hypotheses of `ConversionsWriteTheirResult`, clause by clause, can be met together. -/
theorem test_meets_ConversionsWriteTheirResult :
    ((let S : Fmt := f32; let D : Fmt := f16; let v : FEnv := ⟨.rne, false, false⟩; let a : Nat := 0xFF800001; let x := S.readF v.fzi a;
        S ∈ [f64, f32, f16, bf16] ∧ D ∈ [f64, f32, f16, bf16] ∧ S.isNaN x = true) ∧
      (let S : Fmt := f32; let D : Fmt := f16; let v : FEnv := ⟨.rne, false, false⟩; let a : Nat := 0xFF800000; let x := S.readF v.fzi a;
        let p : Bool := true; S ∈ [f64, f32, f16, bf16] ∧ D ∈ [f64, f32, f16, bf16] ∧ x = S.inf p) ∧
      (let S : Fmt := f32; let D : Fmt := f16; let v : FEnv := ⟨.rne, false, false⟩; let a : Nat := 0x80000000; let x := S.readF v.fzi a;
        let p : Bool := true; S ∈ [f64, f32, f16, bf16] ∧ D ∈ [f64, f32, f16, bf16] ∧ x = S.zero p) ∧
      (let S : Fmt := f32; let D : Fmt := f16; let v : FEnv := ⟨.rne, false, false⟩; let a : Nat := 0x477FF000; let x := S.readF v.fzi a;
        let p : Bool := false; let m := 0xFFF000; let e := -8; S ∈ [f64, f32, f16, bf16] ∧ D ∈ [f64, f32, f16, bf16] ∧ S.val x = .fin p m e) ∧
      (let F : Fmt := f32; let n : Nat := 32; let v : FEnv := ⟨.rne, false, false⟩; let a : Nat := 0xFF800001; let x := F.readF v.fzi a; F ∈ [f64, f32] ∧
        n ∈ [32, 64] ∧ F.isNaN x = true) ∧
      (let F : Fmt := f32; let n : Nat := 32; let v : FEnv := ⟨.rne, false, false⟩; let a : Nat := 0xFF800000; let x := F.readF v.fzi a;
        let p : Bool := true; F ∈ [f64, f32] ∧ n ∈ [32, 64] ∧ x = F.inf p) ∧
      (let F : Fmt := f32; let n : Nat := 32; let v : FEnv := ⟨.rne, false, false⟩; let a : Nat := 0x80000000; let x := F.readF v.fzi a;
        let p : Bool := true; F ∈ [f64, f32] ∧ n ∈ [32, 64] ∧ x = F.zero p) ∧
      (let F : Fmt := f32; let n : Nat := 32; let v : FEnv := ⟨.rne, false, false⟩; let a : Nat := 0xCF000001; let x := F.readF v.fzi a;
        let p : Bool := true; let m := 0x800001; let e := 8; F ∈ [f64, f32] ∧ n ∈ [32, 64] ∧ F.val x = .fin p m e) ∧
      (let D : Fmt := f32; let i : Int := 0; D ∈ [f64, f32] ∧ i.natAbs < 2 ^ 64 ∧ i = 0) ∧
      (let D : Fmt := f32; let i : Int := -(2 ^ 64 - 1); D ∈ [f64, f32] ∧ i.natAbs < 2 ^ 64 ∧ i ≠ 0)) ∧
    ((let D : Fmt := f32; let i : Int := -(2 ^ 64 - 1); D ∈ [f64, f32] ∧ i.natAbs < 2 ^ 64) ∧
      (let F : Fmt := f32; let v : FEnv := ⟨.rne, false, false⟩; let a : Nat := 0xFF800001; let x := F.readF v.fzi a; F ∈ [f64, f32] ∧ F.isNaN x = true) ∧
      (let F : Fmt := f32; let v : FEnv := ⟨.rne, false, false⟩; let a : Nat := 0x80000000; let x := F.readF v.fzi a; let p : Bool := true; F ∈ [f64, f32] ∧
        (x = F.inf p ∨ x = F.zero p)) ∧
      (let F : Fmt := f32; let v : FEnv := ⟨.rne, false, false⟩; let a : Nat := 0x3F000000; let x := F.readF v.fzi a; let p : Bool := false;
        let m := 2 ^ 23; let e := -24; let q := roundAt v.rm p m e 0; F ∈ [f64, f32] ∧ F.val x = .fin p m e ∧ q.1 = 0) ∧
      (let F : Fmt := f32; let v : FEnv := ⟨.rne, false, false⟩; let a : Nat := 0xBFC00000; let x := F.readF v.fzi a; let p : Bool := true;
        let m := 0xC00000; let e := -23; let q := roundAt v.rm p m e 0; F ∈ [f64, f32] ∧ F.val x = .fin p m e ∧ q.1 ≠ 0) ∧
      (let F : Fmt := f32; let v : FEnv := ⟨.rne, false, false⟩; let a : Nat := 0xBFC00000; let x := F.readF v.fzi a; let p : Bool := true;
        let m := 0xC00000; let e := -23; F ∈ [f64, f32] ∧ F.val x = .fin p m e)) ∧
    (let i : Instr := .cnvF64F32 7 2 0 false; let s : State := solo fpWave; let d : Code := 7; let nw : Bool := false;
      let f : Wave → Nat → Nat × FFlags := (match convForm (.cnvF64F32 7 2 0 false) with | some x => x.2.2 | none => fun _ _ => (0,0));
      convForm i = some (d, nw, f) ∧ s.issues i) ∧
    (let i : Instr := .cnvF32F64 8 2 false; let s : State := solo fpWave; let d : Code := 8;
      let f : Wave → Nat → Nat × FFlags := (match convForm64 (.cnvF32F64 8 2 false) with | some x => x.2 | none => fun _ _ => (0,0));
      convForm64 i = some (d, f) ∧ s.issues i) :=
  ⟨by dsimp only; decide +kernel,
    by dsimp only; decide +kernel,
    ⟨rfl, by delta State.issues; decide +kernel⟩,
    ⟨rfl, by delta State.issues; decide +kernel⟩⟩

/-- The hypotheses of `IntegerConversionsClamp`, clause by clause, can be met together. -/
theorem test_meets_IntegerConversionsClamp :
    ((let s : State := solo aWave; let d : Code := 5; let a : Code := 2; let sel : Code := 0; let nw : Bool := true; s.issues (.cnvS32S16 d a sel nw)) ∧
      (let s : State := solo aWave; let d : Code := 5; let a : Code := 2; let sel : Code := 0; let nw : Bool := true; s.issues (.cnvS32N16 d a sel nw)) ∧
      (let s : State := solo aWave; let d : Code := 5; let a : Code := 2; let sel : Code := 0; let nw : Bool := true; s.issues (.cnvS32S8 d a sel nw)) ∧
      (let s : State := solo aWave; let d : Code := 5; let a : Code := 2; let sel : Code := 0; let nw : Bool := true; s.issues (.cnvS32N8 d a sel nw)) ∧
      (let s : State := solo aWave; let d : Code := 8; let a : Code := 2; let nw : Bool := false; s.issues (.cnvS32S64 d a nw)) ∧
      (let s : State := solo aWave; let d : Code := 8; let a : Code := 2; let nw : Bool := false; s.issues (.cnvN32N64 d a nw))) :=
  by delta State.issues; dsimp only; decide +kernel

/-- The hypotheses of `EnabledExceptionsTrap`, clause by clause, can be met together. -/
theorem test_meets_EnabledExceptionsTrap :
    ((let i : Instr := .mulF64Rne 8 2 4 false; let s : State := solo infWave; let op : FOp := .mul; let m : Option RM := some .rne; let d : Code := 8;
        let a : Code := 2; let b : Code := 4; fpForm64 i = some (op, m, d, a, b) ∧ s.issues i) ∧
      (let i : Instr := .sqrtF32 8 3 false; let s : State := solo infWave; let f : SFn := .sqrt; let d : Code := 8; let a : Code := 3;
        let nw : Bool := false; specialForm i = some (f, d, a, nw) ∧ s.issues i) ∧
      (let i : Instr := .sqrtF64 8 2 false; let s : State := solo infWave; let f : SFn := .sqrt; let d : Code := 8; let a : Code := 2;
        specialForm64 i = some (f, d, a) ∧ s.issues i) ∧
      (let s : State := solo (regs { infWave with v := infWave.v.set 6 (rowOf (fun t => if t = 33 then 0x33000000 else 0x3F800000)) } [(61, 1), (62, 2)]);
        let d : Code := 8; let a : Code := 6; let nw : Bool := false; let l : Nat := 0; let ts : List Nat := [33]; s.issues (.redaddF32 d a nw) ∧
        s.w.actives = l :: ts)) ∧
    (let i : Instr := .addF32 4 2 3 false; let s : State := solo infWave; let op : FOp := .add; let F : Fmt := f32; let m : Option RM := none;
      let d : Code := 4; let a : Code := 2; let b : Code := 3; let nw : Bool := false; fpForm i = some (op, F, m, d, a, b, nw) ∧ s.issues i) ∧
    (let i : Instr := .cnvF64F32 7 2 0 false; let s : State := solo infWave; let d : Code := 7; let nw : Bool := false;
      let f : Wave → Nat → Nat × FFlags := (match convForm (.cnvF64F32 7 2 0 false) with | some x => x.2.2 | none => fun _ _ => (0, 0));
      convForm i = some (d, nw, f) ∧ s.issues i) ∧
    (let i : Instr := .cnvF32F64 8 2 false; let s : State := solo infWave; let d : Code := 8;
      let f : Wave → Nat → Nat × FFlags := (match convForm64 (.cnvF32F64 8 2 false) with | some x => x.2 | none => fun _ _ => (0, 0));
      convForm64 i = some (d, f) ∧ s.issues i) :=
  ⟨by delta State.issues; dsimp only; decide +kernel,
    ⟨rfl, by delta State.issues; decide +kernel⟩,
    ⟨rfl, by delta State.issues; decide +kernel⟩,
    ⟨rfl, by delta State.issues; decide +kernel⟩⟩

/-- The hypotheses of `RoundingAndSpecialOperands`, clause by clause, can be met together. -/
theorem test_meets_RoundingAndSpecialOperands :
    ((let F : Fmt := f16; let rm : RM := .rdn; let x : Term := ⟨true, 0x1FFF, 3⟩; let k := (x.m.log2 : Int) + x.e - F.fb;
        let u := (roundAt rm x.neg x.m x.e k).1; let top := (u.log2 : Int) + k; F ∈ [f64, f32, f16, bf16] ∧ 0 < x.m ∧ F.emax < top) ∧
      (let F : Fmt := f16; let rm : RM := .rne; let x : Term := ⟨false, 1, -25⟩; let k := (x.m.log2 : Int) + x.e - F.fb;
        let u := (roundAt rm x.neg x.m x.e k).1; let top := (u.log2 : Int) + k; let k' := max k (F.emin - F.fb); let q := roundAt rm x.neg x.m x.e k';
        F ∈ [f64, f32, f16, bf16] ∧ 0 < x.m ∧ top ≤ F.emax ∧ q.1 = 0) ∧
      (let F : Fmt := f16; let rm : RM := .rup; let x : Term := ⟨false, 1, -25⟩; let k := (x.m.log2 : Int) + x.e - F.fb;
        let u := (roundAt rm x.neg x.m x.e k).1; let top := (u.log2 : Int) + k; let k' := max k (F.emin - F.fb); let q := roundAt rm x.neg x.m x.e k';
        F ∈ [f64, f32, f16, bf16] ∧ 0 < x.m ∧ top ≤ F.emax ∧ q.1 ≠ 0)) ∧
    ((let F : Fmt := f16; let rm : RM := .rup; let x : Term := ⟨false, 1, -25⟩; let k := (x.m.log2 : Int) + x.e - F.fb;
        let u := (roundAt rm x.neg x.m x.e k).1; let top := (u.log2 : Int) + k; F ∈ [f64, f32, f16, bf16] ∧ 0 < x.m ∧ top ≤ F.emax) ∧
      (let rm : RM := .rdn; let neg : Bool := false; let e : Int := -2; let k : Int := 0; e < k ∧
        (rm = .rtz ∨ (rm = .rup ∧ neg = true) ∨ (rm = .rdn ∧ neg = false))) ∧
      (let rm : RM := .rup; let neg : Bool := false; let e : Int := -2; let k : Int := 0;
        let away := match rm with | .rup => !neg | .rdn => neg | _ => false; e < k ∧ away = true)) ∧
    ((let rm : RM := .rne; let e : Int := -2; let k : Int := 0; e < k ∧ (rm = .rne ∨ rm = .rna)) ∧
      (let rm : RM := .rne; let neg : Bool := true; let m : Nat := 6; let e : Int := -2; let k : Int := 0; let u := 2 ^ (k - e).toNat;
        let q := (roundAt rm neg m e k).1; let n : Nat := 1; e < k ∧ rm = .rne ∧ n ≠ q ∧ ((m : Int) - n * u).natAbs = ((m : Int) - q * u).natAbs) ∧
      (let rm : RM := .rna; let neg : Bool := true; let m : Nat := 6; let e : Int := -2; let k : Int := 0; let u := 2 ^ (k - e).toNat;
        let q := (roundAt rm neg m e k).1; let n : Nat := 1; e < k ∧ rm = .rna ∧ n ≠ q ∧ ((m : Int) - n * u).natAbs = ((m : Int) - q * u).natAbs)) ∧
    ((let e : Int := -1; let k : Int := 0; e < k) ∧
      (let F : Fmt := f32; let x : Nat := 0x7F800001; let y : Nat := 0xFFC00000; let z : Nat := 0; F ∈ [f64, f32, f16, bf16] ∧ x < 2 ^ (1 + F.eb + F.fb) ∧
        y < 2 ^ (1 + F.eb + F.fb) ∧ z < 2 ^ (1 + F.eb + F.fb) ∧ F.isNaN x = true) ∧
      (let F : Fmt := bf16; let x : Nat := 0x7F80; let y : Nat := 0xFF81; let z : Nat := 0xFFFF; F ∈ [f64, f32, f16, bf16] ∧ x < 2 ^ (1 + F.eb + F.fb) ∧
        y < 2 ^ (1 + F.eb + F.fb) ∧ z < 2 ^ (1 + F.eb + F.fb) ∧ F.isNaN x = false ∧ F.isNaN y = true)) ∧
    ((let F : Fmt := f16; let op : FOp := .fma; let x : Nat := 0x7C00; let y : Nat := 0x3C00; let z : Nat := 0x7C01; F ∈ [f64, f32, f16, bf16] ∧
        x < 2 ^ (1 + F.eb + F.fb) ∧ y < 2 ^ (1 + F.eb + F.fb) ∧ z < 2 ^ (1 + F.eb + F.fb) ∧ op = .fma ∧ F.isNaN x = false ∧ F.isNaN y = false ∧
        F.isNaN z = true) ∧
      (let F : Fmt := f32; let op : FOp := .mul; let x : Nat := 0x7F800001; let y : Nat := 0x80000000; let z : Nat := 0;
        let ops := if op = .fma then [x, y, z] else [x, y];
        let void := (op = .mul ∨ op = .fma) ∧ ∃ p n : Bool, (x = F.inf p ∧ y = F.zero n) ∨ (x = F.zero n ∧ y = F.inf p); F ∈ [f64, f32, f16, bf16] ∧
        x < 2 ^ (1 + F.eb + F.fb) ∧ y < 2 ^ (1 + F.eb + F.fb) ∧ z < 2 ^ (1 + F.eb + F.fb) ∧ (∃ c ∈ ops, F.isNaN c = true) ∧
        ((∃ c ∈ ops, F.isSNaN c = true) ∨ void)) ∧
      (let F : Fmt := f32; let op : FOp := .fma; let x : Nat := 0; let y : Nat := 0x80000000; let z : Nat := 0x7FC00000;
        let ops := if op = .fma then [x, y, z] else [x, y];
        let void := (op = .mul ∨ op = .fma) ∧ ∃ p n : Bool, (x = F.inf p ∧ y = F.zero n) ∨ (x = F.zero n ∧ y = F.inf p); F ∈ [f64, f32, f16, bf16] ∧
        x < 2 ^ (1 + F.eb + F.fb) ∧ y < 2 ^ (1 + F.eb + F.fb) ∧ z < 2 ^ (1 + F.eb + F.fb) ∧ (∃ c ∈ ops, F.isNaN c = true) ∧
        (∀ c ∈ ops, F.isSNaN c = false) ∧ (¬ void))) ∧
    ((let F : Fmt := f64; let op : FOp := .mul; let x : Nat := 0x8000000000000000; let y : Nat := 0x7FF0000000000000; let z : Nat := 0;
        let ops := if op = .fma then [x, y, z] else [x, y];
        let void := (op = .mul ∨ op = .fma) ∧ ∃ p n : Bool, (x = F.inf p ∧ y = F.zero n) ∨ (x = F.zero n ∧ y = F.inf p); F ∈ [f64, f32, f16, bf16] ∧
        x < 2 ^ (1 + F.eb + F.fb) ∧ y < 2 ^ (1 + F.eb + F.fb) ∧ z < 2 ^ (1 + F.eb + F.fb) ∧ (∀ c ∈ ops, F.isNaN c = false) ∧ void) ∧
      (let F : Fmt := f32; let op : FOp := .fma; let x : Nat := 0xFF800000; let y : Nat := 0; let z : Nat := 0x7F800001;
        let void := (op = .mul ∨ op = .fma) ∧ ∃ p n : Bool, (x = F.inf p ∧ y = F.zero n) ∨ (x = F.zero n ∧ y = F.inf p); F ∈ [f64, f32, f16, bf16] ∧
        x < 2 ^ (1 + F.eb + F.fb) ∧ y < 2 ^ (1 + F.eb + F.fb) ∧ z < 2 ^ (1 + F.eb + F.fb) ∧ op = .fma ∧ F.isNaN z = true ∧ void) ∧
      (let F : Fmt := f32; let op : FOp := .add; let x : Nat := 0x7F800000; let y : Nat := 0xFF800000; let z : Nat := 0; let p : Bool := false;
        F ∈ [f64, f32, f16, bf16] ∧ x < 2 ^ (1 + F.eb + F.fb) ∧ y < 2 ^ (1 + F.eb + F.fb) ∧ z < 2 ^ (1 + F.eb + F.fb) ∧ op = .add ∧ x = F.inf p ∧
        y = F.inf (!p))) ∧
    ((let F : Fmt := f16; let op : FOp := .sub; let x : Nat := 0xFC00; let y : Nat := 0xFC00; let z : Nat := 0; let p : Bool := true;
        F ∈ [f64, f32, f16, bf16] ∧ x < 2 ^ (1 + F.eb + F.fb) ∧ y < 2 ^ (1 + F.eb + F.fb) ∧ z < 2 ^ (1 + F.eb + F.fb) ∧ op = .sub ∧ x = F.inf p ∧
        y = F.inf p) ∧
      (let F : Fmt := f32; let op : FOp := .add; let x : Nat := 0; let y : Nat := 0xFF800000; let z : Nat := 0; let p : Bool := true;
        F ∈ [f64, f32, f16, bf16] ∧ x < 2 ^ (1 + F.eb + F.fb) ∧ y < 2 ^ (1 + F.eb + F.fb) ∧ z < 2 ^ (1 + F.eb + F.fb) ∧
        ((x = F.inf p ∧ F.isNaN y = false ∧ y ≠ F.inf (!p)) ∨ (y = F.inf p ∧ F.isNaN x = false ∧ x ≠ F.inf (!p))) ∧ op = .add) ∧
      (let F : Fmt := f32; let op : FOp := .mul; let x : Nat := 0xC0000000; let y : Nat := 0xFF800000; let z : Nat := 0; let p : Bool := true;
        let n : Bool := true; F ∈ [f64, f32, f16, bf16] ∧ x < 2 ^ (1 + F.eb + F.fb) ∧ y < 2 ^ (1 + F.eb + F.fb) ∧ z < 2 ^ (1 + F.eb + F.fb) ∧
        ((x = F.inf p ∧ F.isNaN y = false ∧ y % 2 ^ F.mag ≠ 0 ∧ n = F.sign y) ∨ (y = F.inf p ∧ F.isNaN x = false ∧ x % 2 ^ F.mag ≠ 0 ∧ n = F.sign x)) ∧
        op = .mul)) ∧
    ((let F : Fmt := f32; let op : FOp := .fma; let x : Nat := 0xFF800000; let y : Nat := 0xC0000000; let z : Nat := 0x7FC00000; let p : Bool := true;
        let n : Bool := true; F ∈ [f64, f32, f16, bf16] ∧ x < 2 ^ (1 + F.eb + F.fb) ∧ y < 2 ^ (1 + F.eb + F.fb) ∧ z < 2 ^ (1 + F.eb + F.fb) ∧
        ((x = F.inf p ∧ F.isNaN y = false ∧ y % 2 ^ F.mag ≠ 0 ∧ n = F.sign y) ∨ (y = F.inf p ∧ F.isNaN x = false ∧ x % 2 ^ F.mag ≠ 0 ∧ n = F.sign x)) ∧
        op = .fma) ∧
      (let F : Fmt := f32; let op : FOp := .fma; let x : Nat := 0xFF800000; let y : Nat := 0xC0000000; let z : Nat := 0xFF800000; let p : Bool := true;
        let n : Bool := true; F ∈ [f64, f32, f16, bf16] ∧ x < 2 ^ (1 + F.eb + F.fb) ∧ y < 2 ^ (1 + F.eb + F.fb) ∧ z < 2 ^ (1 + F.eb + F.fb) ∧
        ((x = F.inf p ∧ F.isNaN y = false ∧ y % 2 ^ F.mag ≠ 0 ∧ n = F.sign y) ∨ (y = F.inf p ∧ F.isNaN x = false ∧ x % 2 ^ F.mag ≠ 0 ∧ n = F.sign x)) ∧
        op = .fma ∧ z = F.inf (p == n)) ∧
      (let F : Fmt := f32; let op : FOp := .add; let x : Nat := 0x80000000; let y : Nat := 0; let z : Nat := 0; let p : Bool := true; let n : Bool := false;
        F ∈ [f64, f32, f16, bf16] ∧ x < 2 ^ (1 + F.eb + F.fb) ∧ y < 2 ^ (1 + F.eb + F.fb) ∧ z < 2 ^ (1 + F.eb + F.fb) ∧ x = F.zero p ∧ y = F.zero n ∧
        op = .add)) ∧
    ((let F : Fmt := f32; let op : FOp := .sub; let x : Nat := 0x80000000; let y : Nat := 0; let z : Nat := 0; let p : Bool := true; let n : Bool := false;
        F ∈ [f64, f32, f16, bf16] ∧ x < 2 ^ (1 + F.eb + F.fb) ∧ y < 2 ^ (1 + F.eb + F.fb) ∧ z < 2 ^ (1 + F.eb + F.fb) ∧ x = F.zero p ∧ y = F.zero n ∧
        op = .sub) ∧
      (let F : Fmt := f32; let op : FOp := .mul; let x : Nat := 0x80000000; let y : Nat := 0; let z : Nat := 0; let p : Bool := true; let n : Bool := false;
        F ∈ [f64, f32, f16, bf16] ∧ x < 2 ^ (1 + F.eb + F.fb) ∧ y < 2 ^ (1 + F.eb + F.fb) ∧ z < 2 ^ (1 + F.eb + F.fb) ∧ x = F.zero p ∧ y = F.zero n ∧
        op = .mul) ∧
      (let F : Fmt := f32; let op : FOp := .fma; let x : Nat := 0x80000000; let y : Nat := 0; let z : Nat := 0x80000000; let p : Bool := true;
        let n : Bool := false; let r : Bool := true; F ∈ [f64, f32, f16, bf16] ∧ x < 2 ^ (1 + F.eb + F.fb) ∧ y < 2 ^ (1 + F.eb + F.fb) ∧
        z < 2 ^ (1 + F.eb + F.fb) ∧ x = F.zero p ∧ y = F.zero n ∧ op = .fma ∧ z = F.zero r)) ∧
    ((let F : Fmt := f32; let op : FOp := .add; let x : Nat := 0x40000000; let y : Nat := 0xC0000000; let z : Nat := 0; let p := false; let n := true;
        let m := 2 ^ 23; let e := -22; F ∈ [f64, f32, f16, bf16] ∧ x < 2 ^ (1 + F.eb + F.fb) ∧ y < 2 ^ (1 + F.eb + F.fb) ∧ z < 2 ^ (1 + F.eb + F.fb) ∧
        F.val x = .fin p m e ∧ F.val y = .fin n m e ∧ op = .add ∧ p ≠ n) ∧
      (let F : Fmt := f32; let op : FOp := .sub; let x : Nat := 0xC0000000; let y : Nat := 0xC0000000; let z : Nat := 0; let p := true; let n := true;
        let m := 2 ^ 23; let e := -22; F ∈ [f64, f32, f16, bf16] ∧ x < 2 ^ (1 + F.eb + F.fb) ∧ y < 2 ^ (1 + F.eb + F.fb) ∧ z < 2 ^ (1 + F.eb + F.fb) ∧
        F.val x = .fin p m e ∧ F.val y = .fin n m e ∧ op = .sub ∧ p = n) ∧
      (let F : Fmt := f32; let op : FOp := .fma; let x : Nat := 0x3F000000; let y : Nat := 0x40000000; let z : Nat := 0xBF800000; let p := false;
        let n := false; let r := true; let m1 := 2 ^ 23; let m2 := 2 ^ 23; let m3 := 2 ^ 23; let e1 := -24; let e2 := -22; let e3 := -23;
        F ∈ [f64, f32, f16, bf16] ∧ x < 2 ^ (1 + F.eb + F.fb) ∧ y < 2 ^ (1 + F.eb + F.fb) ∧ z < 2 ^ (1 + F.eb + F.fb) ∧ op = .fma ∧
        F.val x = .fin p m1 e1 ∧ F.val y = .fin n m2 e2 ∧ F.val z = .fin r m3 e3 ∧ r ≠ (p != n) ∧
        m1 * m2 * 2 ^ (e1 + e2 - e3).toNat = m3 * 2 ^ (e3 - (e1 + e2)).toNat)) :=
  ⟨by dsimp only; decide +kernel,
    by dsimp only; decide +kernel,
    by dsimp only; decide +kernel,
    by dsimp only; decide +kernel,
    by dsimp only; decide +kernel,
    by dsimp only; decide +kernel,
    by dsimp only; decide +kernel,
    by dsimp only; decide +kernel,
    by dsimp only; decide +kernel,
    by dsimp only; decide +kernel⟩

/-- The hypotheses of `OperandCodesReadTheirRegister`, clause by clause, can be met together. -/
theorem test_meets_OperandCodesReadTheirRegister :
    ((let w : Wave := aWave; let c : Code := 5; w.hold = none ∧ c.toNat ≤ 94) ∧
      (let w : Wave := aWave; let c : Code := 96; w.hold = none ∧ 96 ≤ c.toNat ∧ c.toNat ≤ 110) ∧
      (let w : Wave := aWave; let c : Code := 112; w.hold = none ∧ c.toNat = 112) ∧
      (let w : Wave := aWave; let c : Code := 5; w.hold = none ∧ c.toNat ≤ 63) ∧
      (let w : Wave := aWave; let c : Code := 5; w.hold = none ∧ c.toNat ≤ 62) ∧
      (let w : Wave := aWave; let c : Code := 114; w.hold = none ∧ c.toNat = 114) ∧
      (let w : Wave := aWave; let c : Code := 115; w.hold = none ∧ c.toNat = 115) ∧
      (let w : Wave := aWave; let c : Code := 120; w.hold = none ∧ 120 ≤ c.toNat) ∧
      (let w : Wave := aWave; w.hold = none)) :=
  by dsimp only; decide +kernel

/-- The hypotheses of `OperandsAreCheckedAtIssue`, clause by clause, can be met together. -/
theorem test_meets_OperandsAreCheckedAtIssue :
    ((let i : Instr := .madN32 32 2 3 false; let s : State := solo aWave; i.wellFormed = true ∧
        (∃ o ∈ i.operands, ∃ r ∈ o.rows, s.w.alloc ≤ s.w.wbase + r)) ∧
      (let i : Instr := .madN32 31 2 127 false; let s : State := solo { aWave with badQ := [7] }; i.wellFormed = true ∧
        (∀ o ∈ i.operands, ∀ r ∈ o.rows, s.w.wbase + r < s.w.alloc) ∧ ((match i with | .wsr _ _ => s.w.sup | _ => true) = true) ∧
        (∃ o ∈ i.operands, (∃ r ∈ o.srcRows, s.w.wbase + r ∈ s.w.badRows) ∨ ∃ k, latchOf o = some k ∧ k ∈ s.w.badQ))) :=
  by dsimp only; decide +kernel

/-- The hypotheses of `GathersWriteOneRegister`, clause by clause, can be met together. -/
theorem test_meets_GathersWriteOneRegister :
    ((let s : State := solo aWave; let d : Code := 7; let a : Code := 2; let nw : Bool := false; s.issues (.vany d a nw)) ∧
      (let s : State := solo aWave; let d : Code := 7; let a : Code := 2; let nw : Bool := false; s.issues (.vall d a nw)) ∧
      (let s : State := solo aWave; let d : Code := 7; let a : Code := 2; let nw : Bool := false; s.issues (.mpop d a nw)) ∧
      (let s : State := solo aWave; let d : Code := 7; let a : Code := 2; let nw : Bool := false; s.issues (.mffs d a nw)) ∧
      (let s : State := solo aWave; let d : Code := 7; let a : Code := 2; let b : Code := 3; let nw : Bool := false; s.issues (.bcast d a b nw)) ∧
      (let s : State := solo aWave; let d : Code := 7; let a : Code := 2; let nw : Bool := false; s.issues (.redaddN32 d a nw)) ∧
      (let s : State := solo aWave; let d : Code := 7; let a : Code := 2; let nw : Bool := false; s.issues (.redminS32 d a nw)) ∧
      (let s : State := solo aWave; let d : Code := 7; let a : Code := 2; let nw : Bool := false; s.issues (.redmaxS32 d a nw)) ∧
      (let s : State := solo aWave; let d : Code := 7; let a : Code := 2; let nw : Bool := false; s.issues (.redandN32 d a nw)) ∧
      (let s : State := solo aWave; let d : Code := 7; let a : Code := 2; let nw : Bool := false; s.issues (.redorN32 d a nw))) ∧
    ((let s : State := solo aWave; let d : Code := 7; let a : Code := 2; s.issues (.ballot d a)) ∧
      (let s : State := solo idleWave; let d : Code := 7; let a : Code := 2; let nw : Bool := false; s.issues (.redaddF32 d a nw) ∧ s.w.actives = []) ∧
      (let s : State := solo aWave; let d : Code := 7; let a : Code := 2; let nw : Bool := false; let t0 : Nat := 0; let ts : List Nat := [31,33];
        let r := fpSumAll (s.w.env none t0) ((t0 :: ts).map (fun t => f32.readF ((s.w.fsrOf t).getLsbD 11) (s.w.vr a t).toNat));
        s.issues (.redaddF32 d a nw) ∧ s.w.actives = t0 :: ts ∧ r.2 &&& s.w.enables t0 = 0)) :=
  ⟨by delta State.issues; dsimp only; decide +kernel,
    by delta State.issues; dsimp only; decide +kernel⟩

/-- The hypotheses of `ShufflesAndScansWriteARow`, clause by clause, can be met together. -/
theorem test_meets_ShufflesAndScansWriteARow :
    ((let s : State := solo aWave; let d : Code := 7; let a : Code := 2; let b : Code := 3; let nw : Bool := false; s.issues (.lsel d a b nw)) ∧
      (let s : State := solo aWave; let d : Code := 7; let a : Code := 2; let b : Code := 3; let nw : Bool := false; s.issues (.lbck d a b nw)) ∧
      (let s : State := solo aWave; let d : Code := 7; let a : Code := 2; let b : Code := 3; let nw : Bool := false; s.issues (.lfwd d a b nw)) ∧
      (let s : State := solo aWave; let d : Code := 7; let a : Code := 2; let b : Code := 3; let nw : Bool := false; s.issues (.lmir d a b nw)) ∧
      (let s : State := solo aWave; let d : Code := 7; let a : Code := 2; let nw : Bool := false; s.issues (.scanN32 d a nw)) ∧
      (let s : State := solo aWave; let d : Code := 7; let a : Code := 2; let nw : Bool := false; s.issues (.xscanN32 d a nw))) :=
  by delta State.issues; dsimp only; decide +kernel

/-- The hypotheses of `ExitEndsTheWave`, clause by clause, can be met together. -/
theorem test_meets_ExitEndsTheWave :
    ((let s : State := solo superWave; s.w.sup = true) ∧
      (let s : State := solo aWave; s.w.sup = false)) :=
  by dsimp only; decide +kernel

/-- The hypotheses of `TrapsEnterTheHandlerOrEndTheGrid`, clause by clause, can be met together. -/
theorem test_meets_TrapsEnterTheHandlerOrEndTheGrid :
    ((let s : State := solo aWave; let t : Trap := .state 0x12; t.cls < 256 ∧ t.sub < 256 ∧ t.code < 128 ∧ s.w.sup = false ∧
        s.w.tvecl.toNat + s.w.tvech.toNat % 2 ^ 17 * 2 ^ 32 ≠ 0) ∧
      (let s : State := solo { aWave with tvecl := 0 }; let t : Trap := .state 0x12; t.cls < 256 ∧ t.sub < 256 ∧ t.code < 128 ∧ s.g.ending = false ∧
        s.g.ended = false ∧ s.w.sup = false ∧ s.w.tvecl.toNat + s.w.tvech.toNat % 2 ^ 17 * 2 ^ 32 = 0) ∧
      (let s : State := solo superWave; let t : Trap := .state 0x12; t.cls < 256 ∧ t.sub < 256 ∧ t.code < 128 ∧ s.g.ending = false ∧ s.g.ended = false ∧
        s.w.sup = true) ∧
      (let s : State := solo aWave; s.w.tvecl.toNat + s.w.tvech.toNat % 2 ^ 17 * 2 ^ 32 ≠ 0 ∧ s.w.sup = false) ∧
      (let s : State := solo superWave; s.w.tvecl.toNat + s.w.tvech.toNat % 2 ^ 17 * 2 ^ 32 ≠ 0 ∧ s.w.sup = true ∧ s.g.ending = false ∧ s.g.ended = false)) :=
  by dsimp only; decide +kernel

/-- The hypotheses of `EretWindowAndLeave`, clause by clause, can be met together. -/
theorem test_meets_EretWindowAndLeave :
    ((let s : State := solo aWave; s.w.sup = false) ∧
      (let s : State := solo superWave; s.w.sup = true ∧ s.w.tokens.length + s.w.spilled = s.w.entryDepth) ∧
      (let s : State := solo { superWave with tokens := [tokenOf 0 0x10000] }; s.w.sup = true ∧ s.w.tokens.length + s.w.spilled ≠ s.w.entryDepth ∧
        s.g.ending = false ∧ s.g.ended = false) ∧
      (let s : State := solo aWave; let b : BitVec 6 := 4; s.w.alloc ≤ 8 * b.toNat) ∧
      (let s : State := solo aWave; let b : BitVec 6 := 3; 8 * b.toNat < s.w.alloc) ∧
      (let n : BitVec 7 := 5; n.toNat ≤ 5)) :=
  by dsimp only; decide +kernel

/-- The hypotheses of `SplitsPushTokens`, clause by clause, can be met together. -/
theorem test_meets_SplitsPushTokens :
    ((let s : State := solo (regs aWave [(57, 2), (58, 1), (59, 0)]); let here := fun b => s.w.wr (61 + b);
        let taken := fun b => here b &&& s.w.wr (57 + b); (∀ b, b < 3 → taken b = 0)) ∧
      (let s : State := solo (regs aWave [(57, 0x80000001), (58, 2), (59, 0)]); let here := fun b => s.w.wr (61 + b);
        let taken := fun b => here b &&& s.w.wr (57 + b); let falls := fun b => here b &&& ~~~ s.w.wr (57 + b); (∃ b, b < 3 ∧ taken b ≠ 0) ∧
        (∀ b, b < 3 → falls b = 0)) ∧
      (let s : State := solo aWave; let here := fun b => s.w.wr (61 + b); let taken := fun b => here b &&& s.w.wr (57 + b);
        let falls := fun b => here b &&& ~~~ s.w.wr (57 + b); (∃ b, b < 3 ∧ taken b ≠ 0) ∧ (∃ b, b < 3 ∧ falls b ≠ 0))) :=
  by dsimp only; decide +kernel

/-- The hypotheses of `JoinPopsByTheTopToken`, clause by clause, can be met together. -/
theorem test_meets_JoinPopsByTheTopToken :
    ((let s : State := solo aWave; s.w.tokens = [] ∧ s.w.spilled = 0) ∧
      (let s : State := solo { aWave with tokens := [tokenOf 1 0x400] }; let t : Token := tokenOf 1 0x400; let ts : List Token := []; s.w.tokens = t :: ts ∧
        t.kind = 1 ∧ t.live) ∧
      (let s : State := solo { aWave with tokens := [tokenOf 0 0x10000, tokenOf 0 8] }; let t : Token := tokenOf 0 0x10000;
        let ts : List Token := [tokenOf 0 8]; s.w.tokens = t :: ts ∧ t.kind = 0 ∧ t.addr = s.w.pc.toNat ∧ t.live) ∧
      (let s : State := solo { aWave with tokens := [tokenOf 0 0x10004, tokenOf 0 8] }; let t : Token := tokenOf 0 0x10004;
        let ts : List Token := [tokenOf 0 8]; s.w.tokens = t :: ts ∧ t.kind = 0 ∧ t.addr ≠ s.w.pc.toNat) ∧
      (let s : State := solo { aWave with tokens := [tokenOf 2 0x10004, tokenOf 0 8] }; let t : Token := tokenOf 2 0x10004;
        let ts : List Token := [tokenOf 0 8]; s.w.tokens = t :: ts ∧ t.kind = 2) ∧
      (let s : State := solo { aWave with tokens := [deadToken 1 0x10004, tokenOf 0 8] }; let t : Token := deadToken 1 0x10004;
        let u : Token := tokenOf 0 8; let ts : List Token := []; s.w.tokens = t :: u :: ts ∧ t.kind = 1 ∧ (¬ t.live) ∧ u.live ∧ u.kind = 0) ∧
      (let s : State := solo { aWave with tokens := [deadToken 1 0x10004, tokenOf 1 8] }; let t : Token := deadToken 1 0x10004;
        let u : Token := tokenOf 1 8; let ts : List Token := []; s.w.tokens = t :: u :: ts ∧ t.kind = 1 ∧ (¬ t.live) ∧ u.live ∧ u.kind = 1) ∧
      (let s : State := solo { aWave with tokens := [deadToken 1 0x10004] }; let t : Token := deadToken 1 0x10004; s.w.tokens = [t] ∧ s.w.spilled = 0 ∧
        t.kind = 1 ∧ (¬ t.live))) :=
  by delta Token.live; dsimp only; decide +kernel

/-- The hypotheses of `BrkLeavesTheLoop`, clause by clause, can be met together. -/
theorem test_meets_BrkLeavesTheLoop :
    ((let s : State := solo aWave; let off : BitVec 24 := 5; let above : List Token := [];
        let target := (BitVec.ofInt 49 (s.w.pc.toNat + 4 * off.toInt) : BitVec 49).toNat; let none_ := ∀ t ∈ above, ¬(t.kind = 0 ∧ t.addr = target);
        s.w.spilled = 0 ∧ s.w.tokens = above ∧ none_) ∧
      (let s : State := solo (regs { aWave with tokens := [tokenOf 1 0x300, tokenOf 2 8, tokenOf 0 0x10014] } [(57, 1)]); let off : BitVec 24 := 5;
        let above : List Token := [tokenOf 1 0x300]; let below : List Token := [tokenOf 0 0x10014];
        let target := (BitVec.ofInt 49 (s.w.pc.toNat + 4 * off.toInt) : BitVec 49).toNat; let none_ := ∀ t ∈ above, ¬(t.kind = 0 ∧ t.addr = target);
        let call := tokenOf 2 8; s.w.tokens = above ++ call :: below ∧ call.kind = 2 ∧ none_) ∧
      (let s : State := solo (regs { aWave with tokens := [tokenOf 1 0x300, tokenOf 0 0x10014, tokenOf 0 8] } [(57, 1)]); let off : BitVec 24 := 5;
        let above : List Token := [tokenOf 1 0x300]; let below : List Token := [tokenOf 0 8]; let loop : Token := tokenOf 0 0x10014;
        let target := (BitVec.ofInt 49 (s.w.pc.toNat + 4 * off.toInt) : BitVec 49).toNat; let b := fun k => s.w.wr (61 + k) &&& s.w.wr (57 + k);
        let none_ := ∀ t ∈ above, ¬(t.kind = 0 ∧ t.addr = target); s.w.tokens = above ++ loop :: below ∧ loop.kind = 0 ∧ loop.addr = target ∧ none_ ∧
        (∀ t ∈ above, t.kind ≠ 2) ∧ (∃ k, k < 3 ∧ s.w.wr (61 + k) &&& ~~~ b k ≠ 0)) ∧
      (let s : State := solo (regs { aWave with tokens := [tokenOf 1 0x300, tokenOf 0 0x10014, tokenOf 0 8] } [(57, 0xFFFFFFFF), (58, 2)]);
        let off : BitVec 24 := 5; let above : List Token := [tokenOf 1 0x300]; let below : List Token := [tokenOf 0 8];
        let loop : Token := tokenOf 0 0x10014; let target := (BitVec.ofInt 49 (s.w.pc.toNat + 4 * off.toInt) : BitVec 49).toNat;
        let b := fun k => s.w.wr (61 + k) &&& s.w.wr (57 + k);
        let cut := fun (t : Token) => (⟨t.kind, t.addr, t.m0 &&& ~~~ b 0, t.m1 &&& ~~~ b 1, t.m2 &&& ~~~ b 2⟩ : Token);
        let none_ := ∀ t ∈ above, ¬(t.kind = 0 ∧ t.addr = target); s.w.tokens = above ++ loop :: below ∧ loop.kind = 0 ∧ loop.addr = target ∧ none_ ∧
        (∀ t ∈ above, t.kind ≠ 2) ∧ (∀ k, k < 3 → s.w.wr (61 + k) &&& ~~~ b k = 0) ∧ (∃ k, k < 3 ∧ s.w.wr (61 + k) ≠ 0) ∧ loop.live ∧
        (∀ t ∈ above, ¬ (cut t).live))) :=
  by delta Token.live; dsimp only; decide +kernel

/-- The hypotheses of `SystemRegistersAreReadAndWritten`, clause by clause, can be met together. -/
theorem test_meets_SystemRegistersAreReadAndWritten :
    ((let s : State := solo { aWave with count := 0x123456789ABC }; let d : Code := 6; let n : Code := 0x12; let nw : Bool := false;
        s.issues (.rsr d n nw)) ∧
      (let s : State := solo { aWave with count := 0x123456789ABC }; let d : Code := 6; let n : Code := 0; let nw : Bool := false; s.issues (.vrsr d n nw)) ∧
      (let s : State := solo { aWave with count := 0x123456789ABC }; let d : Code := 6; let nw : Bool := false; s.issues (.clk d nw)) ∧
      (let s : State := solo aWave; let a : Code := 6; let n : Code := 0x12; (Instr.wsr a n).wellFormed = true ∧ s.w.sup = false) ∧
      (let s : State := solo (regs superWave [(6, 0xFFFFFFFF)]); let a : Code := 6; let n : Code := 0x11; s.issues (.wsr a n) ∧ s.w.sup = true) ∧
      (let s : State := solo superWave; let a : Code := 6; let n : Code := 0; s.issues (.vwsr a n))) :=
  by delta State.issues; dsimp only; decide +kernel

/-- The hypotheses of `AccessesIssueOrTrapWhole`, clause by clause, can be met together. -/
theorem test_meets_AccessesIssueOrTrapWhole :
    (let i : Instr := .ldN8 8 1 112 0; let s : State := solo memWave; let m : MemOp := ⟨.load false, 1, false, 8, 2, 112, 0⟩;
      let ps : List Place := okOr (s.places s.cur m.kind m.sc m.size (s.w.requests m)) [];
      s.places s.cur m.kind m.sc m.size (s.w.requests m) = .ok ps ∧ accessForm i = some m ∧ s.issues i ∧ s.w.quant = 0 ∧ s.w.mayCount m ∧
      m.isRelease = false ∧ s.w.requests m ≠ []) ∧
    (let i : Instr := .ldN8 8 1 112 0; let s : State := solo idleWave; let m : MemOp := (⟨.load false, 1, false, 8, 2, 112, 0⟩ : MemOp);
      let ps : List Place := []; s.places s.cur m.kind m.sc m.size (s.w.requests m) = .ok ps ∧ accessForm i = some m ∧ s.issues i ∧ s.w.quant = 0 ∧
      s.w.mayCount m ∧ (m.sc = 0 ∨ m.sc = 6) ∧ s.w.requests m = []) ∧
    (let i : Instr := .st32 8 1 112 5; let s : State := lined memWave; let m : MemOp := (⟨.store, 4, false, 8, 2, 112, 5⟩ : MemOp);
      let ps : List Place := okOr (s.places s.cur m.kind m.sc m.size (s.w.requests m)) [];
      let t := s.writeDown s.cur s.w.core (scopeLevel (BitVec.ofNat 3 m.sc)) |>.1; s.places s.cur m.kind m.sc m.size (s.w.requests m) = .ok ps ∧
      accessForm i = some m ∧ s.issues i ∧ s.w.quant = 0 ∧ s.w.mayCount m ∧ m.isRelease = true ∧ s.w.quiet = true ∧
      (s.writeDown s.cur s.w.core (scopeLevel (BitVec.ofNat 3 m.sc))).2 = none ∧ (m.sc = 5 → t.unacked = false) ∧ s.w.requests m ≠ [] ∧ t.w = s.w) ∧
    (let i : Instr := .ld32 4 1 9 0;
      let s : State := solo { memWave with v := memWave.v.set 9 (rowOf (fun t => if t = 31 then 2 else if t = 33 then 1 else 0)) };
      let m : MemOp := ⟨.load false, 4, false, 4, 2, 9, 0⟩; let pre : List Acc1 := [acc1 0 0x40000 (0) 0 none];
      let post : List Acc1 := [acc1 33 0x40109 (0) 0 none]; let a : Acc1 := acc1 31 0x400FA (0) 0 none; let tr : Trap := .xlat 3 0x400FA;
      s.place s.cur m.kind m.sc a.addr m.size = .error tr ∧ accessForm i = some m ∧ s.issues i ∧ s.w.quant = 0 ∧ s.w.mayCount m ∧ s.w.inflight = [] ∧
      s.w.requests m = pre ++ a :: post ∧ (∀ b ∈ pre, (s.place s.cur m.kind m.sc b.addr m.size).isOk = true)) :=
  ⟨⟨okSelf (by decide +kernel), by delta State.issues Wave.mayCount; decide +kernel⟩,
    ⟨okOf (by decide +kernel), by delta State.issues Wave.mayCount; decide +kernel⟩,
    ⟨okSelf (by decide +kernel), by delta State.issues Wave.mayCount; decide +kernel⟩,
    ⟨errOf (by decide +kernel), by delta State.issues Wave.mayCount; decide +kernel⟩⟩

/-- The hypotheses of `AccessesAreCheckedInOrder`, clause by clause, can be met together. -/
theorem test_meets_AccessesAreCheckedInOrder :
    ((let sc : Nat := 6; let a : Nat := 0x102; let size : Nat := 4; sc = 6 ∧ a % size ≠ 0) ∧
      (let s : State := solo aWave; let id : WaveId := ⟨1,0⟩; let sc : Nat := 6; let a : Nat := 0x10000; let size : Nat := 4;
        let c := s.crewOf (s.crewId id); let top := c.lsLen + c.waves * c.tokLen; sc = 6 ∧ a % size = 0 ∧ top < a + size) ∧
      (let s : State := solo aWave; let id : WaveId := ⟨1,0⟩; let k : MemKind := .store; let sc : Nat := 6; let a : Nat := 0x10000; let size : Nat := 4;
        let c := s.crewOf (s.crewId id); let writes := k ≠ .load false ∧ k ≠ .load true; sc = 6 ∧ a % size = 0 ∧ writes ∧ c.lsLen < a + size) ∧
      (let s : State := solo aWave; let id : WaveId := ⟨1,0⟩; let k : MemKind := .atomic 0; let sc : Nat := 6; let a : Nat := 0xFFFC; let size : Nat := 4;
        let c := s.crewOf (s.crewId id); let top := c.lsLen + c.waves * c.tokLen; let writes := k ≠ .load false ∧ k ≠ .load true; sc = 6 ∧
        a % size = 0 ∧ a + size ≤ top ∧ (writes → a + size ≤ c.lsLen)) ∧
      (let sc : Nat := 0; let a : Nat := 2 ^ 49; sc ≠ 6 ∧ 2 ^ 49 ≤ a) ∧
      (let sc : Nat := 5; let a : Nat := 2 ^ 49 - 1; let size : Nat := 4; sc ≠ 6 ∧ a < 2 ^ 49 ∧ a % size ≠ 0) ∧
      (let s : State := solo aWave; let id : WaveId := ⟨1,0⟩; let sc : Nat := 5; let a : Nat := 2 ^ 49 - 4; let size : Nat := 4;
        let n := (a - 0x1FFFFFFF00000) / 2 ^ 18; let crews := (s.gridOf id.g).crews; sc ≠ 6 ∧ 0x1FFFFFFF00000 ≤ a ∧ a < 2 ^ 49 ∧ a % size = 0 ∧
        crews ≤ n) ∧
      (let s : State := { solo aWave with grids := [(1, { ctx := 1, rows := 32, lrec := List.replicate 0x30 1 })] }; let id : WaveId := ⟨1,0⟩;
        let sc : Nat := 1; let a : Nat := 0x1FFFFFFF00010; let size : Nat := 8; let n := (a - 0x1FFFFFFF00000) / 2 ^ 18; let off := a % 2 ^ 18;
        let crews := (s.gridOf id.g).crews; let d : CrewId := ⟨id.g, (s.crewId id).n - (s.crewId id).n % crews + n⟩; sc ≠ 6 ∧ 0x1FFFFFFF00000 ≤ a ∧
        a < 2 ^ 49 ∧ a % size = 0 ∧ n < crews ∧ (aget s.crews d).isSome = true ∧ (s.crewOf d).ended = false ∧ off + size ≤ (s.crewOf d).lsLen) ∧
      (let s : State := crewed (fun c => { c with ended := true }) { solo aWave with grids := [(1, { ctx := 1, rows := 32, lrec := List.replicate 0x30 1 })] };
        let id : WaveId := ⟨1,0⟩; let sc : Nat := 1; let a : Nat := 0x1FFFFFFF00010; let size : Nat := 8; let n := (a - 0x1FFFFFFF00000) / 2 ^ 18;
        let off := a % 2 ^ 18; let crews := (s.gridOf id.g).crews; let d : CrewId := ⟨id.g, (s.crewId id).n - (s.crewId id).n % crews + n⟩; sc ≠ 6 ∧
        0x1FFFFFFF00000 ≤ a ∧ a < 2 ^ 49 ∧ a % size = 0 ∧ n < crews ∧
        ((aget s.crews d).isNone = true ∨ (s.crewOf d).ended = true ∨ (s.crewOf d).lsLen < off + size))) ∧
    (let s : State := { solo aWave with cores := [(0, { tlb := [⟨1, 0x40000, 0x10000, ⟨0x40000, 1, false, false, false, false, true, false⟩⟩] })] };
      let id : WaveId := ⟨1,0⟩; let sc : Nat := 0; let a : Nat := 0x40000; let size : Nat := 8; let w := s.wv id;
      let l := okOr (s.lookup w.core (s.ctxN id.g) a) ⟨0, 0, false, false, false, false, false, false⟩; s.lookup w.core (s.ctxN id.g) a = .ok l ∧
      s.leafLive l = .ok l ∧ sc ≠ 6 ∧ a < 0x1FFFFFFF00000 ∧ a % size = 0 ∧ l.r = false) ∧
    (let s : State := solo aWave; let id : WaveId := ⟨1,0⟩; let k : MemKind := .store; let sc : Nat := 0; let a : Nat := 0x50000; let size : Nat := 8;
      let w := s.wv id; let writes := k ≠ .load false ∧ k ≠ .load true;
      let l := okOr (s.lookup w.core (s.ctxN id.g) a) ⟨0, 0, false, false, false, false, false, false⟩; s.lookup w.core (s.ctxN id.g) a = .ok l ∧
      s.leafLive l = .ok l ∧ sc ≠ 6 ∧ a < 0x1FFFFFFF00000 ∧ a % size = 0 ∧ writes ∧ l.r = true ∧ l.w = false) ∧
    (let s : State := solo aWave; let id : WaveId := ⟨1,0⟩; let k : MemKind := .store; let sc : Nat := 0; let a : Nat := 0x40000; let size : Nat := 8;
      let w := s.wv id; let writes := k ≠ .load false ∧ k ≠ .load true;
      let l := okOr (s.lookup w.core (s.ctxN id.g) a) ⟨0, 0, false, false, false, false, false, false⟩; s.lookup w.core (s.ctxN id.g) a = .ok l ∧
      s.leafLive l = .ok l ∧ sc ≠ 6 ∧ a < 0x1FFFFFFF00000 ∧ a % size = 0 ∧ l.r = true ∧ (writes → l.w = true) ∧ aget s.frames (l.pa / 128) = none) ∧
    (let s : State := opened 2 (solo aWave); let id : WaveId := ⟨1,0⟩; let k : MemKind := .stc; let sc : Nat := 0; let a : Nat := 0x40078;
      let size : Nat := 8; let w := s.wv id; let writes := k ≠ .load false ∧ k ≠ .load true;
      let l := okOr (s.lookup w.core (s.ctxN id.g) a) ⟨0, 0, false, false, false, false, false, false⟩;
      let f := (aget s.frames (l.pa / 128)).getD (aFrame 0); s.lookup w.core (s.ctxN id.g) a = .ok l ∧ s.leafLive l = .ok l ∧ sc ≠ 6 ∧
      a < 0x1FFFFFFF00000 ∧ a % size = 0 ∧ l.r = true ∧ (writes → l.w = true) ∧ aget s.frames (l.pa / 128) = some f ∧ (k = .store ∨ k = .stc)) ∧
    (let s : State := opened 2 (solo aWave); let id : WaveId := ⟨1,0⟩; let k : MemKind := .load true; let sc : Nat := 0; let a : Nat := 0x40078;
      let size : Nat := 8; let w := s.wv id; let writes := k ≠ .load false ∧ k ≠ .load true;
      let l := okOr (s.lookup w.core (s.ctxN id.g) a) ⟨0, 0, false, false, false, false, false, false⟩;
      let f := (aget s.frames (l.pa / 128)).getD (aFrame 0); s.lookup w.core (s.ctxN id.g) a = .ok l ∧ s.leafLive l = .ok l ∧ sc ≠ 6 ∧
      a < 0x1FFFFFFF00000 ∧ a % size = 0 ∧ l.r = true ∧ (writes → l.w = true) ∧ aget s.frames (l.pa / 128) = some f ∧ (¬ writes)) ∧
    (let s : State := opened 2 (solo aWave); let id : WaveId := ⟨1,0⟩; let k : MemKind := .atomic 5; let sc : Nat := 0; let a : Nat := 0x40078;
      let size : Nat := 4; let w := s.wv id; let writes := k ≠ .load false ∧ k ≠ .load true;
      let l := okOr (s.lookup w.core (s.ctxN id.g) a) ⟨0, 0, false, false, false, false, false, false⟩;
      let f := (aget s.frames (l.pa / 128)).getD (aFrame 0); let op := match k with | .atomic n => n | _ => 0;
      s.lookup w.core (s.ctxN id.g) a = .ok l ∧ s.leafLive l = .ok l ∧ sc ≠ 6 ∧ a < 0x1FFFFFFF00000 ∧ a % size = 0 ∧ l.r = true ∧
      (writes → l.w = true) ∧ aget s.frames (l.pa / 128) = some f ∧ k = .atomic op ∧ (4 ≤ op ∨ (op < 2 ∧ f.tgt < 2))) ∧
    (let s : State := opened 2 (solo aWave); let id : WaveId := ⟨1,0⟩; let k : MemKind := .atomic 0; let sc : Nat := 0; let a : Nat := 0x40078;
      let size : Nat := 4; let w := s.wv id; let writes := k ≠ .load false ∧ k ≠ .load true;
      let l := okOr (s.lookup w.core (s.ctxN id.g) a) ⟨0, 0, false, false, false, false, false, false⟩;
      let f := (aget s.frames (l.pa / 128)).getD (aFrame 0); let op := match k with | .atomic n => n | _ => 0;
      s.lookup w.core (s.ctxN id.g) a = .ok l ∧ s.leafLive l = .ok l ∧ sc ≠ 6 ∧ a < 0x1FFFFFFF00000 ∧ a % size = 0 ∧ l.r = true ∧
      (writes → l.w = true) ∧ aget s.frames (l.pa / 128) = some f ∧ k = .atomic op ∧ op < 4 ∧ (op < 2 → 2 ≤ f.tgt) ∧ l.ap = true) ∧
    (let s : State := solo aWave; let id : WaveId := ⟨1,0⟩; let sc : Nat := 0; let a : Nat := 0x60000; let size : Nat := 8; let w := s.wv id;
      let e := errOr (s.lookup w.core (s.ctxN id.g) a) 0; s.lookup w.core (s.ctxN id.g) a = .error e ∧ sc ≠ 6 ∧ a < 0x1FFFFFFF00000 ∧ a % size = 0) :=
  ⟨by dsimp only; decide +kernel,
    ⟨okSelf (by decide +kernel), okSelf (by decide +kernel), by decide +kernel⟩,
    ⟨okSelf (by decide +kernel), okSelf (by decide +kernel), by decide +kernel⟩,
    ⟨okSelf (by decide +kernel), okSelf (by decide +kernel), by decide +kernel⟩,
    ⟨okSelf (by decide +kernel), okSelf (by decide +kernel), by decide +kernel⟩,
    ⟨okSelf (by decide +kernel), okSelf (by decide +kernel), by decide +kernel⟩,
    ⟨okSelf (by decide +kernel), okSelf (by decide +kernel), by decide +kernel⟩,
    ⟨okSelf (by decide +kernel), okSelf (by decide +kernel), by decide +kernel⟩,
    ⟨errSelf (by decide +kernel), by decide +kernel⟩⟩

/-- The hypotheses of `CompressStoresKeepTheirPlace`, clause by clause, can be met together. -/
theorem test_meets_CompressStoresKeepTheirPlace :
    ((let s : State := solo (stcWave 0x40000 4); let d : Code := 4; let a : BitVec 6 := 55; let wide : Bool := false;
        let i : Instr := if wide then .stcN64 d a 0 else .stcN32 d a 0; let n := s.w.actives.length; let first := (s.w.wr 60).toNat; s.issues i ∧
        s.w.quant = 0 ∧ s.w.st < 63 ∧ 48 ≤ a.toNat ∧ n < first) ∧
      (let s : State := solo (stcWave 0x40000 0); let d : Code := 4; let a : BitVec 6 := 55; let wide : Bool := true;
        let i : Instr := if wide then .stcN64 d a 0 else .stcN32 d a 0; let size := if wide then 8 else 4; let n := s.w.actives.length;
        let first := (s.w.wr 60).toNat; let element := fun (j : Nat) => ((s.w.wr2 (2 * a.toNat - 96)).toNat + size * j) % 2 ^ 64;
        let passes := fun (j : Nat) => (s.place s.cur .store 0 (element j) size).isOk = true; s.issues i ∧ s.w.quant = 0 ∧ s.w.st < 63 ∧
        48 ≤ a.toNat ∧ first ≤ n ∧ (∀ j, j < n → first ≤ j → passes j))) ∧
    (let s : State := solo (stcWave 0x4FFF8 0); let d : Code := 4; let a : BitVec 6 := 55; let wide : Bool := false;
      let i : Instr := if wide then .stcN64 d a 0 else .stcN32 d a 0; let size := if wide then 8 else 4; let n := s.w.actives.length;
      let first := (s.w.wr 60).toNat; let element := fun (j : Nat) => ((s.w.wr2 (2 * a.toNat - 96)).toNat + size * j) % 2 ^ 64;
      let passes := fun (j : Nat) => (s.place s.cur .store 0 (element j) size).isOk = true; let j := first + 2;
      let tr := errOr (s.place s.cur .store 0 (element j) size) { cls := 0 }; s.place s.cur .store 0 (element j) size = .error tr ∧ s.issues i ∧
      s.w.quant = 0 ∧ s.w.st < 63 ∧ 48 ≤ a.toNat ∧ first ≤ j ∧ j < n ∧ (∀ k, k < j → first ≤ k → passes k) ∧ tr.cls = 0x06 ∧
      (∀ k, k < n → first ≤ k → (match s.place s.cur .store 0 (element k) size with | .error e => e.cls == 0x06 | .ok _ => true) = true) ∧
      s.w.sup = false ∧ s.w.tvec ≠ 0) ∧
    (let s : State := opened 2 (solo (stcWave 0x40000 1)); let d : Code := 4; let a : BitVec 6 := 55; let wide : Bool := false;
      let i : Instr := if wide then .stcN64 d a 0 else .stcN32 d a 0; let size := if wide then 8 else 4; let n := s.w.actives.length;
      let first := (s.w.wr 60).toNat; let element := fun (j : Nat) => ((s.w.wr2 (2 * a.toNat - 96)).toNat + size * j) % 2 ^ 64; let j := first;
      let adr := element j; s.place s.cur .store 0 (element j) size = .error (.acc 0x01 adr) ∧ s.issues i ∧ s.w.quant = 0 ∧ s.w.st < 63 ∧
      48 ≤ a.toNat ∧ first ≤ j ∧ j < n ∧
      (∀ k, k < j → first ≤ k → (match s.place s.cur .store 0 (element k) size with | .error e => e.cls != 0x05 | .ok _ => true) = true)) :=
  ⟨by delta State.issues; dsimp only; decide +kernel,
    ⟨errSelf (by decide +kernel), by delta State.issues; decide +kernel⟩,
    ⟨errOf (by decide +kernel), by delta State.issues; decide +kernel⟩⟩

/-- The hypotheses of `LoadsDeliverWhatTheyRead`, clause by clause, can be met together. -/
theorem test_meets_LoadsDeliverWhatTheyRead :
    (let s : State := flying (flight (.load false) 1 0 (.row 8) [acc1 0 0x40010 0 0 (some 77)]); let id : WaveId := ⟨1,0⟩;
      let f : Flight := flight (.load false) 1 0 (.row 8) [acc1 0 0x40010 0 0 (some 77)]; let ps : List Place := [.mem 0x40010 0 0 0x40010];
      let sgn : Bool := false; s.canPerform id f ps ∧ f.kind = .load sgn ∧ (f.sc = 0 ∨ f.sc = 6) ∧ f.size ∈ [1, 2, 4, 8] ∧
      (∀ p ∈ f.accs.zip ps, p.1.got ≠ none ∨ (match p.2 with | .ls x _ => !(s.crewOf x).away | _ => false) = true)) ∧
    (let s : State := let t := flying (flight (.load false) 4 0 (.row 8) [acc1 33 0x40004 0 0 none]);
      { t with cores := [(0, { aCore with l1 := [(0x800, aLine)] })] }; let id : WaveId := ⟨1,0⟩;
      let f : Flight := (flight (.load false) 4 0 (.row 8) [acc1 33 0x40004 0 0 none]); let ps : List Place := [.mem 0x40004 1 1 0x40004];
      let sgn : Bool := false; let w := s.wv id; let a := (acc1 33 0x40004 0 0 none : Acc1); let pa := (0x40004 : Nat); let key := (1 : Nat);
      let ctx := (1 : Nat); let va := (0x40004 : Nat); let c := aLine; s.canPerform id f ps ∧ f.kind = .load sgn ∧ (f.sc = 0 ∨ f.sc = 6) ∧
      f.size ∈ [1, 2, 4, 8] ∧ f.sc = 0 ∧ f.accs = [a] ∧ a.got = none ∧ ps = [.mem pa key ctx va] ∧ aget s.frames (pa / 128) = none ∧
      s.l1Line w.core (pa / 128) = some c ∧ c.key = key ∧ s.l2Line w.core (pa / 128) = none ∧ s.scLine w.core (pa / 128) = none ∧
      (∀ i, i < f.size → c.bytes.getD (pa % 128 + i) .absent ≠ .absent)) ∧
    (let s : State := { flying (flight (.load false) 4 0 (.row 8) [acc1 33 0x40010 0 0 none]) with hbm := bytesAt 0x40010 [1,2,3,4,5,6,7,8,9,10], lineKey := [(0x800, 7)] };
      let id : WaveId := ⟨1,0⟩; let f : Flight := (flight (.load false) 4 0 (.row 8) [acc1 33 0x40010 0 0 none]);
      let ps : List Place := [.mem 0x40010 1 1 0x40010]; let sgn : Bool := false; let w := s.wv id; let a := (acc1 33 0x40010 0 0 none : Acc1);
      let pa := (0x40010 : Nat); let key := (1 : Nat); let ctx := (1 : Nat); let va := (0x40010 : Nat); s.canPerform id f ps ∧ f.kind = .load sgn ∧
      (f.sc = 0 ∨ f.sc = 6) ∧ f.size ∈ [1, 2, 4, 8] ∧ f.sc = 0 ∧ f.accs = [a] ∧ a.got = none ∧ ps = [.mem pa key ctx va] ∧
      aget s.frames (pa / 128) = none ∧ pa < deviceEnd ∧ pa % 128 + f.size ≤ 128 ∧ (s.coreOf w.core).l1 = [] ∧ s.l2 = [] ∧ s.sc = [] ∧
      aget s.remoteX (pa / 128) = none ∧ (∀ h, h < 2 → aget s.hostHalf (2 * (pa / 128) + h) = none) ∧ s.llcKey.length < sliceLines ∧
      (∀ k, aget s.llcKey (pa / 128) = some k → k = key)) :=
  ⟨⟨performOf (by decide +kernel), by decide +kernel⟩,
    ⟨performOf (by decide +kernel), by decide +kernel⟩,
    ⟨performOf (by decide +kernel), by decide +kernel⟩⟩

/-- The hypotheses of `StoresWriteTheirBytes`, clause by clause, can be met together. -/
theorem test_meets_StoresWriteTheirBytes :
    (let s : State := flying (flight .store 4 6 .none [acc1 0 0x10 0x11223344 0 none, acc1 33 0x10 0x55 0 none]); let id : WaveId := ⟨1,0⟩;
      let f : Flight := flight .store 4 6 .none [acc1 0 0x10 0x11223344 0 none, acc1 33 0x10 0x55 0 none];
      let ps : List Place := [.ls ⟨1,0⟩ 0x10, .ls ⟨1,0⟩ 0x10]; let c := (⟨1,0⟩ : CrewId); s.canPerform id f ps ∧ f.kind = .store ∧ f.sc = 6 ∧
      (s.crewOf c).bound = true ∧ (∀ p ∈ ps, (match p with | .ls x _ => x == c | _ => false) = true)) ∧
    (let s : State := flying (flight .store 1 0 .none [acc1 0 0x4007F 0xFF 0 none]); let id : WaveId := ⟨1,0⟩;
      let f : Flight := flight .store 1 0 .none [acc1 0 0x4007F 0xFF 0 none]; let ps : List Place := [.mem 0x4007F 1 1 0x4007F];
      let a := (acc1 0 0x4007F 0xFF 0 none : Acc1); let pa := (0x4007F : Nat); let key := (1 : Nat); let ctx := (1 : Nat); let va := (0x4007F : Nat);
      s.canPerform id f ps ∧ f.kind = .store ∧ f.sc = 0 ∧ f.accs = [a] ∧ ps = [.mem pa key ctx va] ∧ f.size ≤ 8 ∧ pa % 128 + f.size ≤ 128 ∧
      a.data < 256 ^ f.size ∧ (s.coreOf (s.wv id).core).l1.length < l1Lines ∧ aget s.frames (pa / 128) = none ∧
      s.l1Line (s.wv id).core (pa / 128) = none ∧ s.l2Line (s.wv id).core (pa / 128) = none ∧ s.scLine (s.wv id).core (pa / 128) = none) :=
  ⟨⟨performOf (by decide +kernel), by decide +kernel⟩,
    ⟨performOf (by decide +kernel), by decide +kernel⟩⟩

/-- The hypotheses of `AtomicsReturnTheOldValue`, clause by clause, can be met together. -/
theorem test_meets_AtomicsReturnTheOldValue :
    (let s : State := flying (flight (.atomic 11) 4 6 .none [acc1 33 0x18 7 0 none]); let id : WaveId := ⟨1,0⟩;
      let f : Flight := flight (.atomic 11) 4 6 .none [acc1 33 0x18 7 0 none]; let c : CrewId := ⟨1,0⟩; let o : Nat := 0x18; let op : Nat := 11;
      let a : Acc1 := acc1 33 0x18 7 0 none; s.canPerform id f [.ls c o] ∧ f.kind = .atomic op ∧ f.accs = [a] ∧ f.sc = 6 ∧ op < 15 ∧
      (f.size = (if op ∈ [1, 3, 12, 14] then 8 else 4)) ∧ (s.crewOf c).bound = true ∧ a.data < 256 ^ f.size) :=
  ⟨performOf (by decide +kernel), by decide +kernel⟩

/-- The hypotheses of `FencesReleaseAndAcquire`, clause by clause, can be met together. -/
theorem test_meets_FencesReleaseAndAcquire :
    (let s : State := solo aWave; let ln : Nat := 0x800; let ws : List (Nat × Byte) := [(3, 7), (127, 9), (3, 8)]; let i := (3 : Nat);
        let b := (8 : Byte); (∀ p ∈ ws, p.1 < 128) ∧ s.imageAt ln = none ∧ lastByte ws i = some b) ∧
    (let s : State := solo aWave; let cls : BitVec 4 := 14; let sc : BitVec 3 := 4; s.issues (.fence cls sc) ∧ s.w.quant = 0 ∧ s.atRest ∧
        cls.getLsbD 0 = false ∧ (cls.getLsbD 1 = false ∨ sc ≠ 5)) ∧
    (let s : State := solo aWave; let cls : BitVec 4 := 2; let sc : BitVec 3 := 5; s.issues (.fence cls sc) ∧ s.w.quant = 0 ∧ s.atRest ∧
        cls.getLsbD 0 = false ∧ cls.getLsbD 1 = true ∧ sc = 5 ∧ s.sysOut.unacked = false) ∧
    (let s : State := solo aWave; let cls : BitVec 4 := 15; let sc : BitVec 3 := 1; s.issues (.fence cls sc) ∧ s.w.quant = 0 ∧ s.atRest ∧
        cls.getLsbD 0 = true ∧ scopeLevel sc = 0 ∧ (s.writeDown s.cur s.w.core 0) = (s, none)) ∧
    (let s : State := { solo aWave with cores := [(0, { aCore with l1 := [(0x600, { aLine with va := 0x10000 })] })] }; let cls : BitVec 4 := 1;
        let sc : BitVec 3 := 3; let k := ((s.writeDown s.cur s.w.core (scopeLevel sc)).2.getD (0, 0)).1;
        let va := ((s.writeDown s.cur s.w.core (scopeLevel sc)).2.getD (0, 0)).2; s.issues (.fence cls sc) ∧ s.w.quant = 0 ∧ s.atRest ∧
        cls.getLsbD 0 = true ∧ scopeLevel sc ≠ 4 ∧ (s.writeDown s.cur s.w.core (scopeLevel sc)).2 = some (k, va)) ∧
    (let s : State := lined aWave; let cls : BitVec 4 := 1; let sc : BitVec 3 := 2; let k := ({ aCore with l1 := [(0x800, aLine)] } : Core);
        let ln := (0x800 : Nat); let c := aLine; s.issues (.fence cls sc) ∧ s.w.quant = 0 ∧ s.atRest ∧ cls.getLsbD 0 = true ∧
        s.cores = [(s.w.core, k)] ∧ k.l1 = [(ln, c)] ∧ s.l2 = [] ∧ s.sc = [] ∧ c.amo = false ∧ s.lineFault s.w.core c = none ∧
        s.walked s.w.core c.ctx c.va = s ∧ s.imageAt ln = none ∧ sc = 2) ∧
    (let s : State := lined aWave; let cls : BitVec 4 := 1; let sc : BitVec 3 := 3; let k := ({ aCore with l1 := [(0x800, aLine)] } : Core);
        let ln := (0x800 : Nat); let c := aLine; s.issues (.fence cls sc) ∧ s.w.quant = 0 ∧ s.atRest ∧ cls.getLsbD 0 = true ∧
        s.cores = [(s.w.core, k)] ∧ k.l1 = [(ln, c)] ∧ s.l2 = [] ∧ s.sc = [] ∧ c.amo = false ∧ s.lineFault s.w.core c = none ∧
        s.walked s.w.core c.ctx c.va = s ∧ s.imageAt ln = none ∧ sc = 3) ∧
    (let s : State := lined aWave; let cls : BitVec 4 := 1; let sc : BitVec 3 := 4; let k := ({ aCore with l1 := [(0x800, aLine)] } : Core);
        let ln := (0x800 : Nat); let c := aLine; s.issues (.fence cls sc) ∧ s.w.quant = 0 ∧ s.atRest ∧ cls.getLsbD 0 = true ∧
        s.cores = [(s.w.core, k)] ∧ k.l1 = [(ln, c)] ∧ s.l2 = [] ∧ s.sc = [] ∧ c.amo = false ∧ s.lineFault s.w.core c = none ∧
        s.walked s.w.core c.ctx c.va = s ∧ s.imageAt ln = none ∧ sc = 4) ∧
    (let s : State := lined aWave; let cls : BitVec 4 := 1; let sc : BitVec 3 := 5; let k := ({ aCore with l1 := [(0x800, aLine)] } : Core);
        let ln := (0x800 : Nat); let c := aLine; s.issues (.fence cls sc) ∧ s.w.quant = 0 ∧ s.atRest ∧ cls.getLsbD 0 = true ∧
        s.cores = [(s.w.core, k)] ∧ k.l1 = [(ln, c)] ∧ s.l2 = [] ∧ s.sc = [] ∧ c.amo = false ∧ s.lineFault s.w.core c = none ∧
        s.walked s.w.core c.ctx c.va = s ∧ s.imageAt ln = none ∧ sc = 5 ∧ (s.writeDown s.cur s.w.core 4).1.unacked = false ∧
        (cls.getLsbD 1 = true → s.sysOut.unacked = false) ∧
        (isSysLine ln = true → windowOf (ln * 128) = none ∧ s.sysMem.wf = true ∧ (s.llc.map (·.1)).Nodup)) :=
  ⟨by decide +kernel,
    by delta State.issues State.atRest; decide +kernel,
    by delta State.issues State.atRest; decide +kernel,
    by delta State.issues State.atRest; decide +kernel,
    by delta State.issues State.atRest; decide +kernel,
    by delta State.issues State.atRest; decide +kernel,
    by delta State.issues State.atRest; decide +kernel,
    by delta State.issues State.atRest; decide +kernel,
    by delta State.issues State.atRest; decide +kernel⟩

/-- The hypotheses of `CacheLinesMoveBetweenLevels`, clause by clause, can be met together. -/
theorem test_meets_CacheLinesMoveBetweenLevels :
    (let s : State := lined aWave; let core : Nat := 0; let ln : Nat := 0x800; let c : CLine := aLine; s.l1Line core ln = some c ∧
        (s.coreOf core).l1 = [(ln, c)] ∧ s.l2 = [] ∧ (∀ p ∈ s.cores, ∀ q ∈ p.2.l1, q.2.amo = false) ∧ c.amo = false) ∧
    (let s : State := lined (regs { memWave with v := memWave.v.set 9 zeroRow } [(61, 1), (62, 0)]); let a : BitVec 6 := 1; let b : Code := 9;
      let t0 : Nat := 0; let l : Leaf := ⟨0x40000, 1, true, true, false, false, true, true⟩; let c : CLine := aLine;
      let va := ((s.w.vr2 (BitVec.ofNat 7 (2 * a.toNat)) t0).toNat + (s.w.vr b t0).toInt % 2 ^ 64).toNat % 2 ^ 64; let ln := l.pa / 128;
      s.lookup s.w.core (s.ctxN s.cur.g) va = .ok l ∧ s.leafLive l = .ok l ∧ s.w.inflight = [] ∧ s.w.actives = [t0] ∧ va < 0x1FFFFFFF00000 ∧
      l.r = true ∧ l.w = true ∧ aget s.frames ln = none ∧ (s.coreOf s.w.core).l1 = [(ln, c)] ∧ c.amo = false ∧ s.l2 = [] ∧ s.sc = [] ∧
      s.imageAt ln = none ∧ s.walked s.w.core (s.ctxN s.cur.g) va = s ∧ s.issues (.cwb a b 4) ∧ s.w.st < 63) ∧
    (let s : State := lined (regs { memWave with v := memWave.v.set 9 zeroRow } [(61, 1), (62, 0)]); let a : BitVec 6 := 1; let b : Code := 9;
      let t0 : Nat := 0; let l : Leaf := ⟨0x40000, 1, true, true, false, false, true, true⟩; let c : CLine := aLine;
      let va := ((s.w.vr2 (BitVec.ofNat 7 (2 * a.toNat)) t0).toNat + (s.w.vr b t0).toInt % 2 ^ 64).toNat % 2 ^ 64; let ln := l.pa / 128;
      s.lookup s.w.core (s.ctxN s.cur.g) va = .ok l ∧ s.leafLive l = .ok l ∧ s.w.inflight = [] ∧ s.w.actives = [t0] ∧ va < 0x1FFFFFFF00000 ∧
      l.r = true ∧ l.w = true ∧ aget s.frames ln = none ∧ (s.coreOf s.w.core).l1 = [(ln, c)] ∧ c.amo = false ∧ s.l2 = [] ∧ s.sc = [] ∧
      s.imageAt ln = none ∧ s.walked s.w.core (s.ctxN s.cur.g) va = s ∧ s.issues (.cinv a b 4) ∧ s.w.st < 63) ∧
    (let s : State := lined (regs { memWave with v := memWave.v.set 9 zeroRow } [(61, 1), (62, 0)]); let a : BitVec 6 := 1; let b : Code := 9;
      let t0 : Nat := 0; let l : Leaf := ⟨0x40000, 1, true, true, false, false, true, true⟩; let c : CLine := aLine;
      let va := ((s.w.vr2 (BitVec.ofNat 7 (2 * a.toNat)) t0).toNat + (s.w.vr b t0).toInt % 2 ^ 64).toNat % 2 ^ 64; let ln := l.pa / 128;
      s.lookup s.w.core (s.ctxN s.cur.g) va = .ok l ∧ s.leafLive l = .ok l ∧ s.w.inflight = [] ∧ s.w.actives = [t0] ∧ va < 0x1FFFFFFF00000 ∧
      l.r = true ∧ l.w = true ∧ aget s.frames ln = none ∧ (s.coreOf s.w.core).l1 = [(ln, c)] ∧ c.amo = false ∧ s.l2 = [] ∧ s.sc = [] ∧
      s.imageAt ln = none ∧ s.walked s.w.core (s.ctxN s.cur.g) va = s ∧ s.issues (.cinvd a b 1) ∧ s.w.st < 63) ∧
    (let s : State := lined (regs { memWave with v := memWave.v.set 9 zeroRow, st := 63 } [(61, 1), (62, 0)]); let a : BitVec 6 := 1; let b : Code := 9;
      let t0 : Nat := 0; let l : Leaf := ⟨0x40000, 1, true, true, false, false, true, true⟩; let c : CLine := aLine;
      let va := ((s.w.vr2 (BitVec.ofNat 7 (2 * a.toNat)) t0).toNat + (s.w.vr b t0).toInt % 2 ^ 64).toNat % 2 ^ 64; let ln := l.pa / 128; let sc := 4;
      let i := (.cinvd 1 9 4 : Instr); s.lookup s.w.core (s.ctxN s.cur.g) va = .ok l ∧ s.leafLive l = .ok l ∧ s.w.inflight = [] ∧ s.w.actives = [t0] ∧
      va < 0x1FFFFFFF00000 ∧ l.r = true ∧ l.w = true ∧ aget s.frames ln = none ∧ (s.coreOf s.w.core).l1 = [(ln, c)] ∧ c.amo = false ∧ s.l2 = [] ∧
      s.sc = [] ∧ s.imageAt ln = none ∧ s.walked s.w.core (s.ctxN s.cur.g) va = s ∧ i ∈ [Instr.cwb a b sc, .cinv a b sc, .cinvd a b sc] ∧ s.issues i ∧
      s.w.quant = 0 ∧ s.w.hold = none ∧ 63 ≤ s.w.st) ∧
    (let s : State := lined (regs { memWave with v := memWave.v.set 9 zeroRow } [(61, 1), (62, 0)]); let a : BitVec 6 := 1; let b : Code := 9;
      let t0 : Nat := 0; let l : Leaf := ⟨0x40000, 1, true, true, false, false, true, true⟩; let c : CLine := aLine;
      let va := ((s.w.vr2 (BitVec.ofNat 7 (2 * a.toNat)) t0).toNat + (s.w.vr b t0).toInt % 2 ^ 64).toNat % 2 ^ 64; let ln := l.pa / 128;
      let sc := (4 : BitVec 3); s.lookup s.w.core (s.ctxN s.cur.g) va = .ok l ∧ s.leafLive l = .ok l ∧ s.w.inflight = [] ∧ s.w.actives = [t0] ∧
      va < 0x1FFFFFFF00000 ∧ l.r = true ∧ l.w = true ∧ aget s.frames ln = none ∧ (s.coreOf s.w.core).l1 = [(ln, c)] ∧ c.amo = false ∧ s.l2 = [] ∧
      s.sc = [] ∧ s.imageAt ln = none ∧ s.walked s.w.core (s.ctxN s.cur.g) va = s ∧ s.issues (.pref a b sc)) :=
  ⟨by decide +kernel,
    ⟨okOf (by decide +kernel), okOf (by decide +kernel), by delta State.issues; decide +kernel⟩,
    ⟨okOf (by decide +kernel), okOf (by decide +kernel), by delta State.issues; decide +kernel⟩,
    ⟨okOf (by decide +kernel), okOf (by decide +kernel), by delta State.issues; decide +kernel⟩,
    ⟨okOf (by decide +kernel), okOf (by decide +kernel), by delta State.issues; decide +kernel⟩,
    ⟨okOf (by decide +kernel), okOf (by decide +kernel), by delta State.issues; decide +kernel⟩⟩

/-- The hypotheses of `WaitsRetireOnTheirCondition`, clause by clause, can be met together. -/
theorem test_meets_WaitsRetireOnTheirCondition :
    ((let s : State := solo { aWave with vl := 2, ec := 15 }; let tv : BitVec 4 := 2; let tw : BitVec 4 := 0; let ts : BitVec 4 := 15;
        let te : BitVec 4 := 15; let tf : BitVec 4 := 0; let below := fun (t : BitVec 4) (n : Nat) => t = 15 ∨ n ≤ t.toNat;
        let counted := below tv s.w.vl ∧ below tw s.w.wl ∧ below ts s.w.st ∧ below te s.w.ec ∧ below tf s.w.fl; s.w.quant = 0 ∧ counted) ∧
      (let s : State := solo { aWave with vl := 2, ec := 15, quant := 4096 }; let tv : BitVec 4 := 2; let tw : BitVec 4 := 0; let ts : BitVec 4 := 15;
        let te : BitVec 4 := 15; let tf : BitVec 4 := 0; let below := fun (t : BitVec 4) (n : Nat) => t = 15 ∨ n ≤ t.toNat;
        let counted := below tv s.w.vl ∧ below tw s.w.wl ∧ below ts s.w.st ∧ below te s.w.ec ∧ below tf s.w.fl; s.w.quant ≠ 0 ∧ te = 15 ∧ counted) ∧
      (let s : State := solo { aWave with vl := 3 }; let tv : BitVec 4 := 2; let tw : BitVec 4 := 0; let ts : BitVec 4 := 15; let te : BitVec 4 := 15;
        let tf : BitVec 4 := 0; let below := fun (t : BitVec 4) (n : Nat) => t = 15 ∨ n ≤ t.toNat;
        let counted := below tv s.w.vl ∧ below tw s.w.wl ∧ below ts s.w.st ∧ below te s.w.ec ∧ below tf s.w.fl; s.w.quant = 0 ∧ s.w.hold = none ∧
        (¬ counted))) ∧
    ((let s : State := solo { aWave with vl := 3 }; s.w.quant = 0 ∧ s.w.hold = none ∧ s.nextPending s.w.core = none) ∧
      (let s : State := solo { aWave with vl := 3 }; let a : Code := 6; let n := (s.w.ws a).toNat; s.issues (.cwait a) ∧ s.w.quant = 0 ∧
        (n + 2 ^ 32 - s.w.next) % 2 ^ 32 < 2 ^ 31) ∧
      (let s : State := solo (regs { aWave with next := 5 } [(6, 4), (7, 0)]); let a : Code := 6; let n := (s.w.ws a).toNat; s.issues (.cwait a) ∧
        s.w.quant = 0 ∧ 2 ^ 31 ≤ (n + 2 ^ 32 - s.w.next) % 2 ^ 32 ∧ s.openBatches s.cur = [])) ∧
    ((let s : State := crewed (fun c => { c with tags := 12 }) (solo (regs { aWave with next := 5 } [(6, 4), (7, 0)])); let a : Code := 6;
        let m := s.w.wr2 a.toNat; s.w.quant = 0 ∧ (s.cr.tags &&& m ≠ 0 ∨ m = 0)) ∧
      (let s : State := solo { aWave with vl := 3 }; let a : Code := 6; let m := s.w.wr2 a.toNat; s.w.quant = 0 ∧ s.w.hold = none ∧ s.cr.tags &&& m = 0 ∧
        m ≠ 0) ∧
      (let s : State := crewed (fun c => { c with tags := 12 }) (solo (regs { aWave with next := 5 } [(6, 4), (7, 0)])); let a : Code := 6;
        let m := s.w.wr2 a.toNat; s.w.quant = 0 ∧ s.cr.tags &&& m = m)) ∧
    ((let s : State := solo { aWave with vl := 3 }; let a : Code := 6; let m := s.w.wr2 a.toNat; s.w.quant = 0 ∧ s.w.hold = none ∧ s.cr.tags &&& m ≠ m) ∧
      (let s : State := coopGrid (solo aWave); let a : Code := 4; let va := (s.w.ws2 a).toNat; s.w.quant = 0 ∧ va < 2 ^ 49 ∧ va % 8 ≠ 0) ∧
      (let s : State := solo (regs aWave [(4, 0x40004), (5, 0)]); s.w.quant = 0 ∧ s.g.coop = false)) ∧
    ((let s : State := coopGrid (solo aWave);
        let arrived := fun (id : WaveId) => id = s.cur ∨ s.w.gphase < (s.wv id).gphase ∨ ((s.wv id).gphase = s.w.gphase ∧ (s.wv id).gArrived = true);
        s.plain ∧ s.g.coop = true ∧ (∀ id ∈ s.live s.cur.g, arrived id)) ∧
      (let s : State := coopGrid (mate { aWave with slot := 1 } (solo aWave));
        let arrived := fun (id : WaveId) => id = s.cur ∨ s.w.gphase < (s.wv id).gphase ∨ ((s.wv id).gphase = s.w.gphase ∧ (s.wv id).gArrived = true);
        s.plain ∧ s.g.coop = true ∧ (∃ id ∈ s.live s.cur.g, ¬ arrived id) ∧ s.w.hold = none ∧ s.w.gArrived = false)) ∧
    (let s : State := solo (regs aWave [(4, 0x40008), (5, 0), (6, 0), (7, 0)]); let a : Code := 4; let b : Code := 6;
      let l : Leaf := ⟨0x40008, 1, true, true, false, false, true, true⟩; let va := (s.w.ws2 a).toNat;
      let p := Place.mem l.pa l.key (s.ctxN s.cur.g) va; let r := s.walked s.w.core (s.ctxN s.cur.g) va;
      let word := (r.touchPlace s.w.core 4 p 8).readPlace s.w.core 4 p 8; let refused := (s.peerFor l.pa).isSome && s.refuses s.w.core l.pa;
      s.check s.w.core (s.ctxN s.cur.g) va 8 .load = .ok l ∧ s.w.quant = 0 ∧ s.readBad s.w p 8 = false ∧ refused = false ∧ s.w.inflight = [] ∧
      (s.w.ws2 b).toNat ≤ word) ∧
    (let s : State := solo (regs aWave [(4, 0x40008), (5, 0), (6, 1), (7, 0)]); let a : Code := 4; let b : Code := 6;
      let l : Leaf := ⟨0x40008, 1, true, true, false, false, true, true⟩; let va := (s.w.ws2 a).toNat;
      let p := Place.mem l.pa l.key (s.ctxN s.cur.g) va; let r := s.walked s.w.core (s.ctxN s.cur.g) va;
      let word := (r.touchPlace s.w.core 4 p 8).readPlace s.w.core 4 p 8; let refused := (s.peerFor l.pa).isSome && s.refuses s.w.core l.pa;
      s.check s.w.core (s.ctxN s.cur.g) va 8 .load = .ok l ∧ s.w.quant = 0 ∧ s.w.hold = none ∧ s.readBad s.w p 8 = false ∧ refused = false ∧
      word < (s.w.ws2 b).toNat) :=
  ⟨by dsimp only; decide +kernel,
    by delta State.issues; dsimp only; decide +kernel,
    by dsimp only; decide +kernel,
    by dsimp only; decide +kernel,
    by delta State.plain; dsimp only; decide +kernel,
    ⟨okOf (by decide +kernel), by decide +kernel⟩,
    ⟨okOf (by decide +kernel), by decide +kernel⟩⟩

/-- The hypotheses of `BarriersAndStreamsSynchroniseACrew`, clause by clause, can be met together. -/
theorem test_meets_BarriersAndStreamsSynchroniseACrew :
    ((let s : State := solo aWave; let d : Code := 3; let a : Code := 6; let n := d.toNat; let x := (s.w.wr2 a.toNat).toNat; s.w.quant = 0 ∧ s.w.buf = [] ∧
        n < 16 ∧ (aget s.waves s.cur).isSome = true ∧ (x % 2 ^ 10 = 0 ∨ x / 2 ^ 10 % 2 ^ 22 ≠ 0 ∨ 2 ^ 33 ≤ x)) ∧
      (let s : State := solo (regs aWave [(6, 2), (7, 1)]); let d : Code := 3; let a : Code := 6; let n := d.toNat; let x := (s.w.wr2 a.toNat).toNat;
        s.w.quant = 0 ∧ s.w.buf = [] ∧ n < 16 ∧ (aget s.waves s.cur).isSome = true ∧ x % 2 ^ 10 ≠ 0 ∧ x / 2 ^ 10 % 2 ^ 22 = 0 ∧ x < 2 ^ 33) ∧
      (let s : State := solo aWave; let d : Code := 3; let n := d.toNat; let b := s.cr.bar n; s.w.quant = 0 ∧ s.w.buf = [] ∧ n < 16 ∧
        (aget s.waves s.cur).isSome = true ∧ (b.mem = 0 ∨ b.mem ≤ b.arr)) ∧
      (let s : State := barred 2 ⟨1, false, 1, 2, 0⟩ ({ solo aWave with cores := [(0, { aCore with l1 := [(0x600, { aLine with va := 0x10000 })] })] });
        let d : Code := 2; let n := d.toNat; let b := s.cr.bar n; let k := ((s.writeDown s.cur s.w.core 0).2.getD (0, 0)).1;
        let va := ((s.writeDown s.cur s.w.core 0).2.getD (0, 0)).2; s.w.quant = 0 ∧ s.w.buf = [] ∧ n < 16 ∧ (aget s.waves s.cur).isSome = true ∧
        s.w.inflight = [] ∧ b.arr < b.mem ∧ (s.writeDown s.cur s.w.core 0).2 = some (k, va))) ∧
    ((let s : State := barred 3 ⟨0, true, 1, 3, 0⟩ (solo aWave); let d : Code := 3; let n := d.toNat; let b := s.cr.bar n;
        let clean := s.writeDown s.cur s.w.core 0 = (s, none); s.w.quant = 0 ∧ s.w.buf = [] ∧ n < 16 ∧ (aget s.waves s.cur).isSome = true ∧ clean ∧
        s.w.inflight = [] ∧ b.arr < b.mem ∧ (b.arr + 1 < b.mem ∨ b.pend ≠ 0)) ∧
      (let s : State := barred 3 ⟨0, false, 2, 3, 0⟩ (mate { aWave with arm := 8, slot := 1 } (solo aWave)); let d : Code := 3; let n := d.toNat;
        let b := s.cr.bar n; let clean := s.writeDown s.cur s.w.core 0 = (s, none); s.w.quant = 0 ∧ s.w.buf = [] ∧ n < 16 ∧
        (aget s.waves s.cur).isSome = true ∧ clean ∧ s.w.inflight = [] ∧ b.arr + 1 = b.mem ∧ b.pend = 0 ∧ b.held = 0) ∧
      (let s : State := solo aWave; let d : Code := 3; let n := d.toNat; let b := s.cr.bar n; s.w.quant = 0 ∧ s.w.buf = [] ∧ n < 16 ∧
        (aget s.waves s.cur).isSome = true ∧ b.mem = 0) ∧
      (let s : State := barred 3 ⟨0, false, 1, 3, 0⟩ (solo { aWave with arm := 8, done := 8 }); let d : Code := 3; let n := d.toNat; let b := s.cr.bar n;
        s.w.quant = 0 ∧ s.w.buf = [] ∧ n < 16 ∧ (aget s.waves s.cur).isSome = true ∧ b.mem ≠ 0 ∧ s.w.arm.getLsbD n = true ∧ s.w.done.getLsbD n = true)) ∧
    ((let s : State := barred 3 ⟨0, true, 1, 3, 0⟩ (solo aWave); let d : Code := 3; let n := d.toNat; let b := s.cr.bar n; s.w.quant = 0 ∧ s.w.buf = [] ∧
        n < 16 ∧ (aget s.waves s.cur).isSome = true ∧ b.mem ≠ 0 ∧ s.w.hold = none ∧ (s.w.arm.getLsbD n = true → s.w.done.getLsbD n = false)) ∧
      (let s : State := solo aWave; let d : Code := 3; let a : Code := 6; let n := d.toNat; let b := s.cr.bar n; s.w.quant = 0 ∧ s.w.buf = [] ∧ n < 16 ∧
        (aget s.waves s.cur).isSome = true ∧ s.issues (.bexp d a) ∧ b.mem = 0) ∧
      (let s : State := barred 3 ⟨0xFFFFFF, false, 1, 3, 0⟩ (solo aWave); let d : Code := 3; let a : Code := 6; let n := d.toNat; let b := s.cr.bar n;
        s.w.quant = 0 ∧ s.w.buf = [] ∧ n < 16 ∧ (aget s.waves s.cur).isSome = true ∧ s.issues (.bexp d a) ∧ b.mem ≠ 0 ∧
        2 ^ 24 - 1 < b.pend + (s.w.ws a).toNat) ∧
      (let s : State := barred 3 ⟨0, true, 1, 3, 0⟩ (solo aWave); let d : Code := 3; let a : Code := 6; let n := d.toNat; let b := s.cr.bar n;
        s.w.quant = 0 ∧ s.w.buf = [] ∧ n < 16 ∧ (aget s.waves s.cur).isSome = true ∧ s.issues (.bexp d a) ∧ b.mem ≠ 0 ∧
        b.pend + (s.w.ws a).toNat < 2 ^ 24)) ∧
    ((let s : State := streamed 1 ⟨4, [7]⟩ (solo (regs aWave [(20, 0), (21, 0)])); let a : Code := 20; let n : Code := (16 : Code);
        let x := (s.w.wr2 a.toNat).toNat; s.w.quant = 0 ∧ s.w.buf = [] ∧ s.w.inflight = [] ∧ 16 ≤ n.toNat ∧ n.toNat ≤ 19 ∧ (x < 4 ∨ 16 < x)) ∧
      (let s : State := streamed 1 ⟨4, [7]⟩ (solo (regs aWave [(20, 4), (21, 0)])); let a : Code := 20; let n : Code := (16 : Code);
        let x := (s.w.wr2 a.toNat).toNat; s.w.quant = 0 ∧ s.w.buf = [] ∧ s.w.inflight = [] ∧ 16 ≤ n.toNat ∧ n.toNat ≤ 19 ∧ 4 ≤ x ∧ x ≤ 16 ∧
        (∀ y ∈ s.cr.xfers, y.stage ≠ 1)) ∧
      (let s : State := solo aWave; let b : Code := 1; let q := s.cr.stream b.toNat; s.w.quant = 0 ∧ s.w.buf = [] ∧ s.w.inflight = [] ∧ q.depth = 0) ∧
      (let s : State := streamed 1 ⟨4, []⟩ ({ solo aWave with cores := [(0, { aCore with l1 := [(0x600, { aLine with va := 0x10000 })] })] });
        let b : Code := 1; let q := s.cr.stream b.toNat; let k := ((s.writeDown s.cur s.w.core 0).2.getD (0, 0)).1;
        let va := ((s.writeDown s.cur s.w.core 0).2.getD (0, 0)).2; s.w.quant = 0 ∧ s.w.buf = [] ∧ s.w.inflight = [] ∧ q.depth ≠ 0 ∧
        (s.writeDown s.cur s.w.core 0).2 = some (k, va))) ∧
    ((let s : State := streamed 1 ⟨2, [7, 8]⟩ (solo aWave); let b : Code := 1; let q := s.cr.stream b.toNat;
        let clean := s.writeDown s.cur s.w.core 0 = (s, none); s.w.quant = 0 ∧ s.w.buf = [] ∧ s.w.inflight = [] ∧ clean ∧ q.depth ≠ 0 ∧
        q.depth ≤ q.ents.length) ∧
      (let s : State := streamed 1 ⟨2, []⟩ (solo aWave); let b : Code := 1; let q := s.cr.stream b.toNat;
        let clean := s.writeDown s.cur s.w.core 0 = (s, none); s.w.quant = 0 ∧ s.w.buf = [] ∧ s.w.inflight = [] ∧ clean ∧ q.ents.length < q.depth) ∧
      (let s : State := streamed 1 ⟨2, []⟩ (solo aWave); let b : Code := 1; let q := s.cr.stream b.toNat; s.w.quant = 0 ∧ s.w.buf = [] ∧ s.w.inflight = [] ∧
        q.depth ≠ 0 ∧ q.ents = [] ∧ s.w.hold = none) ∧
      (let s : State := streamed 1 ⟨2, [7, 8]⟩ (solo aWave); let b : Code := 1; let q := s.cr.stream b.toNat; let e := 7; let es := [8]; s.w.quant = 0 ∧
        s.w.buf = [] ∧ s.w.inflight = [] ∧ q.depth ≠ 0 ∧ q.ents = e :: es)) :=
  ⟨by dsimp only; decide +kernel,
    by dsimp only; decide +kernel,
    by delta State.issues; dsimp only; decide +kernel,
    by dsimp only; decide +kernel,
    by dsimp only; decide +kernel⟩

/-- The hypotheses of `CopiesBatchesAndTags`, clause by clause, can be met together. -/
theorem test_meets_CopiesBatchesAndTags :
    ((let i : Instr := .copy 20 30; let s : State := solo (copyWave 0x30001005); let a : Code := 20; let b : Code := 30; let minor : Nat := 0;
        let g := s.w.copyArgs minor a.toNat b.toNat; let ctl := (s.w.ws b).toNat;
        ((i = .copy a b ∧ minor = 0) ∨ (i = .copybox a b ∧ minor = 1) ∨ (i = .copyred a b ∧ minor = 2)) ∧ s.issues i ∧ s.plain ∧
        (ctl / 2 ^ 12 % 8 ≠ 0 ∨ ctl / 2 ^ 15 % 32 < ctl / 2 ^ 20 % 32 ∨ g.len < 4 ∨ 65536 < g.len)) ∧
      (let i : Instr := .copy 20 30; let s : State := solo (copyWave 0x30000005); let a : Code := 20; let b : Code := 30; let minor : Nat := 0;
        let g := s.w.copyArgs minor a.toNat b.toNat; let ctl := (s.w.ws b).toNat; let tag := ctl % 2 ^ 6;
        ((i = .copy a b ∧ minor = 0) ∨ (i = .copybox a b ∧ minor = 1) ∨ (i = .copyred a b ∧ minor = 2)) ∧ s.issues i ∧ s.plain ∧
        s.copyTrap minor g = none ∧ (∀ x ∈ s.cr.xfers, x.tag ≠ tag)) ∧
      (let s : State := crewed (fun c => { c with tags := 0x28 }) (solo (regs { aWave with next := 5, openBatch := [3] } [(6, 5), (7, 0)])); s.w.quant = 0 ∧
        (s.openBatches s.cur).length < 16 ∧ s.w.next < 2 ^ 32) ∧
      (let s : State := moving (aXfer 0 (aSlice 3 0 false) [] none 0) (solo { aWave with next := 20, sealed := tab 16 (fun k => ⟨k, [9]⟩) });
        s.w.quant = 0 ∧ 16 ≤ (s.openBatches s.cur).length ∧ s.w.hold = none) ∧
      (let s : State := crewed (fun c => { c with tags := 0x28 }) (solo (regs { aWave with next := 5, openBatch := [3] } [(6, 5), (7, 0)]));
        let a : Code := 6; let found := s.cr.tags &&& s.w.wr2 a.toNat; s.w.quant = 0 ∧ found = 0) ∧
      (let s : State := crewed (fun c => { c with tags := 0x28 }) (solo (regs { aWave with next := 5, openBatch := [3] } [(6, 0xFFFFFFF8), (7, 0)]));
        let a : Code := 6; let found := s.cr.tags &&& s.w.wr2 a.toNat; let n := (3 : Nat); s.w.quant = 0 ∧ n < 64 ∧ found.getLsbD n = true ∧
        (∀ k, k < n → found.getLsbD k = false)) ∧
      (let s : State := crewed (fun c => { c with tags := 0x28 }) (solo (regs { aWave with next := 5, openBatch := [3] } [(6, 5), (7, 0)])); s.w.quant = 0)) :=
  by delta State.issues State.plain; dsimp only; decide +kernel

/-- The hypotheses of `GridTransfersArePosted`, clause by clause, can be met together. -/
theorem test_meets_GridTransfersArePosted :
    ((let s : State := solo (viewWave 0x24 0x40000); let a : Code := 20; let fw := (s.w.wr (a.toNat + 6)).toNat; s.plain ∧
        (2 ^ 8 ≤ fw ∨ fw.testBit 2 = true ∨ fw / 32 % 4 = 0)) ∧
      (let s : State := solo (viewWave 0x20 0x40000); let a : Code := 20; let fw := (s.w.wr (a.toNat + 6)).toNat;
        let size := match fw % 4 with | 0 => 8 | 1 => 4 | _ => 2; let va := (s.w.wr2 a.toNat).toNat; s.plain ∧
        badView (s.w.viewOf a.toNat) (s.w.wr (a.toNat + 3)).toNat fw = false ∧ va % size = 0 ∧ (s.w.wr (a.toNat + 4)).toInt % size = 0 ∧
        (s.w.wr (a.toNat + 5)).toInt % size = 0) ∧
      (let s : State := solo (regs (viewWave 0x20 0x40000) [(27, 64)]); let d : Code := 3; let a : Code := 20; let b : Code := 27;
        let shape := (s.w.ws b).toNat; s.plain ∧ s.issues (.gstn d a b) ∧ 2 ^ 6 ≤ shape) ∧
      (let s : State := viewed (solo (regs aWave [(20, 0), (21, 0), (27, 0x1000005)])); let a : Code := 20; let b : Code := 27;
        let shape := (s.w.ws b).toNat; let i := Instr.grst 20 27; let minor := (2:Nat); s.plain ∧
        ((i = .grst a b ∧ minor = 2) ∨ (i = .gprol a b ∧ minor = 3) ∨ (i = .gproladd a b ∧ minor = 4) ∨ (i = .gred a b ∧ minor = 5)) ∧ s.issues i ∧
        s.gridTrap minor shape (s.w.wr a.toNat).toNat (s.w.wr (a.toNat + 1)).toNat = none)) ∧
    (let s : State := paged (tab 64 (fun i => BitVec.ofNat 8 i)) (solo (viewWave 0x20 0x40000)); let d : Code := 3; let a : Code := 20;
      let b : Code := 27; let shape := (s.w.ws b).toNat; let va := (s.w.wr2 a.toNat).toNat;
      let count := (shape % 4 + 1) * (shape / 4 % 4 + 1) * (shape / 16 % 4 + 1); let bs := (okOr (s.uniRead va (4 * count) 4) ([], s)).1;
      let r := (okOr (s.uniRead va (4 * count) 4) ([], s)).2; s.uniRead va (4 * count) 4 = .ok (bs, r) ∧ s.plain ∧ s.issues (.gstn d a b) ∧
      shape < 2 ^ 6) :=
  ⟨by delta State.issues State.plain; dsimp only; decide +kernel,
    ⟨okPair (by decide +kernel), by delta State.issues State.plain; decide +kernel⟩⟩

/-- The hypotheses of `EngineEventsCompleteTransfers`, clause by clause, can be met together. -/
theorem test_meets_EngineEventsCompleteTransfers :
    ((let s : State := moving (aXfer 0 (aSlice 3 0 false) [⟨0, 0x100, 0x200, 64, 0, 0⟩] none 0) (crewed (fun c => { c with ls := bytesAt 0x100 [1,2,3] }) (solo aWave));
        let c : CrewId := ⟨1,0⟩; let x : Xfer := aXfer 0 (aSlice 3 0 false) [⟨0, 0x100, 0x200, 64, 0, 0⟩] none 0; let p : Slice := aSlice 3 0 false;
        let k := s.crewOf c; let u := (⟨0, 0x100, 0x200, 64, 0, 0⟩ : XUnit); s.running c x.tag = some x ∧ k.bound = true ∧ k.lsBad = [] ∧
        x.slices = [p] ∧ p.part = 0 ∧ k.xfers = [x] ∧ x.job = none ∧ x.minor = 0 ∧ x.stage = 0 ∧ x.units = [u] ∧ u.st = 0 ∧ u.part = 0 ∧ p.dir = 3 ∧
        p.bm = 0 ∧ p.sp = false) ∧
      (let s : State := moving (aXfer 0 (aSlice 3 2 false) [⟨0, 0x100, 0x200, 64, 0, 0⟩] none 0) (barred 2 ⟨65, false, 1, 3, 0⟩ (solo aWave));
        let c : CrewId := ⟨1,0⟩; let x : Xfer := aXfer 0 (aSlice 3 2 false) [⟨0, 0x100, 0x200, 64, 0, 0⟩] none 0; let p : Slice := aSlice 3 2 false;
        let k := s.crewOf c; let u := (⟨0, 0x100, 0x200, 64, 0, 0⟩ : XUnit); s.running c x.tag = some x ∧ k.bound = true ∧ k.lsBad = [] ∧
        x.slices = [p] ∧ p.part = 0 ∧ k.xfers = [x] ∧ x.job = none ∧ x.minor = 0 ∧ x.stage = 0 ∧ x.units = [u] ∧ u.st = 0 ∧ u.part = 0 ∧ p.dir = 3 ∧
        p.bm = 2 ∧ p.sp = false ∧ u.len < (k.bar p.bar).pend) ∧
      (let s : State := moving (aXfer 0 (aSlice 3 0 true) [] none 1) (streamed 1 ⟨2, [4]⟩ (solo aWave)); let c : CrewId := ⟨1,0⟩;
        let x : Xfer := aXfer 0 (aSlice 3 0 true) [] none 1; let p : Slice := aSlice 3 0 true; let k := s.crewOf c; s.running c x.tag = some x ∧
        k.bound = true ∧ k.lsBad = [] ∧ x.slices = [p] ∧ p.part = 0 ∧ k.xfers = [x] ∧ x.stage = 1 ∧ p.sp = true ∧ k.ended = false ∧
        (k.stream p.sq).ents.length < (k.stream p.sq).depth ∧ x.job = none)) ∧
    (let s : State := moving (aXfer 10 (aSlice 3 0 false) [⟨0, 0, 0, 1, 0, 0⟩] (some aJob) 0) (crewed (fun c => { c with ls := bytesAt 0x400 [0,0,0,0,0,0,0xF0,0x3F,0,0,0,0,0,0,0,0x40] }) (solo aWave));
      let c : CrewId := ⟨1,0⟩; let x : Xfer := aXfer 10 (aSlice 3 0 false) [⟨0, 0, 0, 1, 0, 0⟩] (some aJob) 0; let p : Slice := aSlice 3 0 false;
      let k := s.crewOf c; let u := (⟨0, 0, 0, 1, 0, 0⟩ : XUnit); let j := aJob; let acc := (0x3FF0000000000000 : Nat); let fl := (0 : FFlags);
      gridPoint p.wave j u.src (u.dst % j.dv.ny) (u.dst / j.dv.ny) s = .ok ((acc, fl), s) ∧ s.running c x.tag = some x ∧ k.bound = true ∧
      k.lsBad = [] ∧ x.slices = [p] ∧ p.part = 0 ∧ k.xfers = [x] ∧ x.job = some j ∧ x.stage = 0 ∧ x.units = [u] ∧ u.st = 0 ∧ u.part = 0 ∧ u.len = 1 ∧
      j.kind = 2 ∧ j.dv.ls = true ∧ j.dv.fmt = 0 ∧ p.bm = 0 ∧ p.sp = false) :=
  ⟨by dsimp only; decide +kernel,
    ⟨okOf (by decide +kernel), by decide +kernel⟩⟩

/-- The hypotheses of `SessionsOpen`, clause by clause, can be met together. -/
theorem test_meets_SessionsOpen :
    ((let s : State := solo (openWave 0x40000 7 0); let d : Code := 14; let a : Code := 10; let b : Code := 12; let nb : Bool := false;
        let i : Instr := if nb then .aopennb d a b else .aopen d a b; let c := (s.w.ws b).toNat; s.issues i ∧ s.plain ∧
        (c / 2 ^ 20 = 0 ∨ 5 ≤ c / 8 % 8 ∨ (c / 2 ^ 8 % 2 ^ 12 ≠ 0 ∧ (c.testBit 2 = false ∨ 2 ≤ c % 4)) ∨ (c / 8 % 8 ≠ 0 ∧ 2 ≤ c % 4))) ∧
      (let s : State := solo (openWave 0x40010 0x100000 0); let d : Code := 14; let a : Code := 10; let b : Code := 12; let nb : Bool := true;
        let i : Instr := if nb then .aopennb d a b else .aopen d a b; let c := (s.w.ws b).toNat; let base := (s.w.wr2 a.toNat).toNat; s.issues i ∧
        s.plain ∧ badControl c = false ∧ base % 128 ≠ 0)) ∧
    (let s : State := solo (openWave 0x40000 0x200006 0); let d : Code := 14; let a : Code := 10; let b : Code := 12; let nb : Bool := true;
      let i : Instr := if nb then .aopennb d a b else .aopen d a b; let c := (s.w.ws b).toNat; let base := (s.w.wr2 a.toNat).toNat;
      let ctx := s.ctxN s.cur.g; let ls := okOr (s.openLines base (c / 2 ^ 20) 0) []; let k := (s.canOpen ctx (ls.map (·.1))).getD 0;
      s.openLines base (c / 2 ^ 20) 0 = .ok ls ∧ s.issues i ∧ s.plain ∧ badControl c = false ∧ base % 128 = 0 ∧ (∀ l ∈ ls, aget s.frames l.1 = none) ∧
      s.canOpen ctx (ls.map (·.1)) = some k) ∧
    (let s : State := solo (openWave 0x40000 0x4100001 0); let d : Code := 14; let a : Code := 10; let b : Code := 12; let nb : Bool := true;
      let i : Instr := if nb then .aopennb d a b else .aopen d a b; let c := (s.w.ws b).toNat; let base := (s.w.wr2 a.toNat).toNat;
      let ctx := s.ctxN s.cur.g; let ls := okOr (s.openLines base (c / 2 ^ 20) 0) []; s.openLines base (c / 2 ^ 20) 0 = .ok ls ∧ s.issues i ∧
      s.plain ∧ badControl c = false ∧ base % 128 = 0 ∧ (∀ l ∈ ls, aget s.frames l.1 = none) ∧ s.canOpen ctx (ls.map (·.1)) = none ∧ nb = true) ∧
    (let s : State := solo (openWave 0x40000 0x4100001 0); let d : Code := 14; let a : Code := 10; let b : Code := 12; let nb : Bool := false;
      let i : Instr := if nb then .aopennb d a b else .aopen d a b; let c := (s.w.ws b).toNat; let base := (s.w.wr2 a.toNat).toNat;
      let ctx := s.ctxN s.cur.g; let ls := okOr (s.openLines base (c / 2 ^ 20) 0) []; s.openLines base (c / 2 ^ 20) 0 = .ok ls ∧ s.issues i ∧
      s.plain ∧ badControl c = false ∧ base % 128 = 0 ∧ (∀ l ∈ ls, aget s.frames l.1 = none) ∧ s.canOpen ctx (ls.map (·.1)) = none ∧ nb = false ∧
      s.w.hold = none) :=
  ⟨by delta State.issues State.plain; dsimp only; decide +kernel,
    ⟨okSelf (by decide +kernel), by delta State.issues State.plain; decide +kernel⟩,
    ⟨okSelf (by decide +kernel), by delta State.issues State.plain; decide +kernel⟩,
    ⟨okSelf (by decide +kernel), by delta State.issues State.plain; decide +kernel⟩⟩

/-- The hypotheses of `ArrivalsArePostedAndSessionsSealed`, clause by clause, can be met together. -/
theorem test_meets_ArrivalsArePostedAndSessionsSealed :
    ((let i : Instr := .aredS64 6 10 12; let s : State := solo idleWave; let d : Code := 6; let a : Code := 10; let b : Code := 12; let ty : Nat := 3;
        ((i = .aredF32 d a b ∧ ty = 0) ∨ (i = .aredF64 d a b ∧ ty = 1) ∨ (i = .aredS32 d a b ∧ ty = 2) ∨ (i = .aredS64 d a b ∧ ty = 3)) ∧ s.issues i ∧
        s.w.actives = []) ∧
      (let s : State := solo (openWave 0x40000 0 0x9003); let d : Code := 14; let a : Code := 13; let ctx := s.ctxN s.cur.g; let h := (s.w.ws a).toNat;
        let k := h % 2 ^ 12; let e := (s.ctxOf ctx).session k; let isCurrent := e.state ≠ 0 ∧ e.seq = h / 2 ^ 12; s.issues (.aseal d a) ∧ s.plain ∧
        (¬ isCurrent)) ∧
      (let s : State := session 3 [] (solo (openWave 0x40000 0 0x9003)); let d : Code := 14; let a : Code := 13; let ctx := s.ctxN s.cur.g;
        let h := (s.w.ws a).toNat; let k := h % 2 ^ 12; let e := (s.ctxOf ctx).session k; let isCurrent := e.state ≠ 0 ∧ e.seq = h / 2 ^ 12;
        s.issues (.aseal d a) ∧ s.plain ∧ s.atRest ∧ isCurrent ∧ e.state = 3)) ∧
    ((let s : State := session 1 [0x800] (solo (openWave 0x40000 0 0x9003)); let d : Code := 14; let a : Code := 13; let ctx := s.ctxN s.cur.g;
        let h := (s.w.ws a).toNat; let k := h % 2 ^ 12; let e := (s.ctxOf ctx).session k; s.issues (.aseal d a) ∧ s.plain ∧ s.atRest ∧
        s.w.hold = none ∧ e.seq = h / 2 ^ 12 ∧ e.state = 1) ∧
      (let s : State := solo (openWave 0x40000 0 0x9003); let d : Code := 14; let a : Code := 13; let ctx := s.ctxN s.cur.g; let h := (s.w.ws a).toNat;
        let k := h % 2 ^ 12; let e := (s.ctxOf ctx).session k; let isCurrent := e.state ≠ 0 ∧ e.seq = h / 2 ^ 12; s.issues (.aqry d a) ∧
        (¬ isCurrent)) ∧
      (let s : State := session 3 [] (solo (openWave 0x40000 0 0x9003)); let d : Code := 14; let a : Code := 13; let ctx := s.ctxN s.cur.g; let h := (s.w.ws a).toNat; let k := h % 2 ^ 12;
        let e := (s.ctxOf ctx).session k; let isCurrent := e.state ≠ 0 ∧ e.seq = h / 2 ^ 12;
        s.issues (.aqry d a) ∧ isCurrent ∧ e.state = 3 ∧ (∀ p ∈ s.frames, ¬(p.2.ctx = ctx ∧ p.2.idx = k)))) ∧
    ((let s : State := session 1 [0x800] (solo (openWave 0x40000 0 0x9003)); let d : Code := 14; let a : Code := 13; let ctx := s.ctxN s.cur.g;
        let h := (s.w.ws a).toNat; let k := h % 2 ^ 12; let e := (s.ctxOf ctx).session k; let isCurrent := e.state ≠ 0 ∧ e.seq = h / 2 ^ 12;
        s.issues (.aqry d a) ∧ isCurrent ∧ e.state ≠ 3) ∧
      (let s : State := solo (openWave 0x40000 0 0x9003); let a : Code := 13; let va := (s.w.wr2 a.toNat).toNat; s.w.quant = 0 ∧ va < 2 ^ 49 ∧ va % 8 ≠ 0)) ∧
    (let i : Instr := .aredS32 5 10 12; let s : State := opened 2 (solo (openWave 0x40000 4 0)); let d : Code := 5; let a : Code := 10;
      let b : Code := 12; let ty : Nat := 2; let base := (s.w.wr2 a.toNat).toNat; let stride := (s.w.ws b).toNat;
      let ps := okOr (s.aredPlaces base stride (tySize ty) s.w.actives) []; s.aredPlaces base stride (tySize ty) s.w.actives = .ok ps ∧
      ((i = .aredF32 d a b ∧ ty = 0) ∨ (i = .aredF64 d a b ∧ ty = 1) ∨ (i = .aredS32 d a b ∧ ty = 2) ∨ (i = .aredS64 d a b ∧ ty = 3)) ∧ s.issues i ∧
      s.w.actives ≠ [] ∧ s.w.quant = 0 ∧ s.w.ec < 63) ∧
    (let i : Instr := .aredS64 6 10 12; let s : State := opened 3 (solo (openWave 0x40000 4 0)); let d : Code := 6; let a : Code := 10;
      let b : Code := 12; let ty : Nat := 3; let base := (s.w.wr2 a.toNat).toNat; let stride := (s.w.ws b).toNat;
      let tr := errOr (s.aredPlaces base stride (tySize ty) s.w.actives) { cls := 0 }; s.aredPlaces base stride (tySize ty) s.w.actives = .error tr ∧
      ((i = .aredF32 d a b ∧ ty = 0) ∨ (i = .aredF64 d a b ∧ ty = 1) ∨ (i = .aredS32 d a b ∧ ty = 2) ∨ (i = .aredS64 d a b ∧ ty = 3)) ∧ s.issues i ∧
      s.w.actives ≠ [] ∧ s.w.ec < 63) ∧
    (let s : State := opened 2 (solo (openWave 0x40000 0 0x9003)); let a : Code := 10; let l : Leaf := ⟨0x40000, 1, true, true, false, false, true, true⟩;
      let ctx := s.ctxN s.cur.g; let va := (s.w.wr2 a.toNat).toNat; let p := Place.mem l.pa l.key ctx va;
      let refused := (s.peerFor l.pa).isSome && s.refuses s.w.core l.pa; s.check s.w.core ctx va 8 .load = .ok l ∧ s.w.quant = 0 ∧ s.w.inflight = [] ∧
      s.readBad s.w p 8 = false ∧ refused = false) :=
  ⟨by delta State.issues State.plain State.atRest; dsimp only; decide +kernel,
    by delta State.issues State.plain State.atRest; dsimp only; decide +kernel,
    by delta State.issues; dsimp only; decide +kernel,
    ⟨okSelf (by decide +kernel), by delta State.issues; decide +kernel⟩,
    ⟨errSelf (by decide +kernel), by delta State.issues; decide +kernel⟩,
    ⟨okOf (by decide +kernel), by decide +kernel⟩⟩

/-- The hypotheses of `ArrivalsApplyOnceAndLinesSeal`, clause by clause, can be met together. -/
theorem test_meets_ArrivalsApplyOnceAndLinesSeal :
    ((let f : Frame := aFrame 2; f.exact = true) ∧
      (let f : Frame := aFrame 0; f.exact = true ∧ f.tgt < 4) ∧
      (let f : Frame := aFrame 0; let o : Nat := 4; let v : AVal := .code 0 0x7F800001; let n := if f.tgt % 2 = 0 then 4 else 8; let b := 0x03;
        f.exact = true ∧ f.tgt < 4 ∧ o < 128 ∧ f.s.length = 128 / n ∧ f.est.length = 128 / n ∧ v.statusOf = some b)) ∧
    ((let f : Frame := { aFrame 0 with anch := 3 }; let o : Nat := 124; let v : AVal := .code 1 0x4FF0000000000000;
        let n := if f.tgt % 2 = 0 then 4 else 8; let W := if f.tgt % 2 = 0 then 128 else 256; let k := 2 ^ 253; let x := false; f.exact = true ∧
        f.tgt < 4 ∧ o < 128 ∧ f.s.length = 128 / n ∧ f.est.length = 128 / n ∧ v.anchored f.anch = some (k, x) ∧ 2 ^ (W - 1) ≤ k) ∧
      (let f : Frame := { aFrame 0 with anch := 3 }; let o : Nat := 124; let v : AVal := .real ⟨true, 2 ^ 131 - 1, 0⟩;
        let n := if f.tgt % 2 = 0 then 4 else 8; let W := if f.tgt % 2 = 0 then 128 else 256; let k := -(2 ^ 128); let x := true; f.exact = true ∧
        f.tgt < 4 ∧ o < 128 ∧ f.s.length = 128 / n ∧ f.est.length = 128 / n ∧ v.anchored f.anch = some (k, x) ∧ k ≤ -(2 ^ (W - 1))) ∧
      (let f : Frame := { aFrame 0 with anch := 3 }; let o : Nat := 0; let v : AVal := .code 0 0xC0A00000; let n := if f.tgt % 2 = 0 then 4 else 8;
        let W := if f.tgt % 2 = 0 then 128 else 256; let k := -1; let x := true; f.exact = true ∧ f.tgt < 4 ∧ o < 128 ∧ f.s.length = 128 / n ∧
        f.est.length = 128 / n ∧ v.anchored f.anch = some (k, x) ∧ -(2 ^ (W - 1)) < k ∧ k < 2 ^ (W - 1))) ∧
    ((let f : Frame := { aFrame 0 with exact := false, srm := 4, vals := tab 128 (fun i => BitVec.ofNat 8 i) ++ [] }; let o : Nat := 4;
        let v : AVal := .code 1 5; let n := if f.tgt % 2 = 0 then 4 else 8; let i := o / n; let j := 8; f.exact = false ∧ f.tgt < 4 ∧ f.srm < 5 ∧
        o < 128 ∧ f.vals.length = 128 ∧ v.isFloat = decide (f.tgt < 2) ∧ (j < n * i ∨ n * (i + 1) ≤ j)) ∧
      (let f : Frame := { aFrame 2 with exact := false, srm := 0, vals := tab 128 (fun i => BitVec.ofNat 8 i) ++ [] }; let o : Nat := 12;
        let v : AVal := .code 3 0x10000000003; let ty := 3; let c := 0x10000000003; f.exact = false ∧ f.tgt < 4 ∧ f.srm < 5 ∧ o < 128 ∧
        f.vals.length = 128 ∧ v.isFloat = decide (f.tgt < 2) ∧ 2 ≤ f.tgt ∧ ty < 4 ∧ v = .code ty c) ∧
      (let f : Frame := { aFrame 0 with exact := false, vals := [0, 0, 0x80, 0x7F, 1, 0, 0x80, 0x7F] ++ List.replicate 120 0 }; let o : Nat := 4;
        let v : AVal := .code 0 0; let n := if f.tgt % 2 = 0 then 4 else 8; let i := o / n; let old := leNat ((f.vals.drop (n * i)).take n);
        let F := if f.tgt = 0 then f32 else f64; f.exact = false ∧ f.tgt < 4 ∧ f.srm < 5 ∧ o < 128 ∧ f.vals.length = 128 ∧
        v.isFloat = decide (f.tgt < 2) ∧ f.tgt < 2 ∧ F.isNaN old = true)) ∧
    ((let f : Frame := { aFrame 0 with exact := false, vals := [0, 0, 0x80, 0x7F, 1, 0, 0x80, 0x7F] ++ List.replicate 120 0 }; let o : Nat := 8;
        let v : AVal := .code 1 0x7FF0000000000001; let n := if f.tgt % 2 = 0 then 4 else 8; let i := o / n;
        let old := leNat ((f.vals.drop (n * i)).take n); let F := if f.tgt = 0 then f32 else f64; let x := v.reading; let ty := 1;
        let c := 0x7FF0000000000001; f.exact = false ∧ f.tgt < 4 ∧ f.srm < 5 ∧ o < 128 ∧ f.vals.length = 128 ∧ v.isFloat = decide (f.tgt < 2) ∧
        f.tgt < 2 ∧ F.isNaN old = false ∧ x.isN = true ∧ ty < 2 ∧ v = .code ty c) ∧
      (let f : Frame := { aFrame 0 with exact := false, vals := [0, 0, 0x80, 0x7F, 1, 0, 0x80, 0x7F] ++ List.replicate 120 0 }; let o : Nat := 0;
        let v : AVal := .code 1 0xFFF0000000000000; let n := if f.tgt % 2 = 0 then 4 else 8; let i := o / n;
        let old := leNat ((f.vals.drop (n * i)).take n); let F := if f.tgt = 0 then f32 else f64; let x := v.reading; let s := false;
        f.exact = false ∧ f.tgt < 4 ∧ f.srm < 5 ∧ o < 128 ∧ f.vals.length = 128 ∧ v.isFloat = decide (f.tgt < 2) ∧ f.tgt < 2 ∧ F.val old = .inf s ∧
        x = .inf (!s)) ∧
      (let f : Frame := { aFrame 0 with exact := false, vals := [0, 0, 0x80, 0x7F, 1, 0, 0x80, 0x7F] ++ List.replicate 120 0 }; let o : Nat := 0;
        let v : AVal := .real ⟨true, 3, 200⟩; let n := if f.tgt % 2 = 0 then 4 else 8; let i := o / n;
        let old := leNat ((f.vals.drop (n * i)).take n); let F := if f.tgt = 0 then f32 else f64; let x := v.reading; let s := false;
        f.exact = false ∧ f.tgt < 4 ∧ f.srm < 5 ∧ o < 128 ∧ f.vals.length = 128 ∧ v.isFloat = decide (f.tgt < 2) ∧ f.tgt < 2 ∧ F.val old = .inf s ∧
        x.isN = false ∧ x ≠ .inf (!s))) ∧
    ((let f : Frame := { aFrame 0 with exact := false, vals := [0, 0, 0x80, 0x7F, 1, 0, 0x80, 0x7F] ++ List.replicate 120 0 }; let o : Nat := 12;
        let v : AVal := .code 0 0xFF800000; let n := if f.tgt % 2 = 0 then 4 else 8; let i := o / n; let old := leNat ((f.vals.drop (n * i)).take n);
        let F := if f.tgt = 0 then f32 else f64; let x := v.reading; let s := true; f.exact = false ∧ f.tgt < 4 ∧ f.srm < 5 ∧ o < 128 ∧
        f.vals.length = 128 ∧ v.isFloat = decide (f.tgt < 2) ∧ f.tgt < 2 ∧ F.isNaN old = false ∧ (F.val old).isInf = false ∧ x = .inf s) ∧
      (let f : Frame := { aFrame 0 with exact := false, vals := [0, 0, 0x80, 0x7F, 1, 0, 0x80, 0x7F] ++ List.replicate 120 0 }; let o : Nat := 12;
        let v : AVal := .code 1 1; let n := if f.tgt % 2 = 0 then 4 else 8; let i := o / n; let old := leNat ((f.vals.drop (n * i)).take n);
        let F := if f.tgt = 0 then f32 else f64; let x := v.reading; f.exact = false ∧ f.tgt < 4 ∧ f.srm < 5 ∧ o < 128 ∧ f.vals.length = 128 ∧
        v.isFloat = decide (f.tgt < 2) ∧ f.tgt < 2 ∧ F.isNaN old = false ∧ (F.val old).isInf = false ∧ x.isN = false ∧ x.isInf = false) ∧
      (let f : Frame := { aFrame 0 with exact := false, srm := 4, vals := tab 128 (fun i => BitVec.ofNat 8 i) ++ [] }; let o : Nat := 4;
        let v : AVal := .code 1 5; f.exact = false ∧ f.tgt < 4 ∧ f.srm < 5 ∧ o < 128 ∧ f.vals.length = 128 ∧ v.isFloat = decide (f.tgt < 2))) ∧
    ((let s : State := arrivesAt 4 4 (opened 2 (solo (mmaWave 0 0))); let a : Arrival := anArrival 4; let as : List Arrival := [];
        let mark := (aget s.hwm (a.src, a.slice)).getD 0; let u : State := { s with hwm := aput s.hwm (a.src, a.slice) a.num }; s.arrivals = a :: as ∧
        a.held = false ∧ a.owner = .lane ∧ (∀ b ∈ as ++ s.openTxn.filterMap (·.arr), b.grp ≠ a.grp) ∧ (s.wv a.wave).holdsArrival a.grp = false ∧
        (let u : State := { s with hwm := aput s.hwm (a.src, a.slice) a.num }; u.walked (a.src / 4) (s.ctxN a.wave.g) a.va = u) ∧ a.num ≤ mark) ∧
      (let s : State := session 2 [0x800] (opened 2 (solo aWave)); let ctx : Nat := 1; let k : Nat := 3; let ln : Nat := 0x800; let f : Frame := aFrame 2;
        let e : Session := ⟨2, 9, 0x100006, 0x40000, 5, false, 1, [0x800]⟩; (s.ctxOf ctx).session k = e ∧ e.state = 2 ∧ e.lines[0]? = some ln ∧
        s.frames = [(ln, f)] ∧ f.ctx = ctx ∧ f.idx = k ∧ f.spilled = none ∧ f.bytes.length = 128 ∧ s.imageAt ln = none) ∧
      (let s : State := crowded; let ctx : Nat := 2; let ln : Nat := 0x1801; let f : Frame := { aFrame 2 with ctx := 2 }; s.opening = true ∧
        s.spillable ctx = true ∧ s.residents ctx = [(ln, f)] ∧ aget s.frames ln = some f ∧ (s.ctxOf ctx).slots = [] ∧ 0 < (s.ctxOf ctx).quota)) ∧
    (let s : State := { opened 2 (solo aWave) with frames := [(0x800, { aFrame 2 with spilled := some 0 })], ctxs := [(1, { tkey := 1, quota := 64, slots := [0] })] };
        let ctx : Nat := 1; let ln : Nat := 0x800; let n : Nat := 0; let f : Frame := { aFrame 2 with spilled := some 0 }; s.ctxBound ctx = true ∧
        s.frames = [(ln, f)] ∧ f.ctx = ctx ∧ f.spilled = some n) ∧
    (let s : State := { arrivesAt 5 4 (solo (mmaWave 0 0)) with arrivals := [{ anArrival 5 with va := 0x90004 }] };
      let a : Arrival := { anArrival 5 with va := 0x90004 }; let as : List Arrival := []; let mark := (aget s.hwm (a.src, a.slice)).getD 0;
      let u : State := { s with hwm := aput s.hwm (a.src, a.slice) a.num }; let at_ := u.translate (a.src / 4) (s.ctxN a.wave.g) a.va .write;
      let e := errOr at_ 0; at_ = .error e ∧ s.arrivals = a :: as ∧ a.held = false ∧ a.owner = .lane ∧
      (∀ b ∈ as ++ s.openTxn.filterMap (·.arr), b.grp ≠ a.grp) ∧ (s.wv a.wave).holdsArrival a.grp = false ∧
      (let u : State := { s with hwm := aput s.hwm (a.src, a.slice) a.num }; u.walked (a.src / 4) (s.ctxN a.wave.g) a.va = u) ∧ mark < a.num ∧ (s.gridOf a.wave.g).ending = false ∧ (s.wv a.wave).exited = false) ∧
    (let s : State := { arrivesAt 5 4 (opened 2 (solo (mmaWave 0 0))) with cores := [(0, { tlb := [⟨1, 0x40000, 0x10000, ⟨0x40000, 1, false, true, false, false, true, true⟩⟩] })] };
      let a : Arrival := anArrival 5; let as : List Arrival := []; let mark := (aget s.hwm (a.src, a.slice)).getD 0;
      let u : State := { s with hwm := aput s.hwm (a.src, a.slice) a.num }; let at_ := u.translate (a.src / 4) (s.ctxN a.wave.g) a.va .write;
      let l := okOr at_ ⟨0, 0, false, false, false, false, false, false⟩; at_ = .ok l ∧ s.arrivals = a :: as ∧ a.held = false ∧ a.owner = .lane ∧
      (∀ b ∈ as ++ s.openTxn.filterMap (·.arr), b.grp ≠ a.grp) ∧ (s.wv a.wave).holdsArrival a.grp = false ∧
      (let u : State := { s with hwm := aput s.hwm (a.src, a.slice) a.num }; u.walked (a.src / 4) (s.ctxN a.wave.g) a.va = u) ∧ mark < a.num ∧ windowOf l.pa = none ∧ (s.wv a.wave).exited = false ∧ l.ap = false) ∧
    (let s : State := arrivesAt 5 4 (solo (mmaWave 0 0)); let a : Arrival := anArrival 5; let as : List Arrival := [];
      let mark := (aget s.hwm (a.src, a.slice)).getD 0; let u : State := { s with hwm := aput s.hwm (a.src, a.slice) a.num };
      let at_ := u.translate (a.src / 4) (s.ctxN a.wave.g) a.va .write; let l := okOr at_ ⟨0, 0, false, false, false, false, false, false⟩;
      at_ = .ok l ∧ s.arrivals = a :: as ∧ a.held = false ∧ a.owner = .lane ∧ (∀ b ∈ as ++ s.openTxn.filterMap (·.arr), b.grp ≠ a.grp) ∧
      (s.wv a.wave).holdsArrival a.grp = false ∧
      (let u : State := { s with hwm := aput s.hwm (a.src, a.slice) a.num }; u.walked (a.src / 4) (s.ctxN a.wave.g) a.va = u) ∧ mark < a.num ∧ windowOf l.pa = none ∧ (s.wv a.wave).exited = false ∧ l.ap = true ∧ aget s.frames (l.pa / 128) = none ∧ s.brokenLines.contains (l.pa / 128) = false) ∧
    (let s : State := { arrivesAt 5 4 (solo (mmaWave 0 0)) with brokenLines := [0x800] }; let a : Arrival := anArrival 5; let as : List Arrival := [];
      let mark := (aget s.hwm (a.src, a.slice)).getD 0; let u : State := { s with hwm := aput s.hwm (a.src, a.slice) a.num };
      let at_ := u.translate (a.src / 4) (s.ctxN a.wave.g) a.va .write; let l := okOr at_ ⟨0, 0, false, false, false, false, false, false⟩;
      at_ = .ok l ∧ s.arrivals = a :: as ∧ a.held = false ∧ a.owner = .lane ∧ (∀ b ∈ as ++ s.openTxn.filterMap (·.arr), b.grp ≠ a.grp) ∧
      (s.wv a.wave).holdsArrival a.grp = false ∧
      (let u : State := { s with hwm := aput s.hwm (a.src, a.slice) a.num }; u.walked (a.src / 4) (s.ctxN a.wave.g) a.va = u) ∧ mark < a.num ∧ windowOf l.pa = none ∧ (s.wv a.wave).exited = false ∧ l.ap = true ∧ aget s.frames (l.pa / 128) = none ∧ s.brokenLines.contains (l.pa / 128) = true) ∧
    (let s : State := arrivesAt 6 5 (opened 0 (solo { aWave with ec := 1 })); let a : Arrival := anArrival 6; let as : List Arrival := [];
      let mark := (aget s.hwm (a.src, a.slice)).getD 0; let u : State := { s with hwm := aput s.hwm (a.src, a.slice) a.num };
      let at_ := u.translate (a.src / 4) (s.ctxN a.wave.g) a.va .write; let l := okOr at_ ⟨0, 0, false, false, false, false, false, false⟩;
      let f := aFrame 0; let n := if f.tgt % 2 = 0 then 4 else 8; at_ = .ok l ∧ s.arrivals = a :: as ∧ a.held = false ∧ a.owner = .lane ∧
      (∀ b ∈ as ++ s.openTxn.filterMap (·.arr), b.grp ≠ a.grp) ∧ (s.wv a.wave).holdsArrival a.grp = false ∧
      (let u : State := { s with hwm := aput s.hwm (a.src, a.slice) a.num }; u.walked (a.src / 4) (s.ctxN a.wave.g) a.va = u) ∧ mark < a.num ∧ windowOf l.pa = none ∧ (s.wv a.wave).exited = false ∧ l.ap = true ∧ aget s.frames (l.pa / 128) = some f ∧ (a.val.isFloat ≠ decide (f.tgt < 2) ∨ l.pa % n ≠ 0)) ∧
    (let s : State := { arrivesAt 6 5 (opened 2 (solo { aWave with ec := 1 })) with frames := [(0x800, { aFrame 2 with count := 2 ^ 32 - 1 })] };
      let a : Arrival := anArrival 6; let as : List Arrival := []; let mark := (aget s.hwm (a.src, a.slice)).getD 0;
      let u : State := { s with hwm := aput s.hwm (a.src, a.slice) a.num }; let at_ := u.translate (a.src / 4) (s.ctxN a.wave.g) a.va .write;
      let l := (okOr at_ ⟨0, 0, false, false, false, false, false, false⟩); let f := ({ aFrame 2 with count := 2 ^ 32 - 1 } : Frame);
      let n := if f.tgt % 2 = 0 then 4 else 8; at_ = .ok l ∧ s.arrivals = a :: as ∧ a.held = false ∧ a.owner = .lane ∧
      (∀ b ∈ as ++ s.openTxn.filterMap (·.arr), b.grp ≠ a.grp) ∧ (s.wv a.wave).holdsArrival a.grp = false ∧
      (let u : State := { s with hwm := aput s.hwm (a.src, a.slice) a.num }; u.walked (a.src / 4) (s.ctxN a.wave.g) a.va = u) ∧ mark < a.num ∧ windowOf l.pa = none ∧ (s.wv a.wave).exited = false ∧ l.ap = true ∧ aget s.frames (l.pa / 128) = some f ∧ a.val.isFloat = decide (f.tgt < 2) ∧ l.pa % n = 0 ∧ 2 ^ 32 - 1 ≤ f.count) ∧
    (let s : State := arrivesAt 6 5 (opened 2 (solo { aWave with ec := 1 })); let a : Arrival := anArrival 6; let as : List Arrival := [];
      let mark := (aget s.hwm (a.src, a.slice)).getD 0; let u : State := { s with hwm := aput s.hwm (a.src, a.slice) a.num };
      let at_ := u.translate (a.src / 4) (s.ctxN a.wave.g) a.va .write; let l := (okOr at_ ⟨0, 0, false, false, false, false, false, false⟩);
      let f := aFrame 2; let v := 0xFFFFFFFE; at_ = .ok l ∧ s.arrivals = a :: as ∧ a.held = false ∧ a.owner = .lane ∧
      (∀ b ∈ as ++ s.openTxn.filterMap (·.arr), b.grp ≠ a.grp) ∧ (s.wv a.wave).holdsArrival a.grp = false ∧
      (let u : State := { s with hwm := aput s.hwm (a.src, a.slice) a.num }; u.walked (a.src / 4) (s.ctxN a.wave.g) a.va = u) ∧ mark < a.num ∧ l.ap = true ∧ windowOf l.pa = none ∧ aget s.frames (l.pa / 128) = some f ∧ f.spilled = none ∧ f.exact = true ∧ f.tgt = 2 ∧ a.val = .code 2 v ∧ l.pa % 4 = 0 ∧ f.count < 2 ^ 32 - 1 ∧ f.s.length = 32) :=
  ⟨by dsimp only; decide +kernel,
    by dsimp only; decide +kernel,
    by dsimp only; decide +kernel,
    by dsimp only; decide +kernel,
    by dsimp only; decide +kernel,
    by dsimp only; decide +kernel,
    by decide +kernel,
    ⟨errSelf (by decide +kernel), by decide +kernel⟩,
    ⟨okSelf (by decide +kernel), by decide +kernel⟩,
    ⟨okSelf (by decide +kernel), by decide +kernel⟩,
    ⟨okSelf (by decide +kernel), by decide +kernel⟩,
    ⟨okSelf (by decide +kernel), by decide +kernel⟩,
    ⟨okSelf (by decide +kernel), by decide +kernel⟩,
    ⟨okSelf (by decide +kernel), by decide +kernel⟩⟩

/-- The hypotheses of `MatrixCommandsEnterTheQueue`, clause by clause, can be met together. -/
theorem test_meets_MatrixCommandsEnterTheQueue :
    (let i : Instr := .mmaF32 31 20 30; let s : State := solo (mmaWave 0x400102 0); let m : Nat := 1; let d : Code := 31; let a : Code := 20;
        let b : Code := 30; let w := s.w; let ctl := (w.ws b).toNat; mmaForm i = some (m, d, a, b) ∧ s.issues i ∧ s.w.quant = 0 ∧
        mmaControlBroken m ctl) ∧
    (let i : Instr := .mmaF32 31 20 30; let s : State := solo (regs (mmaWave 0x400001 0) [(24, 2)]); let m : Nat := 1; let d : Code := 31;
        let a : Code := 20; let b : Code := 30; let w := s.w; let n := a.toNat; let ctl := (w.ws b).toNat; let e := mmaAlign m;
        let vals := [(w.wr2 n).toNat, (w.wr2 (n + 2)).toNat, ((w.wr (n + 4)).signExtend 64).toNat, ((w.wr (n + 5)).signExtend 64).toNat];
        let x := (vals.find? (fun x => decide (x % e ≠ 0))).getD 0; mmaForm i = some (m, d, a, b) ∧ s.issues i ∧ s.w.quant = 0 ∧
        (¬ mmaControlBroken m ctl) ∧ vals.find? (fun x => decide (x % e ≠ 0)) = some x) ∧
    (let i : Instr := .mmaF32 31 20 30; let s : State := solo (mmaWave 0x400001 64); let m : Nat := 1; let d : Code := 31; let a : Code := 20;
        let b : Code := 30; let w := s.w; let n := a.toNat; let ctl := (w.ws b).toNat; let e := mmaAlign m;
        let vals := [(w.wr2 n).toNat, (w.wr2 (n + 2)).toNat, ((w.wr (n + 4)).signExtend 64).toNat, ((w.wr (n + 5)).signExtend 64).toNat];
        let C := if 16 ≤ m then (w.ws2 d).toNat else (w.ws d).toNat; mmaForm i = some (m, d, a, b) ∧ s.issues i ∧ s.w.quant = 0 ∧
        (¬ mmaControlBroken m ctl) ∧ (∀ x ∈ vals, x % e = 0) ∧ C % 128 ≠ 0) ∧
    (let i : Instr := .mmaF32 31 20 30; let s : State := solo (mmaWave 0x400001 0xD100); let m : Nat := 1; let d : Code := 31; let a : Code := 20;
        let b : Code := 30; let w := s.w; let n := a.toNat; let ctl := (w.ws b).toNat; let e := mmaAlign m;
        let vals := [(w.wr2 n).toNat, (w.wr2 (n + 2)).toNat, ((w.wr (n + 4)).signExtend 64).toNat, ((w.wr (n + 5)).signExtend 64).toNat];
        let C := if 16 ≤ m then (w.ws2 d).toNat else (w.ws d).toNat; mmaForm i = some (m, d, a, b) ∧ s.issues i ∧ s.w.quant = 0 ∧
        (¬ mmaControlBroken m ctl) ∧ (∀ x ∈ vals, x % e = 0) ∧ C % 128 = 0 ∧ m < 16 ∧ s.cr.lsLen < C + 96 * mmaRowBytes m) ∧
    (let i : Instr := .mmaF32 31 20 30; let s : State := solo (regs (mmaWave 0x400001 0xD000) [(61,0),(62,0)]); let m : Nat := 1; let d : Code := 31;
        let a : Code := 20; let b : Code := 30; let w := s.w; let n := a.toNat; let ctl := (w.ws b).toNat; let e := mmaAlign m;
        let vals := [(w.wr2 n).toNat, (w.wr2 (n + 2)).toNat, ((w.wr (n + 4)).signExtend 64).toNat, ((w.wr (n + 5)).signExtend 64).toNat];
        let C := if 16 ≤ m then (w.ws2 d).toNat else (w.ws d).toNat;
        let good := ¬ mmaControlBroken m ctl ∧ (∀ x ∈ vals, x % e = 0) ∧ C % 128 = 0 ∧ (m < 16 → C + 96 * mmaRowBytes m ≤ s.cr.lsLen);
        mmaForm i = some (m, d, a, b) ∧ s.issues i ∧ s.w.quant = 0 ∧ good ∧ w.actives = []) ∧
    (let i : Instr := .mmaF32 31 20 30; let s : State := solo { mmaWave 0x400001 0xD000 with lvCls := 2, lvGnt := true }; let m : Nat := 1;
        let d : Code := 31; let a : Code := 20; let b : Code := 30; let w := s.w; let n := a.toNat; let ctl := (w.ws b).toNat; let e := mmaAlign m;
        let vals := [(w.wr2 n).toNat, (w.wr2 (n + 2)).toNat, ((w.wr (n + 4)).signExtend 64).toNat, ((w.wr (n + 5)).signExtend 64).toNat];
        let C := if 16 ≤ m then (w.ws2 d).toNat else (w.ws d).toNat;
        let good := ¬ mmaControlBroken m ctl ∧ (∀ x ∈ vals, x % e = 0) ∧ C % 128 = 0 ∧ (m < 16 → C + 96 * mmaRowBytes m ≤ s.cr.lsLen);
        mmaForm i = some (m, d, a, b) ∧ s.issues i ∧ s.w.quant = 0 ∧ good ∧ w.actives ≠ [] ∧ w.lvGnt = true ∧ w.lvCls = mmaLeave m ∧ w.inflight = [] ∧
        w.ec < 63 ∧ s.queueRoom) ∧
    (let i : Instr := .mmaF32 31 20 30; let s : State := solo (mmaWave 0x400001 0xD000); let m : Nat := 1; let d : Code := 31; let a : Code := 20;
        let b : Code := 30; let w := s.w; let n := a.toNat; let ctl := (w.ws b).toNat; let e := mmaAlign m;
        let vals := [(w.wr2 n).toNat, (w.wr2 (n + 2)).toNat, ((w.wr (n + 4)).signExtend 64).toNat, ((w.wr (n + 5)).signExtend 64).toNat];
        let C := if 16 ≤ m then (w.ws2 d).toNat else (w.ws d).toNat;
        let good := ¬ mmaControlBroken m ctl ∧ (∀ x ∈ vals, x % e = 0) ∧ C % 128 = 0 ∧ (m < 16 → C + 96 * mmaRowBytes m ≤ s.cr.lsLen);
        mmaForm i = some (m, d, a, b) ∧ s.issues i ∧ s.w.quant = 0 ∧ good ∧ w.actives ≠ [] ∧ (¬(w.lvGnt = true ∧ w.lvCls = mmaLeave m)) ∧
        w.hold = none) ∧
    (let s : State := solo (regs (mmaWave 0 0) [(20, 64)]); let wide : Bool := false; let d : Code := 31; let a : Code := 20;
        let i : Instr := if wide then .scaccF64 d a else .scaccF32 d a; let w := s.w; let P := (w.wr a.toNat).toNat; s.issues i ∧ w.quant = 0 ∧
        P % 128 ≠ 0) ∧
    (let s : State := solo (regs (mmaWave 0 64) [(20, 0)]); let wide : Bool := false; let d : Code := 31; let a : Code := 20;
        let i : Instr := if wide then .scaccF64 d a else .scaccF32 d a; let w := s.w; let P := (w.wr a.toNat).toNat; let C := (w.ws d).toNat;
        s.issues i ∧ w.quant = 0 ∧ P % 128 = 0 ∧ C % 128 ≠ 0) ∧
    (let s : State := solo (regs (mmaWave 0 0) [(20, 0), (21, 0xFFFF)]); let wide : Bool := false; let d : Code := 31; let a : Code := 20;
        let i : Instr := if wide then .scaccF64 d a else .scaccF32 d a; let w := s.w; let P := (w.wr a.toNat).toNat;
        let sa := (w.wr (a.toNat + 1)).toNat; let sb := (w.wr (a.toNat + 2)).toNat; let C := (w.ws d).toNat;
        let ranges := [(P, 96 * 512), (sa, 96), (sb, 32), (C, if wide then 96 * 256 else 96 * 128)];
        let r := (ranges.find? (fun r => decide (s.cr.lsLen < r.1 + r.2))).getD (0, 0); s.issues i ∧ w.quant = 0 ∧ P % 128 = 0 ∧ C % 128 = 0 ∧
        ranges.find? (fun r => decide (s.cr.lsLen < r.1 + r.2)) = some r) ∧
    (let s : State := solo (regs (mmaWave 0 0xD000) [(20, 0), (21, 0xC000), (22, 0xC100), (61, 0), (62,0)]); let wide : Bool := false; let d : Code := 31;
        let a : Code := 20; let i : Instr := if wide then .scaccF64 d a else .scaccF32 d a; let w := s.w; let P := (w.wr a.toNat).toNat;
        let sa := (w.wr (a.toNat + 1)).toNat; let sb := (w.wr (a.toNat + 2)).toNat; let C := (w.ws d).toNat;
        let ranges := [(P, 96 * 512), (sa, 96), (sb, 32), (C, if wide then 96 * 256 else 96 * 128)]; s.issues i ∧ w.quant = 0 ∧ P % 128 = 0 ∧
        C % 128 = 0 ∧ (∀ r ∈ ranges, r.1 + r.2 ≤ s.cr.lsLen) ∧ w.actives = []) ∧
    (let s : State := solo (regs (mmaWave 0 0xD000) [(20, 0), (21, 0xC000), (22, 0xC100)]); let wide : Bool := false; let d : Code := 31;
        let a : Code := 20; let i : Instr := if wide then .scaccF64 d a else .scaccF32 d a; let w := s.w; let P := (w.wr a.toNat).toNat;
        let sa := (w.wr (a.toNat + 1)).toNat; let sb := (w.wr (a.toNat + 2)).toNat; let C := (w.ws d).toNat;
        let ranges := [(P, 96 * 512), (sa, 96), (sb, 32), (C, if wide then 96 * 256 else 96 * 128)]; s.issues i ∧ w.quant = 0 ∧ P % 128 = 0 ∧
        C % 128 = 0 ∧ (∀ r ∈ ranges, r.1 + r.2 ≤ s.cr.lsLen) ∧ w.actives ≠ [] ∧ w.inflight = [] ∧ w.ec < 63 ∧ s.queueRoom) :=
  ⟨by delta State.issues mmaControlBroken; decide +kernel,
    by delta State.issues mmaControlBroken; decide +kernel,
    by delta State.issues mmaControlBroken; decide +kernel,
    by delta State.issues mmaControlBroken; decide +kernel,
    by delta State.issues mmaControlBroken; decide +kernel,
    by delta State.issues State.queueRoom mmaControlBroken; decide +kernel,
    by delta State.issues mmaControlBroken; decide +kernel,
    by delta State.issues; decide +kernel,
    by delta State.issues; decide +kernel,
    by delta State.issues; decide +kernel,
    by delta State.issues; decide +kernel,
    by delta State.issues State.queueRoom; decide +kernel⟩

/-- The hypotheses of `MatrixStepsDrainWholeRows`, clause by clause, can be met together. -/
theorem test_meets_MatrixStepsDrainWholeRows :
    ((let s : State := queued { aCmd 0x20 with aBase := 0, aScale := 0xC000, bScale := 0xC100, c := 0xD000 } (crewed (fun c => { c with ls := bytesAt 0 [1,0,5] }) (solo (mmaWave 0 0)));
        let core : Nat := 0; let k : Nat := 0; let c : MatCmd := { aCmd 0x20 with aBase := 0, aScale := 0xC000, bScale := 0xC100, c := 0xD000 };
        ((s.coreOf core).mq[k]? = some c ∧ s.matTurn core = some k ∧ (s.coreOf core).halted = false ∧ (s.gridOf c.wave.g).det = false ∧ (s.coreOf core).mq = [c] ∧ (s.crewOf (s.crewId c.wave)).bound = true) ∧
        (c.minor = 0x20 ∨ c.minor = 0x21) ∧ c.kstep < 32 ∧ c.rb < 3 ∧ c.rowAct (32 * c.rb + c.kstep) = true ∧ s.arriving c.grp = false ∧
        (s.crewOf (s.crewId c.wave)).lsBad = [] ∧ (s.crewOf (s.crewId c.wave)).ls.wf = true) ∧
      (let F : Fmt := f32; let ps : List (FVal × FVal) := [(.fin false 3 0, .inf true), (.inf false, .fin false 1 0)]; let acc : Option Nat := none;
        let terms := ps.map (fun p => p.1.mul p.2) ++ (match acc with | some x => [F.val x] | none => []);
        (∀ p ∈ ps, p.1.isN = false ∧ p.2.isN = false ∧ infTimesZero p.1 p.2 = false) ∧ (∀ x, acc = some x → F.isNaN x = false) ∧
        terms.contains (.inf true) = true ∧ terms.contains (.inf false) = true) ∧
      (let F : Fmt := f32; let ps : List (FVal × FVal) := [(.fin false 3 0, .inf true), (.fin true 5 3, .fin false 1 0)]; let acc : Option Nat := some 5;
        let terms := ps.map (fun p => p.1.mul p.2) ++ (match acc with | some x => [F.val x] | none => []); let n := true;
        (∀ p ∈ ps, p.1.isN = false ∧ p.2.isN = false ∧ infTimesZero p.1 p.2 = false) ∧ (∀ x, acc = some x → F.isNaN x = false) ∧
        terms.contains (.inf n) = true ∧ terms.contains (.inf (!n)) = false)) ∧
    ((let F : Fmt := f32; let ps : List (FVal × FVal) := [(.fin false 3 0, .fin true 3 5), (.fin true 5 3, .fin false 1 0)];
        let acc : Option Nat := some 5; let terms := ps.map (fun p => p.1.mul p.2) ++ (match acc with | some x => [F.val x] | none => []);
        (∀ p ∈ ps, p.1.isN = false ∧ p.2.isN = false ∧ infTimesZero p.1 p.2 = false) ∧ (∀ x, acc = some x → F.isNaN x = false) ∧
        terms.contains (.inf true) = false ∧ terms.contains (.inf false) = false) ∧
      (let F : Fmt := f32; let ps : List (FVal × FVal) := [(.nan false 1 true, .inf true), (.inf false, .zero true)];
        let acc : Option Nat := some 0x7FC00000; let spoils := fun (p : FVal × FVal) => p.1.isN || p.2.isN || infTimesZero p.1 p.2;
        let terms := (ps.filter (fun p => !spoils p)).map (fun p => p.1.mul p.2) ++ (match acc with | some x => if F.isNaN x then [] else [F.val x] | none => []);
        ((∃ p ∈ ps, spoils p = true) ∨ ∃ x, acc = some x ∧ F.isNaN x = true) ∧
        ((∃ p ∈ ps, p.1.isS = true ∨ p.2.isS = true ∨ infTimesZero p.1 p.2 = true) ∨ ((.inf true) ∈ terms ∧ (.inf false) ∈ terms))) ∧
      (let F : Fmt := f32; let ps : List (FVal × FVal) := [(.nan false 1 true, .inf true), (.inf false, .fin false 1 0)];
        let acc : Option Nat := some 0x7FC00000; let spoils := fun (p : FVal × FVal) => p.1.isN || p.2.isN || infTimesZero p.1 p.2;
        let terms := (ps.filter (fun p => !spoils p)).map (fun p => p.1.mul p.2) ++ (match acc with | some x => if F.isNaN x then [] else [F.val x] | none => []);
        ((∃ p ∈ ps, spoils p = true) ∨ ∃ x, acc = some x ∧ F.isNaN x = true) ∧
        (∀ p ∈ ps, p.1.isS = false ∧ p.2.isS = false ∧ infTimesZero p.1 p.2 = false) ∧ (¬ ((.inf true) ∈ terms ∧ (.inf false) ∈ terms)))) ∧
    ((let F : Fmt := f32; let ps : List (FVal × FVal) := [(.nan false 1 true, .inf true), (.inf false, .zero true)];
        let acc : Option Nat := some 0x7FC00000; let spoils := fun (p : FVal × FVal) => p.1.isN || p.2.isN || infTimesZero p.1 p.2;
        ((∃ p ∈ ps, spoils p = true) ∨ ∃ x, acc = some x ∧ F.isNaN x = true)) ∧
      (let m : Nat := 1; let vals : List (Nat × FFlags) := tab 32 (fun j => (0x7F7FFFFF + j, 0)); m < 4 ∧ vals.length = 32)) ∧
    (let s : State := queued (aCmd 1) (solo (mmaWave 0 0)); let core : Nat := 0; let k : Nat := 0; let c : MatCmd := aCmd 1;
      let s1 : State := (okOr ((if 4 ≤ c.minor then mxStep c else floatStep c) s) ([], s)).2;
      let rows : List StepRow := (okOr ((if 4 ≤ c.minor then mxStep c else floatStep c) s) ([], s)).1; let crew := s.crewId c.wave;
      ((if 4 ≤ c.minor then mxStep c else floatStep c) s = .ok (rows, s1)) ∧
      ((s.coreOf core).mq[k]? = some c ∧ s.matTurn core = some k ∧ (s.coreOf core).halted = false ∧ (s.gridOf c.wave.g).det = false ∧ (s.coreOf core).mq = [c] ∧ (s.crewOf (s.crewId c.wave)).bound = true) ∧
      c.minor < 0x10 ∧ (c.kstep, c.rb) ∈ c.places ∧ s.arriving c.grp = false ∧ (s1.crewOf crew).lsBad = [] ∧ (s1.crewOf crew).ls.wf = true) ∧
    (let s : State := queued { aCmd 1 with bBase := 0x60000 } (solo (mmaWave 0 0)); let core : Nat := 0; let k : Nat := 0; let kd : Nat := 1;
      let a : Nat := 0x60000; let c : MatCmd := { aCmd 1 with bBase := 0x60000 };
      ((if 4 ≤ c.minor % 16 then mxStep c else floatStep c) s = .error (.xlat kd a)) ∧
      ((s.coreOf core).mq[k]? = some c ∧ s.matTurn core = some k ∧ (s.coreOf core).halted = false ∧ (s.gridOf c.wave.g).det = false ∧ (s.coreOf core).mq = [c] ∧ (s.crewOf (s.crewId c.wave)).bound = true) ∧
      c.minor < 0x20 ∧ (s.gridOf c.wave.g).ending = false ∧ (s.wv c.wave).exited = false) ∧
    (let s : State := queued (aCmd 17) (solo (mmaWave 0 0)); let core : Nat := 0; let k : Nat := 0; let c : MatCmd := aCmd 17;
      let s1 : State := (okOr ((if 4 ≤ c.minor % 16 then mxStep c else floatStep c) s) ([], s)).2;
      let rows : List StepRow := (okOr ((if 4 ≤ c.minor % 16 then mxStep c else floatStep c) s) ([], s)).1;
      ((if 4 ≤ c.minor % 16 then mxStep c else floatStep c) s = .ok (rows, s1)) ∧
      ((s.coreOf core).mq[k]? = some c ∧ s.matTurn core = some k ∧ (s.coreOf core).halted = false ∧ (s.gridOf c.wave.g).det = false ∧ (s.coreOf core).mq = [c] ∧ (s.crewOf (s.crewId c.wave)).bound = true) ∧
      0x10 ≤ c.minor ∧ c.minor < 0x20 ∧ (s.wv c.wave).quant = 0 ∧ (∀ row ∈ rows, ∀ p ∈ row.tgt, p.2.ap = true) ∧ rows ≠ []) :=
  ⟨by dsimp only; decide +kernel,
    by dsimp only; decide +kernel,
    by dsimp only; decide +kernel,
    ⟨okPair (by decide +kernel), by decide +kernel⟩,
    ⟨errOf (by decide +kernel), by decide +kernel⟩,
    ⟨okPair (by decide +kernel), by decide +kernel⟩⟩

/-- The hypotheses of `QuantizersAndMaximaWriteTheirResult`, clause by clause, can be met together. -/
theorem test_meets_QuantizersAndMaximaWriteTheirResult :
    ((let i : Instr := .cvtmxE4m3F32 4 2 20; let s : State := solo (regs fpWave [(20, 4)]); let k : Nat := 0; let d : Code := 4; let a : Code := 2;
        let b : Code := 20; let w := s.w; let n := (w.wr b.toNat).toNat; cvtmxForm i = some (k, d, a, b) ∧ s.issues i ∧ 4 ≤ n) ∧
      (let i : Instr := .cvtmxE4m3F32 4 2 20; let s : State := solo (regs fpWave [(20, 2)]); let k : Nat := 0; let d : Code := 4; let a : Code := 2;
        let b : Code := 20; let w := s.w; let n := (w.wr b.toNat).toNat; cvtmxForm i = some (k, d, a, b) ∧ s.issues i ∧ n < 4) ∧
      (let i : Instr := .dqmxE4m3F32 4 2 20; let s : State := solo (regs fpWave [(20, 0xFF807F)]); let k : Nat := 0; let d : Code := 4; let a : Code := 2;
        let b : Code := 20; dqmxForm i = some (k, d, a, b) ∧ s.issues i) ∧
      (let s : State := solo (regs fpWave [(20, 5)]); let d : Code := 4; let a : Code := 20; let n := (s.w.ws a).toNat; s.issues (.amxrd d a) ∧ 4 < n) ∧
      (let s : State := solo (regs fpWave [(20, 4)]); let d : Code := 4; let a : Code := 20; let n := (s.w.ws a).toNat;
        let oldest := ((s.coreOf s.w.core).mq ++ s.cr.cmds).find? (fun c => c.wave = s.cur); s.issues (.amxrd d a) ∧ n ≤ 4 ∧
        (n = 4 → ∀ c, oldest = some c → c.over = false)) ∧
      (let s : State := solo (regs fpWave [(20, 4)]); let a : Code := 20; let n := (s.w.ws a).toNat; s.issues (.amxclr a) ∧ 3 < n) ∧
      (let s : State := solo (regs { fpWave with amx := [1,2,3,4] } [(20, 3)]); let a : Code := 20; let n := (s.w.ws a).toNat; s.issues (.amxclr a) ∧ n ≤ 3)) :=
  by delta State.issues; dsimp only; decide +kernel

/-- The hypotheses of `FunctionStoreInstructionsPost`, clause by clause, can be met together. -/
theorem test_meets_FunctionStoreInstructionsPost :
    ((let bs : List Byte := aDescriptor; bs.length = 352) ∧
      (let s : State := paged aDescriptor (solo (fnWave 0x40000 256 0)); let a : Code := 10; let b : Code := 12; let fid := (s.w.ws b).toNat;
        s.issues (.fdef a b) ∧ s.w.quant = 0 ∧ s.w.inflight = [] ∧ 255 < fid) ∧
      (let s : State := functioned (solo (fnWave 0x40000 7 0)); let b : Code := 12; let fid := (s.w.ws b).toNat;
        let known := fid ≤ 255 ∧ (s.fent (s.ctxN s.cur.g) fid).defined = true; s.issues (.finv b) ∧ s.w.quant = 0 ∧ (¬ known)) ∧
      (let s : State := functioned (solo (fnWave 0x40000 6 0)); let b : Code := 12; let fid := (s.w.ws b).toNat;
        let known := fid ≤ 255 ∧ (s.fent (s.ctxN s.cur.g) fid).defined = true; s.issues (.finv b) ∧ s.w.quant = 0 ∧ known ∧ s.w.fl < 63) ∧
      (let s : State := functioned (solo (fnWave 0x40000 6 8)); let d : Code := 14; let a : Code := 12; let b : Code := 13; let sel := (s.w.ws b).toNat;
        s.issues (.fstat d a b) ∧ 7 < sel) ∧
      (let s : State := functioned (solo (fnWave 0x40000 5 7)); let d : Code := 14; let a : Code := 12; let b : Code := 13; let fid := (s.w.ws a).toNat;
        let sel := (s.w.ws b).toNat; let known := fid ≤ 255 ∧ (s.fent (s.ctxN s.cur.g) fid).defined = true; s.issues (.fstat d a b) ∧ sel ≤ 7 ∧
        (¬ known)) ∧
      (let s : State := functioned (solo (fnWave 0x40000 6 7)); let d : Code := 14; let a : Code := 12; let b : Code := 13; let fid := (s.w.ws a).toNat;
        let sel := (s.w.ws b).toNat; let known := fid ≤ 255 ∧ (s.fent (s.ctxN s.cur.g) fid).defined = true; s.issues (.fstat d a b) ∧ sel ≤ 7 ∧ known) ∧
      (let s : State := functioned (solo (fnWave 0x40000 0x106 8)); let a : Code := 10; let b : Code := 12; let c := (s.w.ws b).toNat;
        s.issues (.fpre a b) ∧ s.w.quant = 0 ∧ s.w.inflight = [] ∧ c / 2 ^ 8 % 2 ^ 8 ≠ 0) ∧
      (let s : State := functioned (solo (fnWave 0x40000 0x20007 8)); let a : Code := 10; let b : Code := 12; let c := (s.w.ws b).toNat;
        let fid := c % 2 ^ 8; let ctx := s.ctxN s.cur.g; s.issues (.fpre a b) ∧ s.w.quant = 0 ∧ s.w.inflight = [] ∧ c / 2 ^ 8 % 2 ^ 8 = 0 ∧
        (s.fent ctx fid).defined = false)) ∧
    (let s : State := paged aDescriptor (solo (fnWave 0x40008 255 0)); let a : Code := 10; let b : Code := 12; let fid := (s.w.ws b).toNat;
      let va := (s.w.ws2 a).toNat; let tr := errOr (s.uniRead va 352 64) { cls := 0 }; s.uniRead va 352 64 = .error tr ∧ s.issues (.fdef a b) ∧
      s.w.quant = 0 ∧ s.w.inflight = [] ∧ fid ≤ 255) ∧
    (let s : State := paged (aDescriptor.set 0 9) (solo (fnWave 0x40000 255 0)); let a : Code := 10; let b : Code := 12; let fid := (s.w.ws b).toNat;
      let va := (s.w.ws2 a).toNat; let bs := (okOr (s.uniRead va 352 64) ([], s)).1; let r := (okOr (s.uniRead va 352 64) ([], s)).2;
      let o := (descFault bs).getD 0; s.uniRead va 352 64 = .ok (bs, r) ∧ s.issues (.fdef a b) ∧ s.w.quant = 0 ∧ s.w.inflight = [] ∧ fid ≤ 255 ∧
      descFault bs = some o) ∧
    (let s : State := paged (aDescriptor.set 0x11 1) (solo (fnWave 0x40000 255 0)); let a : Code := 10; let b : Code := 12; let fid := (s.w.ws b).toNat;
      let va := (s.w.ws2 a).toNat; let bs := (okOr (s.uniRead va 352 64) ([], s)).1; let r := (okOr (s.uniRead va 352 64) ([], s)).2;
      let tr := ((r.tableFault (s.ctxN s.cur.g) (FDesc.parse bs)).getD { cls := 0 }); let f := FDesc.parse bs; s.uniRead va 352 64 = .ok (bs, r) ∧
      s.issues (.fdef a b) ∧ s.w.quant = 0 ∧ s.w.inflight = [] ∧ fid ≤ 255 ∧ descFault bs = none ∧
      r.tableFault (s.ctxN s.cur.g) (FDesc.parse bs) = some tr ∧ f.table % 2 ^ 16 ≠ 0) ∧
    (let s : State := paged (aDescriptor.set 0x12 5) (solo (fnWave 0x40000 255 0)); let a : Code := 10; let b : Code := 12; let fid := (s.w.ws b).toNat;
      let va := (s.w.ws2 a).toNat; let bs := (okOr (s.uniRead va 352 64) ([], s)).1; let r := (okOr (s.uniRead va 352 64) ([], s)).2;
      let tr := ((r.tableFault (s.ctxN s.cur.g) (FDesc.parse bs)).getD { cls := 0 }); let f := FDesc.parse bs; s.uniRead va 352 64 = .ok (bs, r) ∧
      s.issues (.fdef a b) ∧ s.w.quant = 0 ∧ s.w.inflight = [] ∧ fid ≤ 255 ∧ descFault bs = none ∧
      r.tableFault (s.ctxN s.cur.g) (FDesc.parse bs) = some tr ∧ f.table % 2 ^ 16 = 0) ∧
    (let s : State := paged (aDescriptor.set 0x12 5) (solo (fnWave 0x40000 255 0)); let a : Code := 10; let b : Code := 12; let fid := (s.w.ws b).toNat;
      let va := (s.w.ws2 a).toNat; let bs := (okOr (s.uniRead va 352 64) ([], s)).1; let r := (okOr (s.uniRead va 352 64) ([], s)).2;
      let tr := ((r.tableFault (s.ctxN s.cur.g) (FDesc.parse bs)).getD { cls := 0 }); s.uniRead va 352 64 = .ok (bs, r) ∧ s.issues (.fdef a b) ∧
      s.w.quant = 0 ∧ s.w.inflight = [] ∧ fid ≤ 255 ∧ descFault bs = none ∧ r.tableFault (s.ctxN s.cur.g) (FDesc.parse bs) = some tr) ∧
    (let s : State := paged (aDescriptor) (solo (fnWave 0x40000 255 0)); let a : Code := 10; let b : Code := 12; let fid := (s.w.ws b).toNat;
      let va := (s.w.ws2 a).toNat; let bs := (okOr (s.uniRead va 352 64) ([], s)).1; let r := (okOr (s.uniRead va 352 64) ([], s)).2;
      s.uniRead va 352 64 = .ok (bs, r) ∧ s.issues (.fdef a b) ∧ s.w.quant = 0 ∧ s.w.inflight = [] ∧ fid ≤ 255 ∧ descriptorLegal bs ∧
      bs.length = 352 ∧ r.tableFault (s.ctxN s.cur.g) (FDesc.parse bs) = none ∧ s.w.fl < 63) ∧
    (let s : State := functioned (solo (fnWave 0x40010 0x20006 8)); let a : Code := 10; let b : Code := 12; let c := (s.w.ws b).toNat;
      let fid := c % 2 ^ 8; let m := c / 2 ^ 16; let ctx := s.ctxN s.cur.g; let f := (s.fent ctx fid).desc; let va := (s.w.ws2 a).toNat;
      let tr := errOr (s.uniRead va (m * f.size) 64) { cls := 0 }; s.uniRead va (m * f.size) 64 = .error tr ∧ s.issues (.fpre a b) ∧ s.w.quant = 0 ∧
      s.w.inflight = [] ∧ c / 2 ^ 8 % 2 ^ 8 = 0 ∧ (s.fent ctx fid).defined = true) ∧
    (let s : State := paged (aFunction.image 6 (some (aRec 5 4 0x3FC00000)) ++ aFunction.image 7 (some (aRec 5 4 0x3FC00000)) ++ aFunction.image 6 (some (aRec 5 4 0x7FC00000))) (functioned (solo (fnWave 0x40000 0x30006 8)));
      let a : Code := 10; let b : Code := 12; let c := (s.w.ws b).toNat; let fid := c % 2 ^ 8; let m := c / 2 ^ 16; let ctx := s.ctxN s.cur.g;
      let f := (s.fent ctx fid).desc; let va := (s.w.ws2 a).toNat; let bs := (okOr (s.uniRead va (m * f.size) 64) ([], s)).1;
      let r := (okOr (s.uniRead va (m * f.size) 64) ([], s)).2; s.uniRead va (m * f.size) 64 = .ok (bs, r) ∧ s.issues (.fpre a b) ∧ s.w.quant = 0 ∧
      s.w.inflight = [] ∧ c / 2 ^ 8 % 2 ^ 8 = 0 ∧ (s.fent ctx fid).defined = true ∧ s.w.fl < 63 ∧ s.fsCounted ctx fid) :=
  ⟨by delta State.issues; dsimp only; decide +kernel,
    ⟨errSelf (by decide +kernel), by delta State.issues; decide +kernel⟩,
    ⟨okPair (by decide +kernel), by delta State.issues; decide +kernel⟩,
    ⟨okPair (by decide +kernel), by delta State.issues; decide +kernel⟩,
    ⟨okPair (by decide +kernel), by delta State.issues; decide +kernel⟩,
    ⟨okPair (by decide +kernel), by delta State.issues; decide +kernel⟩,
    ⟨okPair (by decide +kernel), by delta State.issues descriptorLegal; decide +kernel⟩,
    ⟨errSelf (by decide +kernel), by delta State.issues; decide +kernel⟩,
    ⟨okPair (by decide +kernel), by delta State.issues State.fsCounted; decide +kernel⟩⟩

/-- The hypotheses of `FcallAndFretServeMisses`, clause by clause, can be met together. -/
theorem test_meets_FcallAndFretServeMisses :
    ((let s : State := functioned (solo { argWave with quant := 3, buf := [.fs [anOp [3] .invalidate]] }); let d : Code := 3; let a : Code := 4;
        let b : Code := 12; s.issues (.fcall d a b) ∧ s.w.quant ≠ 0 ∧ s.w.search = none ∧ s.w.sup = false ∧ s.w.frame = none ∧
        s.w.holdsRemake (s.w.ws b).toNat = true) ∧
      (let s : State := functioned (solo missWave); let d : Code := 4; let a : Code := 2; let b : Code := 12; let w := s.w; s.issues (.fcall d a b) ∧
        s.w.quant = 0 ∧ s.w.buf = [] ∧ (∀ o ∈ s.fsOps, o.wave ≠ s.cur) ∧ w.search = none ∧ w.sup = false ∧ w.frame ≠ none)) ∧
    ((let s : State := solo argWave; let d : Code := 4; let a : Code := 2; let b : Code := 12; let w := s.w; let ctx := s.ctxN s.cur.g;
        let fid := (w.ws b).toNat; let e := s.fent ctx fid; let known := fid ≤ 255 ∧ e.defined = true; s.issues (.fcall d a b) ∧ s.w.quant = 0 ∧
        s.w.buf = [] ∧ (∀ o ∈ s.fsOps, o.wave ≠ s.cur) ∧ w.search = none ∧ w.sup = false ∧ w.frame = none ∧ (¬ known)) ∧
      (let s : State := functioned (solo { argWave with alloc := 6 }) 3; let d : Code := 4; let a : Code := 2; let b : Code := 12; let w := s.w;
        let ctx := s.ctxN s.cur.g; let fid := (w.ws b).toNat; let e := s.fent ctx fid; let f := e.desc; let n := if f.f64 then 2 else 1;
        let known := fid ≤ 255 ∧ e.defined = true;
        let placed := (n = 2 → a.toNat % 2 = 0 ∧ d.toNat % 2 = 0) ∧ w.wbase + a.toNat + n * f.d ≤ w.alloc ∧ w.wbase + d.toNat + n * f.k ≤ w.alloc;
        s.issues (.fcall d a b) ∧ s.w.quant = 0 ∧ s.w.buf = [] ∧ (∀ o ∈ s.fsOps, o.wave ≠ s.cur) ∧ w.search = none ∧ w.sup = false ∧ w.frame = none ∧
        known ∧ (¬ placed))) ∧
    ((let s : State := functioned (solo (regs argWave [(61,0),(62,0)])); let d : Code := 4; let a : Code := 2; let b : Code := 12; let w := s.w;
        let ctx := s.ctxN s.cur.g; let fid := (w.ws b).toNat; let e := s.fent ctx fid; let f := e.desc; let n := if f.f64 then 2 else 1;
        let known := fid ≤ 255 ∧ e.defined = true;
        let placed := (n = 2 → a.toNat % 2 = 0 ∧ d.toNat % 2 = 0) ∧ w.wbase + a.toNat + n * f.d ≤ w.alloc ∧ w.wbase + d.toNat + n * f.k ≤ w.alloc;
        s.issues (.fcall d a b) ∧ s.w.quant = 0 ∧ s.w.buf = [] ∧ (∀ o ∈ s.fsOps, o.wave ≠ s.cur) ∧ w.search = none ∧ w.sup = false ∧ w.frame = none ∧
        known ∧ placed ∧ w.badRows = [] ∧ w.actives = []) ∧
      (let s : State := functioned (solo argWave); let d : Code := 4; let a : Code := 2; let b : Code := 12; let w := s.w; let ctx := s.ctxN s.cur.g;
        let fid := (w.ws b).toNat; let e := s.fent ctx fid; let f := e.desc; let n := if f.f64 then 2 else 1;
        let known := fid ≤ 255 ∧ e.defined = true;
        let placed := (n = 2 → a.toNat % 2 = 0 ∧ d.toNat % 2 = 0) ∧ w.wbase + a.toNat + n * f.d ≤ w.alloc ∧ w.wbase + d.toNat + n * f.k ≤ w.alloc;
        s.issues (.fcall d a b) ∧ s.w.quant = 0 ∧ s.w.buf = [] ∧ (∀ o ∈ s.fsOps, o.wave ≠ s.cur) ∧ w.search = none ∧ w.sup = false ∧ w.frame = none ∧
        known ∧ placed ∧ w.badRows = [] ∧ w.actives ≠ [] ∧ w.hold = none ∧
        (∃ t ∈ w.actives, (f.cells (w.elements (w.wbase + a.toNat) n f.d t)).isSome = true))) ∧
    ((let s : State := functioned (solo { argWave with search := some (aSearch false) }); let d : Code := 4; let a : Code := 2; let b : Code := 12;
        let w := s.w; let ctx := s.ctxN s.cur.g; let q := w.search.getD (aSearch true);
        let miss := q.list.filter (fun y => decide (y.res = some none)); s.issues (.fcall d a b) ∧ s.w.quant = 0 ∧ s.w.buf = [] ∧
        (∀ o ∈ s.fsOps, o.wave ≠ s.cur) ∧ w.sup = false ∧ w.frame = none ∧ w.search = some q ∧ q.err = none ∧ (∀ y ∈ q.list, y.res.isSome = true) ∧
        (q.list.map (·.t)).Nodup ∧ (∀ y ∈ q.list, y.t < threads ∧ (match y.res with | some (some r) => r.2.2.length == q.desc.k | _ => true) = true) ∧
        s.fsCounted ctx q.fid ∧ miss = []) ∧
      (let s : State := functioned (solo { argWave with search := some (aSearch true), tokens := fullStack }); let d : Code := 4; let a : Code := 2;
        let b : Code := 12; let w := s.w; let ctx := s.ctxN s.cur.g; let q := w.search.getD (aSearch true);
        let miss := q.list.filter (fun y => decide (y.res = some none)); s.issues (.fcall d a b) ∧ s.w.quant = 0 ∧ s.w.buf = [] ∧
        (∀ o ∈ s.fsOps, o.wave ≠ s.cur) ∧ w.sup = false ∧ w.frame = none ∧ w.search = some q ∧ q.err = none ∧ (∀ y ∈ q.list, y.res.isSome = true) ∧
        (q.list.map (·.t)).Nodup ∧ (∀ y ∈ q.list, y.t < threads ∧ (match y.res with | some (some r) => r.2.2.length == q.desc.k | _ => true) = true) ∧
        s.fsCounted ctx q.fid ∧ miss ≠ [] ∧ 32 + s.cr.tokLen / 32 ≤ w.tokens.length + w.spilled)) ∧
    ((let s : State := functioned (solo { argWave with search := some (aSearch true) }); let d : Code := 4; let a : Code := 2; let b : Code := 12;
        let w := s.w; let ctx := s.ctxN s.cur.g; let q := w.search.getD (aSearch true);
        let miss := q.list.filter (fun y => decide (y.res = some none)); s.issues (.fcall d a b) ∧ s.w.quant = 0 ∧ s.w.buf = [] ∧
        (∀ o ∈ s.fsOps, o.wave ≠ s.cur) ∧ w.sup = false ∧ w.frame = none ∧ w.search = some q ∧ q.err = none ∧ (∀ y ∈ q.list, y.res.isSome = true) ∧
        (q.list.map (·.t)).Nodup ∧ (∀ y ∈ q.list, y.t < threads ∧ (match y.res with | some (some r) => r.2.2.length == q.desc.k | _ => true) = true) ∧
        s.fsCounted ctx q.fid ∧ miss ≠ [] ∧ w.tokens.length < 32 ∧ w.tokens.length + w.spilled < 32 + s.cr.tokLen / 32) ∧
      (let s : State := solo argWave; let d : Code := 4; let a : Code := 2; let b : Code := 12; s.issues (.fcall d a b) ∧ s.w.quant = 0 ∧ s.w.buf = [] ∧
        (∀ o ∈ s.fsOps, o.wave ≠ s.cur))) ∧
    ((let s : State := functioned (solo { missWave with sup := true }); let a : Code := 6; let b : Code := 8; let w := s.w; s.issues (.fret a b) ∧
        s.w.quant = 0 ∧ w.sup = true) ∧
      (let s : State := functioned (solo { missWave with frame := none }); let a : Code := 6; let b : Code := 8; let w := s.w; s.issues (.fret a b) ∧
        s.w.quant = 0 ∧ w.sup = false ∧ w.frame = none)) ∧
    ((let s : State := functioned (solo { missWave with tokens := [] }); let a : Code := 6; let b : Code := 8; let w := s.w; s.issues (.fret a b) ∧
        s.w.quant = 0 ∧ w.sup = false ∧ w.frame ≠ none ∧ w.tokens = [] ∧ w.spilled = 0) ∧
      (let s : State := functioned (solo { missWave with tokens := [tokenOf 0 4] }); let a : Code := 6; let b : Code := 8; let w := s.w;
        let tok := w.tokens.headD (tokenOf 0 0); let ts := w.tokens.tail; s.issues (.fret a b) ∧ s.w.quant = 0 ∧ w.sup = false ∧ w.frame ≠ none ∧
        w.tokens = tok :: ts ∧ tok.kind ≠ 2)) ∧
    ((let s : State := functioned (solo { missWave with alloc := 10, frame := some ⟨6, 4, 1, 3, false, [31, 33], [31], 4, 2, 8⟩ }) 3; let a : Code := 8;
        let b : Code := 6; let w := s.w; let fr := w.frame.getD ⟨6, 4, 1, 1, false, [], [], 4, 2, 8⟩; let tok := w.tokens.headD (tokenOf 0 0);
        let ts := w.tokens.tail; let n := if fr.f64 then 2 else 1;
        let placed := (n = 2 → a.toNat % 2 = 0 ∧ b.toNat % 2 = 0) ∧ w.wbase + a.toNat + n * fr.k ≤ w.alloc ∧ w.wbase + b.toNat + n * (fr.k * fr.d) ≤ w.alloc;
        s.issues (.fret a b) ∧ s.w.quant = 0 ∧ w.sup = false ∧ w.frame = some fr ∧ w.tokens = tok :: ts ∧ tok.kind = 2 ∧ (¬ placed)) ∧
      (let s : State := functioned (solo { missWave with wbase := 0 }); let a : Code := 6; let b : Code := 8; let w := s.w; let ctx := s.ctxN s.cur.g;
        let fr := w.frame.getD ⟨6, 4, 1, 1, false, [], [], 4, 2, 8⟩; let tok := w.tokens.headD (tokenOf 0 0); let ts := w.tokens.tail;
        let n := if fr.f64 then 2 else 1;
        let placed := (n = 2 → a.toNat % 2 = 0 ∧ b.toNat % 2 = 0) ∧ w.wbase + a.toNat + n * fr.k ≤ w.alloc ∧ w.wbase + b.toNat + n * (fr.k * fr.d) ≤ w.alloc;
        s.issues (.fret a b) ∧ s.w.quant = 0 ∧ w.sup = false ∧ w.frame = some fr ∧ w.tokens = tok :: ts ∧ tok.kind = 2 ∧ placed ∧ w.badRows = [] ∧
        w.fl < 63 ∧ fr.miss.Nodup ∧ s.fsCounted ctx fr.fid)) :=
  ⟨by delta State.issues; dsimp only; decide +kernel,
    by delta State.issues; dsimp only; decide +kernel,
    by delta State.issues; dsimp only; decide +kernel,
    by delta State.issues State.fsCounted; dsimp only; decide +kernel,
    by delta State.issues State.fsCounted; dsimp only; decide +kernel,
    by delta State.issues; dsimp only; decide +kernel,
    by delta State.issues; dsimp only; decide +kernel,
    by delta State.issues State.fsCounted; dsimp only; decide +kernel⟩

/-- The hypotheses of `FunctionStoresApplyOperations`, clause by clause, can be met together. -/
theorem test_meets_FunctionStoresApplyOperations :
    ((let s : State := { storing 3 [none, some (aRec 8 4 0x3FC00000)] [] (solo seeker) with ctxs := [(1, { tkey := 1 })] }; let g : Nat := 1;
        let wv : Nat := 0; let t : Nat := 0; let q : Searching := ⟨6, 4, aFunction, [⟨0, [0x3FE00000], 3, true, none⟩], none, []⟩;
        let y : Search1 := ⟨0, [0x3FE00000], 3, true, none⟩; let ways : List (Option FRec) := [none, some (aRec 8 4 0x3FC00000)];
        let cs : List Int := [1]; let id : WaveId := ⟨g, wv⟩; let ctx := s.ctxN g; let f := q.desc; (s.wv id).search = some q ∧
        q.list.find? (fun z => decide (z.t = t) && z.res.isNone) = some y ∧ (∀ o ∈ s.fsOps, o.wave ≠ id) ∧ s.bucketIs ctx q.fid y.bucket ways ∧
        f.cells y.x = some cs ∧ (∀ w ∈ ways, (match w with | some r => !r.bad | none => true) = true) ∧ f ≠ (s.fent ctx q.fid).desc) ∧
      (let s : State := storing 3 [none, some (aRec 8 4 0x3FC00000)] [] (solo seeker); let g : Nat := 1; let wv : Nat := 0; let t : Nat := 0;
        let q : Searching := ⟨6, 4, aFunction, [⟨0, [0x3FE00000], 3, true, none⟩], none, []⟩; let y : Search1 := ⟨0, [0x3FE00000], 3, true, none⟩;
        let ways : List (Option FRec) := [none, some (aRec 8 4 0x3FC00000)]; let cs : List Int := [1]; let id : WaveId := ⟨g, wv⟩;
        let ctx := s.ctxN g; let f := q.desc; let gen := (aget s.storeGen (ctx, q.fid, y.bucket % 12)).getD 0;
        let holds := fun (k : Nat) (r : FRec) => ways.getD k none = some r ∧ r.gen = gen ∧ f.contains r y.x cs = true; let k := (1 : Nat);
        let r := aRec 8 4 0x3FC00000; (s.wv id).search = some q ∧ q.list.find? (fun z => decide (z.t = t) && z.res.isNone) = some y ∧
        (∀ o ∈ s.fsOps, o.wave ≠ id) ∧ s.bucketIs ctx q.fid y.bucket ways ∧ f.cells y.x = some cs ∧
        (∀ w ∈ ways, (match w with | some r => !r.bad | none => true) = true) ∧ f = (s.fent ctx q.fid).desc ∧ k < 8 ∧ holds k r ∧
        (∀ j, j < k → (match ways.getD j none with | some r => !(decide (r.gen = gen) && f.contains r y.x cs) | none => true) = true)) ∧
      (let s : State := storing 3 [none, some (aRec 8 3 0x3FC00000)] [] (solo seeker); let g : Nat := 1; let wv : Nat := 0; let t : Nat := 0;
        let q : Searching := ⟨6, 4, aFunction, [⟨0, [0x3FE00000], 3, true, none⟩], none, []⟩; let y : Search1 := ⟨0, [0x3FE00000], 3, true, none⟩;
        let ways : List (Option FRec) := [none, some (aRec 8 3 0x3FC00000)]; let cs : List Int := [1]; let id : WaveId := ⟨g, wv⟩;
        let ctx := s.ctxN g; let f := q.desc; let gen := (aget s.storeGen (ctx, q.fid, y.bucket % 12)).getD 0; (s.wv id).search = some q ∧
        q.list.find? (fun z => decide (z.t = t) && z.res.isNone) = some y ∧ (∀ o ∈ s.fsOps, o.wave ≠ id) ∧ s.bucketIs ctx q.fid y.bucket ways ∧
        f.cells y.x = some cs ∧ (∀ w ∈ ways, (match w with | some r => !r.bad | none => true) = true) ∧
        (∀ j, j < 8 → (match ways.getD j none with | some r => !(decide (r.gen = gen) && f.contains r y.x cs) | none => true) = true)) ∧
      (let s : State := storing 3 [none, some (aRec 8 4 0x3FC00000)] [anOp [3] (.increment 3 1 8)] (solo seeker);
        let o : FsOp := anOp [3] (.increment 3 1 8); let os : List FsOp := []; let st : Nat := 3; let b : Nat := 3; let way : Nat := 1;
        let rid : Nat := 8; let ways : List (Option FRec) := [none, some (aRec 8 4 0x3FC00000)]; s.firstOp o st os ∧ o.kind = .increment b way rid ∧
        st = b % 12 ∧ s.bucketIs o.ctx o.fid b ways)) ∧
    ((let s : State := storing 3 otherWays [anOp [3] (anInsert 4)] (solo seeker); let o : FsOp := anOp [3] (anInsert 4); let os : List FsOp := [];
        let st : Nat := 3; let gen : Nat := 4; let b : Nat := 3; let x : List Nat := [0x3FE00000]; let v : List Nat := [0x40100000];
        let jac : List Nat := [0x3F800000]; let cs : List Int := [1]; let ways : List (Option FRec) := otherWays; let f := (s.fent o.ctx o.fid).desc;
        s.firstOp o st os ∧ o.kind = .insert gen b x v jac ∧ st = b % 12 ∧ s.bucketIs o.ctx o.fid b ways ∧ ways.length = 8 ∧ s.fsCounted o.ctx o.fid ∧
        f.cells x = some cs) ∧
      (let s : State := storing 3 otherWays [anOp [3] (.preload 3 9 [1] [2] [3] [4])] (solo seeker);
        let o : FsOp := anOp [3] (.preload 3 9 [1] [2] [3] [4]); let os : List FsOp := []; let st : Nat := 3; let b : Nat := 3; let hits : Nat := 9;
        let k : Nat := 0; let c : List Nat := [1]; let rho : List Nat := [2]; let f0 : List Nat := [3]; let jac : List Nat := [4];
        let ways : List (Option FRec) := otherWays; s.firstOp o st os ∧ o.kind = .preload b hits c rho f0 jac ∧ st = b % 12 ∧
        s.bucketIs o.ctx o.fid b ways ∧ ways.length = 8 ∧ s.fsCounted o.ctx o.fid ∧ takesWay ((aget s.storeGen (o.ctx, o.fid, st)).getD 0) ways k) ∧
      (let s : State := storing 3 otherWays [anOp [3] .invalidate] (solo seeker); let o : FsOp := anOp [3] .invalidate; let os : List FsOp := [];
        let st : Nat := 3; let f : FDesc := aFunction; let def_ : Bool := false; s.fsOps = o :: os ∧ o.stores.Nodup ∧ st ∈ o.stores ∧
        (∀ p ∈ os, p.grp ≠ o.grp) ∧ (o.kind = (if def_ then .define f else .invalidate)) ∧ (aget s.storeGen (o.ctx, o.fid, st)).getD 0 + 1 < 2 ^ 32) ∧
      (let s : State := storing 3 otherWays [] (solo seeker); let ctx : Nat := 1; let fid : Nat := 6; let b : Nat := 3;
        let ways : List (Option FRec) := otherWays; let f := (s.fent ctx fid).desc;
        let piece := fun (i : Nat) => s.tablePlace ctx (f.table + 8 * b * f.size + 64 * i); s.bucketIs ctx fid b ways ∧ s.fsCounted ctx fid ∧
        (∃ i, i < 8 * f.size / 64 ∧ piece i = none))) ∧
    (let s : State := paged [] (storing 3 otherWays [] (solo seeker)); let ctx : Nat := 1; let fid : Nat := 6; let b : Nat := 3;
        let ways : List (Option FRec) := otherWays; let f := (s.fent ctx fid).desc;
        let piece := fun (i : Nat) => s.tablePlace ctx (f.table + 8 * b * f.size + 64 * i); s.bucketIs ctx fid b ways ∧ s.fsCounted ctx fid ∧
        (∀ i, i < 8 * f.size / 64 → (piece i).isSome = true)) :=
  ⟨by delta State.firstOp State.bucketIs; dsimp only; decide +kernel,
    by delta State.fsCounted State.firstOp takesWay State.bucketIs; dsimp only; decide +kernel,
    by delta State.fsCounted State.bucketIs; decide +kernel⟩

/-- The hypotheses of `StewardsGrantMoveAndTranslate`, clause by clause, can be met together. -/
theorem test_meets_StewardsGrantMoveAndTranslate :
    ((let s : State := solo aWave; let n : Nat := 0; let c : Nat := 1; let x := s.sectorOf_ n; 1 ≤ c % 8 ∧ c % 8 ≤ 5 ∧ c < 16 ∧ x.reqs = []) ∧
      (let s : State := leaving 0 25; let n : Nat := 0; let c : Nat := 2; let id : WaveId := ⟨1,0⟩; let rest : List (WaveId × Nat) := [];
        let x := s.sectorOf_ n; let budget := if 95 ≤ x.temp then 96 else 192; 1 ≤ c % 8 ∧ c % 8 ≤ 5 ∧ c < 16 ∧ x.reqs = (id, c) :: rest ∧
        (∀ r ∈ x.reqs, s.requests r) ∧ (∀ r ∈ x.reqs, s.coreHolds (s.wv r.1).core (r.2 % 8) = false) ∧ s.heldCharges n + leaveCharge (c % 8) ≤ budget) ∧
      (let s : State := leaving 16 95; let n : Nat := 0; let c : Nat := 2; let id : WaveId := ⟨1,0⟩; let rest : List (WaveId × Nat) := [];
        let x := s.sectorOf_ n; let budget := if 95 ≤ x.temp then 96 else 192; 1 ≤ c % 8 ∧ c % 8 ≤ 5 ∧ c < 16 ∧ x.reqs = (id, c) :: rest ∧
        (∀ r ∈ x.reqs, s.requests r) ∧ (∀ r ∈ x.reqs, s.coreHolds (s.wv r.1).core (r.2 % 8) = false) ∧ budget < s.heldCharges n + leaveCharge (c % 8))) ∧
    ((let s : State := { leaving 16 95 with waves := (leaving 16 95).waves ++ [(⟨1,1⟩, { lvCls := 2, lvGnt := true })] }; let n : Nat := 0;
        let c : Nat := 2; let id : WaveId := ⟨1,0⟩; let rest : List (WaveId × Nat) := []; let x := s.sectorOf_ n; let k : Nat := (0:Nat);
        let r : WaveId × Nat := ((⟨1,0⟩, 2) : WaveId × Nat); 1 ≤ c % 8 ∧ c % 8 ≤ 5 ∧ c < 16 ∧ x.reqs = (id, c) :: rest ∧
        (∀ r ∈ x.reqs, s.requests r) ∧ x.reqs[k]? = some r ∧ s.coreHolds (s.wv r.1).core (r.2 % 8) = true ∧
        (∀ q ∈ x.reqs.take k, s.coreHolds (s.wv q.1).core (q.2 % 8) = false)) ∧
      (let s : State := arrivesAt 5 4 (solo aWave); let b : Nat := bucketOf 0x800; (∃ a ∈ s.arrivals, bucketOf (a.pa / 128) = b)) ∧
      (let s : State := { solo aWave with sc := [((1, 0x800), aLine)], llcKey := [(0x800, 1)], llc := [(0x40001, 6)] }; let b : Nat := 4095;
        let slice : Nat := 0; b < 4096 ∧ slice < 192 ∧ s.sliceOfBucket b ≠ slice ∧ (∀ a ∈ s.arrivals, bucketOf (a.pa / 128) ≠ b) ∧ s.frames = [])) ∧
    ((let s : State := imaged (solo aWave); let g : Nat := 1; let cr : Nat := 0; let ln : Nat := 1; let c : CrewId := ⟨g, cr⟩; let x := s.crewOf c;
        (x.bound = false ∨ ln ∉ x.lsDirty)) ∧
      (let s : State := imaged (solo aWave); let g : Nat := 1; let cr : Nat := 0; let ln : Nat := 0; let c : CrewId := ⟨g, cr⟩; let x := s.crewOf c;
        x.bound = true ∧ ln ∈ x.lsDirty ∧ 128 * ln < x.lsLen ∧ x.image % 2 ^ 16 = 0 ∧ x.image + 128 * ln + 128 ≤ deviceEnd) ∧
      (let s : State := solo aWave; let ctx : Nat := 2; let value : Nat := 5; value < 2 ^ 64 ∧ aget s.ctxs ctx = none)) ∧
    ((let pa : Nat := 0x24004; let value : Nat := 5; value < 2 ^ 64 ∧ pa % 8 ≠ 0) ∧
      (let s : State := solo aWave; let ctx : Nat := 1; let pa : Nat := 0x24008; let value : Nat := 2^64-1; let c : Ctx := { tkey := 1, quota := 64 };
        value < 2 ^ 64 ∧ aget s.ctxs ctx = some c ∧ s.plainAt pa 8)) :=
  ⟨by delta State.requests; dsimp only; decide +kernel,
    by delta State.requests; dsimp only; decide +kernel,
    by dsimp only; decide +kernel,
    by delta State.plainAt; dsimp only; decide +kernel⟩

/-- The hypotheses of `ContextsAndDiesBeginAndEnd`, clause by clause, can be met together. -/
theorem test_meets_ContextsAndDiesBeginAndEnd :
    ((let s : State := solo aWave; let ctx : Nat := 1; let root : Nat := 0x2000; let key : Nat := 3;
        (s.portUp = false ∨ (aget s.ctxs ctx).isSome = true ∨ key = 0 ∨ 256 ≤ key ∨ root % 8192 ≠ 0)) ∧
      (let s : State := { solo aWave with dies := allBooted { booted := true } }; let ctx : Nat := 2; let root : Nat := 0x2000; let key : Nat := 255;
        s.portUp = true ∧ aget s.ctxs ctx = none ∧ 1 ≤ key ∧ key < 256 ∧ root % 8192 = 0 ∧ root + 8192 ≤ deviceEnd) ∧
      (let s : State := solo aWave; let ctx : Nat := 1; let c : Ctx := { tkey := 1, quota := 64 }; aget s.ctxs ctx = some c ∧
        (∃ p ∈ s.grids, p.2.ctx = ctx ∧ p.2.ended = false)) ∧
      (let s : State := { solo aWave with grids := [(1, { ctx := 1, ended := true })], hostWin := [(3, 1), (4, 2)], buckets := [((1, 6, 3), ⟨true, []⟩)] };
        let ctx : Nat := 1; let c : Ctx := { tkey := 1, quota := 64 }; aget s.ctxs ctx = some c ∧ (∀ p ∈ s.grids, p.2.ctx = ctx → p.2.ended = true)) ∧
      (let s : State := solo aWave; let die : Nat := 4; s.moduleUp = true ∧ (4 ≤ die ∨ (s.dieOf die).booted = true)) ∧
      (let s : State := solo aWave; let die : Nat := 3; s.moduleUp = true ∧ die < 4 ∧ (s.dieOf die).booted = false) ∧
      (let s : State := { solo aWave with moduleUp := false }; s.moduleUp = false) ∧
      (let s : State := solo aWave; s.portUp = false) ∧
      (let s : State := { solo aWave with dies := allBooted { booted := true }, measured := [[1], [2, 3]], identityKey := [9] }; let n : Nat := 5;
        s.portUp = true ∧ (s.keyExchange = none ∨ s.keyExchange = some n)) ∧
      (let s : State := { solo aWave with dies := allBooted { booted := true }, measured := [[1], [2, 3]], identityKey := [9] }; s.portUp = true ∧
        s.keyExchange = none)) ∧
    ((let s : State := { solo aWave with dies := allBooted { booted := true }, measured := [[1], [2, 3]], identityKey := [9], keyExchange := some 6 };
        let n : Nat := 5; let m : Nat := 6; let k : Nat := 0; s.portUp = true ∧ k < 3 ∧ s.keyExchange = some m ∧ m ≠ n) ∧
      (let s : State := { solo aWave with dies := allBooted { booted := true }, measured := [[1], [2, 3]], identityKey := [9] }; s.portUp = true ∧
        s.keyExchange = none) ∧
      (let s : State := { solo aWave with dies := allBooted { booted := true }, measured := [[1], [2, 3]], identityKey := [9] }; let k : Nat := 3;
        s.portUp = true ∧ 3 ≤ k) ∧
      (let s : State := { solo aWave with dies := allBooted { booted := true }, measured := [[1], [2, 3]], identityKey := [9], keyExchange := some 5 };
        let n : Nat := 5; s.portUp = true ∧ s.keyExchange = some n)) :=
  ⟨by dsimp only; decide +kernel,
    by dsimp only; decide +kernel⟩

/-- The hypotheses of `HostAccessesKeepTheirHalves`, clause by clause, can be met together. -/
theorem test_meets_HostAccessesKeepTheirHalves :
    ((let s : State := solo aWave; let pa : Nat := deviceEnd; (deviceEnd ≤ pa ∨ s.portUp = false)) ∧
      (let s : State := solo aWave; s.portUp = false) ∧
      (let s : State := { hosted none (solo aWave) with keys := [] }; let pa : Nat := 0x40000; let k := 1; aget s.hostWin (pa / 2 ^ 30) = some k ∧
        s.keyInst (pa / 128) k = none) ∧
      (let s : State := solo aWave; let pa : Nat := 0x40000; aget s.hostWin (pa / 2 ^ 30) = none) ∧
      (let s : State := { hosted none (solo aWave) with keys := [] }; let pa : Nat := 0x40000; let data : List Byte := [1]; s.portUp = true ∧
        pa < deviceEnd ∧ s.hostOpen pa = false ∧ data ≠ [] ∧ pa % 64 + data.length ≤ 64) ∧
      (let s : State := { hosted none (solo aWave) with keys := [] }; let pa : Nat := 0x40000; s.portUp = true ∧ pa < deviceEnd ∧ s.hostOpen pa = false) ∧
      (let s : State := hosted (some (3, [])) (solo aWave); let pa : Nat := 0x40000; s.portUp = true ∧ s.hostOpen pa = true) ∧
      (let s : State := hosted (some (1, [])) (lined aWave); let pa : Nat := 0x40004; let key : Nat := 1; let data : List Byte := [1,2,3,4,5,6,7,8];
        s.portUp = true ∧ s.hostOpen pa = true ∧ aget s.hostWin (pa / 2 ^ 30) = some key ∧ data ≠ [] ∧ pa % 64 + data.length ≤ 64 ∧
        s.holdOf (pa / 64) < 2 ∧ aget s.frames (pa / 128) = none ∧ s.imageAt (pa / 128) = none) ∧
      (let s : State := hosted none (opened 2 (solo aWave)); let pa : Nat := 0x40004; let key : Nat := 1; let data : List Byte := [1,2,3,4,5,6,7,8];
        let f := aFrame 2; s.portUp = true ∧ s.hostOpen pa = true ∧ aget s.hostWin (pa / 2 ^ 30) = some key ∧ data ≠ [] ∧ pa % 64 + data.length ≤ 64 ∧
        s.holdOf (pa / 64) < 2 ∧ aget s.frames (pa / 128) = some f ∧ ((s.ctxOf f.ctx).session f.idx).state = 1) ∧
      (let s : State := hosted (some (2, [])) (solo aWave); let pa : Nat := 0x40001; let key : Nat := 1; let data : List Byte := [7, 8]; let h := 2;
        let d := []; s.portUp = true ∧ s.hostOpen pa = true ∧ aget s.hostWin (pa / 2 ^ 30) = some key ∧ data ≠ [] ∧ pa % 64 + data.length ≤ 64 ∧
        aget s.hostHalf (pa / 64) = some (h, d) ∧ (h = 2 ∨ h = 3))) ∧
    ((let s : State := hosted (some (3, [3,4])) (solo aWave); let pa : Nat := 0x40004; let d : List Byte := [3,4]; s.portUp = true ∧ s.hostOpen pa = true ∧
        aget s.hostHalf (pa / 64) = some (3, d) ∧ s.imageAt (pa / 128) = none) ∧
      (let s : State := { solo aWave with dies := allBooted { booted := true }, llc := [(2^51 + 0x40005, 7), (2^51 + 0x40045, 9)], sysMem := bytesAt (2^51 + 0x40004) [1,2,3], hostHalf := [(2^45 + 0x1000, (1, []))] };
        let pa : Nat := 2^51 + 0x40004; s.portUp = true ∧ pa / 2 ^ 51 % 2 = 1 ∧ windowOf pa = none ∧ windowOf (pa / 128 * 128) = none ∧
        (s.llc.map (·.1)).Nodup ∧ s.sysMem.wf = true ∧ (aget s.hostHalf (pa / 64)).isSome = true) ∧
      (let s : State := { solo aWave with dies := allBooted { booted := true }, llc := [(2^51 + 0x40005, 7), (2^51 + 0x40045, 9)], sysMem := bytesAt (2^51 + 0x40004) [1,2,3] };
        let pa : Nat := 2^51 + 0x40004; s.portUp = true ∧ pa / 2 ^ 51 % 2 = 1 ∧ windowOf pa = none ∧ windowOf (pa / 128 * 128) = none ∧
        (s.llc.map (·.1)).Nodup ∧ s.sysMem.wf = true)) :=
  ⟨by dsimp only; decide +kernel,
    by dsimp only; decide +kernel⟩

/-- The hypotheses of `FabricDevicesExchangeOnce`, clause by clause, can be met together. -/
theorem test_meets_FabricDevicesExchangeOnce :
    ((let s : State := linked [1,2] 0 false; let k : Nat := 8; s.linkShut k) ∧
      (let s : State := linked [1,2] 0 false; let k : Nat := 8; let x := s.linkOf k; x.training = false) ∧
      (let s : State := linked [1,2] 15 true; let k : Nat := 2; let ok : Bool := true; let x := s.linkOf k;
        let trained := { x with training := false, again := none, resends := 0, up := ok }; x.training = true ∧
        (ok = true ∨ ((s.setLink k trained).route x.dev = none ∧ ∀ w ∈ s.openTxn, w.link ≠ k))) ∧
      (let s : State := linked [1,2] 15 true; let k : Nat := 2; let ok : Bool := false; let x := s.linkOf k;
        let trained := { x with training := false, again := none, resends := 0, up := ok }; x.training = true ∧ ok = false ∧
        (s.setLink k trained).route x.dev ≠ none)) ∧
    ((let s : State := linked [1,2,3] 3 false; let k : Nat := 2; let seq : Nat := 8; let x := s.linkOf k; (¬ s.linkShut k) ∧ (∀ f ∈ x.sent, f.seq ≠ seq)) ∧
      (let s : State := linked [1,2,3] 3 false; let k : Nat := 2; let seq : Nat := 2; let x := s.linkOf k; let l := ([⟨1, 0, 1, 0, [], 0⟩] : List Flit);
        let f := (⟨2, 0, 1, 0, [], 0⟩ : Flit); let r := ([⟨3, 0, 1, 0, [], 0⟩] : List Flit); (¬ s.linkShut k) ∧ x.sent = l ++ f :: r ∧ f.seq = seq ∧
        (∀ e ∈ l, e.seq ≠ seq)) ∧
      (let s : State := solo aWave; let src : Nat := 3; (s.portUp = false ∨ s.reachable src = false)) ∧
      (let s : State := peered 0 false (solo aWave); let src : Nat := 3; let pa : Nat := 0x40000078; let size : Nat := 8;
        let p : Peer := { inDomain := true, doneTxn := [7] }; aget s.peers src = some p ∧ s.portUp = true ∧ s.reachable src = true ∧ pa < deviceEnd ∧
        1 ≤ size ∧ pa % 128 + size ≤ 128 ∧ aget s.fabWin (pa / 2 ^ 30) = none)) ∧
    ((let s : State := { peered 0 false (solo aWave) with keys := [] }; let src : Nat := 3; let pa : Nat := 0x40078; let size : Nat := 8;
        let key : Nat := 1; let p : Peer := { inDomain := true, doneTxn := [7] }; aget s.peers src = some p ∧ s.portUp = true ∧
        s.reachable src = true ∧ pa < deviceEnd ∧ 1 ≤ size ∧ pa % 128 + size ≤ 128 ∧ aget s.fabWin (pa / 2 ^ 30) = some key ∧
        s.keyInst (pa / 128) key = none) ∧
      (let s : State := peered 0 false (solo aWave); let src : Nat := 3; let txn : Nat := 7; let pa : Nat := 0x40078; let size : Nat := 8;
        let data : Nat := 0x1122334455667788; let key : Nat := 1; let inst : Nat := 7; let p : Peer := { inDomain := true, doneTxn := [7] };
        aget s.peers src = some p ∧ s.portUp = true ∧ s.reachable src = true ∧ pa < deviceEnd ∧ 1 ≤ size ∧ pa % 128 + size ≤ 128 ∧
        aget s.fabWin (pa / 2 ^ 30) = some key ∧ 1 ≤ key ∧ s.keyInst (pa / 128) key = some inst ∧ aget s.frames (pa / 128) = none ∧
        s.imageAt (pa / 128) = none ∧ (∀ h, h < 2 → s.holdOf (2 * (pa / 128) + h) ≠ 3) ∧ data < 2 ^ (8 * size) ∧ txn ∈ p.doneTxn) ∧
      (let s : State := peered 0 false (lined aWave); let src : Nat := 3; let txn : Nat := 8; let pa : Nat := 0x40001; let size : Nat := 3;
        let data : Nat := 0x112233; let key : Nat := 1; let inst : Nat := 7; let p : Peer := { inDomain := true, doneTxn := [7] };
        aget s.peers src = some p ∧ s.portUp = true ∧ s.reachable src = true ∧ pa < deviceEnd ∧ 1 ≤ size ∧ pa % 128 + size ≤ 128 ∧
        aget s.fabWin (pa / 2 ^ 30) = some key ∧ 1 ≤ key ∧ s.keyInst (pa / 128) key = some inst ∧ aget s.frames (pa / 128) = none ∧
        s.imageAt (pa / 128) = none ∧ (∀ h, h < 2 → s.holdOf (2 * (pa / 128) + h) ≠ 3) ∧ data < 2 ^ (8 * size) ∧ txn ∉ p.doneTxn) ∧
      (let self : Nat := 15; let dev : Nat := 0; let keys : List (Nat × Nat) := []; dev < 16 ∧ dev ≠ self ∧ (∀ q ∈ keys, q.1 < 768 ∧ 1 ≤ q.2 ∧ q.2 < 256))) ∧
    ((let s : State := { peered 8 true (lined aWave) with llc := [(0xC000 * 2^36 + 3 * 2^44 + 5, 7), (0x40005, 1)], dirs := [(0x800, 0x800000001), (0x900, 0x800000000), (0x901, 2)] };
        let dev : Nat := 3; let p : Peer := { inDomain := true, missed := 8, dead := true, doneTxn := [7] }; aget s.peers dev = some p ∧
        p.dead = true) ∧
      (let s : State := peered 0 false (solo aWave); let dev : Nat := 3; let p : Peer := { inDomain := true, doneTxn := [7] }; aget s.peers dev = some p ∧
        p.dead = false) ∧
      (let s : State := peered 0 false (solo aWave); let dev : Nat := 3; let p : Peer := { inDomain := true, doneTxn := [7] }; aget s.peers dev = some p ∧
        (p.dead = true ∨ p.missed < 8)) ∧
      (let s : State := peered 8 false (solo aWave); let dev : Nat := 3; let p : Peer := { inDomain := true, missed := 8, doneTxn := [7] };
        aget s.peers dev = some p ∧ p.dead = false ∧ 8 ≤ p.missed ∧ (∀ w ∈ s.waves, w.2.inflight = []) ∧ (∀ x ∈ s.openTxn, x.dev ≠ dev))) ∧
    ((let s : State := peered 0 false (solo aWave); let dev : Nat := 3; let p : Peer := { inDomain := true, doneTxn := [7] }; aget s.peers dev = some p ∧
        p.dead = false) ∧
      (let s : State := { peered 8 true (lined aWave) with llc := [(0xC000 * 2^36 + 3 * 2^44 + 5, 7), (0x40005, 1)], dirs := [(0x800, 0x800000001), (0x900, 0x800000000), (0x901, 2)] };
        let dev : Nat := 3; let p : Peer := { inDomain := true, missed := 8, dead := true, doneTxn := [7] }; aget s.peers dev = some p ∧
        p.dead = true ∧ dev < 16) ∧
      (let s : State := peered 0 false (solo aWave); let dev : Nat := 3; let p : Peer := { inDomain := true, doneTxn := [7] }; aget s.peers dev = some p) ∧
      (let s : State := { solo aWave with hbm := Mem.write tables 0x24020 (leBytes 8 0x0100000000040333) }; let ctx : Nat := 1; let va : Nat := 0x40008;
        let pa : Nat := 0x80000; let t1 : Nat := 0x90000; let t0 : Nat := 0xA0000; let at_ : Nat := 0x24020; let e : Nat := 0x0100000000040333;
        let c : Ctx := { tkey := 1, quota := 64 }; aget s.ctxs ctx = some c ∧ t1 % 4096 = 0 ∧ t1 + 4096 ≤ deviceEnd ∧ t0 % 256 = 0 ∧
        t0 + 256 ≤ deviceEnd ∧ pa + 2 ^ 16 ≤ deviceEnd ∧ s.leafAt c.tkey va [3, 2, 1, 0] c.root = some (0, at_, e) ∧ e.testBit 7 = false)) ∧
    (let s : State := { solo aWave with hbm := Mem.write tables 0x24020 (leBytes 8 0x0100000000040393) }; let ctx : Nat := 1; let va : Nat := 0x40008;
        let pa : Nat := 0x80000; let t1 : Nat := 0x90000; let t0 : Nat := 0xA0000; let at_ : Nat := 0x24020; let e : Nat := 0x0100000000040393;
        let c0 : Nat := (1 : Nat); let c : Ctx := { tkey := 1, quota := 64 }; let blk := e / 2 ^ 16 % 2 ^ 36 * 2 ^ 16; let owner := (0 : Nat);
        let opa := (0x80000 : Nat); aget s.ctxs ctx = some c ∧ t1 % 4096 = 0 ∧ t1 + 4096 ≤ deviceEnd ∧ t0 % 256 = 0 ∧ t0 + 256 ≤ deviceEnd ∧
        pa + 2 ^ 16 ≤ deviceEnd ∧ s.leafAt c.tkey va [3, 2, 1, 0] c.root = some (0, at_, e) ∧ e.testBit 7 = true ∧ aget s.creators blk = none ∧
        s.plainAt at_ 8 ∧ e < 2 ^ 64 ∧ owner < 16 ∧ opa < 2 ^ 44 ∧
        ((aget s.replicas blk = none ∧ owner = s.self ∧ opa = pa) ∨ aget s.replicas blk = some (owner, opa, c0))) :=
  ⟨by delta State.linkShut; dsimp only; decide +kernel,
    by delta State.linkShut; dsimp only; decide +kernel,
    by dsimp only; decide +kernel,
    by dsimp only; decide +kernel,
    by dsimp only; decide +kernel,
    by delta State.plainAt; decide +kernel⟩

/-- The hypotheses of `LaunchRecordsReachTheirSteward`, clause by clause, can be met together. -/
theorem test_meets_LaunchRecordsReachTheirSteward :
    (let s : State := stewarded {} [] (homeOf id); let die : Nat := 0; let q : Nat := 16; let ctx : Nat := 1; let ring : Nat := 0x50000; let k : Nat := 1;
        let headAt : Nat := 0x60000; let tailAt : Nat := 0x60040;
        let legal := q < 16 ∧ s.portUp = true ∧ (s.dieOf die).booted = true ∧ 1 ≤ k ∧ k ≤ 16 ∧ ring % 256 = 0 ∧ headAt % 64 = 0 ∧ tailAt % 64 = 0 ∧ headAt ≠ tailAt ∧ (aget s.ctxs ctx).isSome = true;
        (¬ legal)) ∧
    (let s : State := stewarded {} [] (homeOf id); let die : Nat := 1; let q : Nat := 0; let ctx : Nat := 1; let ring : Nat := 0x50000; let k : Nat := 1;
        let headAt : Nat := 0x60000; let tailAt : Nat := 0x60040; let r := s.homeLook headAt 8 (s.queueKey ctx headAt);
        let head := leNat (r.homeSee headAt 8 (r.queueKey ctx headAt));
        let legal := q < 16 ∧ s.portUp = true ∧ (s.dieOf die).booted = true ∧ 1 ≤ k ∧ k ≤ 16 ∧ ring % 256 = 0 ∧ headAt % 64 = 0 ∧ tailAt % 64 = 0 ∧ headAt ≠ tailAt ∧ (aget s.ctxs ctx).isSome = true;
        let u := r.homeLook tailAt 8 (r.queueKey ctx tailAt); legal ∧ leNat (u.homeSee tailAt 8 (u.queueKey ctx tailAt)) = head) ∧
    (let s : State := stewarded { ctx := 1, ring := 0x50000, size := 2, headAt := 0x60000, tailAt := 0x60040, head := 5, tail := 5 } [] (homeOf id);
        let die : Nat := 0; let q : Nat := 2; let value : Nat := 8;
        let d : Die := ({ booted := true, queues := [(2, { ctx := 1, ring := 0x50000, size := 2, headAt := 0x60000, tailAt := 0x60040, head := 5, tail := 5 })] } : Die);
        let x : LQueue := ({ ctx := 1, ring := 0x50000, size := 2, headAt := 0x60000, tailAt := 0x60040, head := 5, tail := 5 } : LQueue);
        let l : List (Nat × Die) := ([] : List (Nat × Die));
        let r : List (Nat × Die) := ([(1, { booted := true }), (2, { booted := true }), (3, { booted := true })] : List (Nat × Die));
        let u := s.hostStore x.tailAt (leBytes 8 value); let v := u.homeLook x.tailAt 8 (u.queueKey x.ctx x.tailAt); s.dies = l ++ (die, d) :: r ∧
        (∀ p ∈ l ++ r, p.1 ≠ die ∧ p.2.queues = []) ∧ d.queues = [(q, x)] ∧ x.stopped = false ∧ (∀ p ∈ s.grids, p.2.unmet = []) ∧
        leNat (u.homeSee x.tailAt 8 (u.queueKey x.ctx x.tailAt)) = value ∧ leNat (v.homeSee x.tailAt 8 (v.queueKey x.ctx x.tailAt)) = value ∧
        value ≠ x.tail ∧ (value < x.tail ∨ value < x.head ∨ x.size < value - x.head)) ∧
    (let s : State := stewarded { ctx := 1, ring := 0x50000, size := 2, headAt := 0x60000, tailAt := 0x60040, head := 5, tail := 5 } [] (homeOf id);
        let die : Nat := 0; let q : Nat := 2; let value : Nat := 5;
        let d : Die := ({ booted := true, queues := [(2, { ctx := 1, ring := 0x50000, size := 2, headAt := 0x60000, tailAt := 0x60040, head := 5, tail := 5 })] } : Die);
        let x : LQueue := ({ ctx := 1, ring := 0x50000, size := 2, headAt := 0x60000, tailAt := 0x60040, head := 5, tail := 5 } : LQueue);
        let l : List (Nat × Die) := ([] : List (Nat × Die));
        let r : List (Nat × Die) := ([(1, { booted := true }), (2, { booted := true }), (3, { booted := true })] : List (Nat × Die));
        let u := s.hostStore x.tailAt (leBytes 8 value); let v := u.homeLook x.tailAt 8 (u.queueKey x.ctx x.tailAt); s.dies = l ++ (die, d) :: r ∧
        (∀ p ∈ l ++ r, p.1 ≠ die ∧ p.2.queues = []) ∧ d.queues = [(q, x)] ∧ x.stopped = false ∧ (∀ p ∈ s.grids, p.2.unmet = []) ∧
        leNat (u.homeSee x.tailAt 8 (u.queueKey x.ctx x.tailAt)) = value ∧ leNat (v.homeSee x.tailAt 8 (v.queueKey x.ctx x.tailAt)) = value ∧
        x.tail ≤ value ∧ value = x.head) ∧
    (let s : State := stewarded { ctx := 1, ring := 0x50000, size := 2, headAt := 0x60000, tailAt := 0x60040, head := 5, tail := 5 } [] (homeOf id);
        let die : Nat := 0; let q : Nat := 2; let value : Nat := 6;
        let d : Die := ({ booted := true, queues := [(2, { ctx := 1, ring := 0x50000, size := 2, headAt := 0x60000, tailAt := 0x60040, head := 5, tail := 5 })] } : Die);
        let x : LQueue := ({ ctx := 1, ring := 0x50000, size := 2, headAt := 0x60000, tailAt := 0x60040, head := 5, tail := 5 } : LQueue);
        let l : List (Nat × Die) := ([] : List (Nat × Die));
        let r : List (Nat × Die) := ([(1, { booted := true }), (2, { booted := true }), (3, { booted := true })] : List (Nat × Die));
        let u := s.hostStore x.tailAt (leBytes 8 value); let v := u.homeLook x.tailAt 8 (u.queueKey x.ctx x.tailAt); s.dies = l ++ (die, d) :: r ∧
        (∀ p ∈ l ++ r, p.1 ≠ die ∧ p.2.queues = []) ∧ d.queues = [(q, x)] ∧ x.stopped = false ∧ (∀ p ∈ s.grids, p.2.unmet = []) ∧
        leNat (u.homeSee x.tailAt 8 (u.queueKey x.ctx x.tailAt)) = value ∧ leNat (v.homeSee x.tailAt 8 (v.queueKey x.ctx x.tailAt)) = value ∧
        x.tail < value ∧ value = x.head + 1 ∧ 1 ≤ x.size ∧ value < 2 ^ 64) ∧
    (let s : State := stewarded { ctx := 1, ring := 0x50000, size := 2, headAt := 0x60000, tailAt := 0x60040, head := 5, tail := 5 } [] (homeOf id);
        let die : Nat := 0; let q : Nat := 2; let value : Nat := 6;
        let d : Die := ({ booted := true, queues := [(2, { ctx := 1, ring := 0x50000, size := 2, headAt := 0x60000, tailAt := 0x60040, head := 5, tail := 5 })] } : Die);
        let x : LQueue := ({ ctx := 1, ring := 0x50000, size := 2, headAt := 0x60000, tailAt := 0x60040, head := 5, tail := 5 } : LQueue);
        let l : List (Nat × Die) := ([] : List (Nat × Die));
        let r : List (Nat × Die) := ([(1, { booted := true }), (2, { booted := true }), (3, { booted := true })] : List (Nat × Die));
        let u := s.hostStore x.tailAt (leBytes 8 value); let v := u.homeLook x.tailAt 8 (u.queueKey x.ctx x.tailAt); let k := (1 : Nat);
        let j := (0 : Nat); s.dies = l ++ (die, d) :: r ∧ (∀ p ∈ l ++ r, p.1 ≠ die ∧ p.2.queues = []) ∧ d.queues = [(q, x)] ∧ x.stopped = false ∧
        (∀ p ∈ s.grids, p.2.unmet = []) ∧ leNat (u.homeSee x.tailAt 8 (u.queueKey x.ctx x.tailAt)) = value ∧
        leNat (v.homeSee x.tailAt 8 (v.queueKey x.ctx x.tailAt)) = value ∧ x.tail < value ∧ value = x.head + k ∧ 1 ≤ k ∧ k ≤ x.size ∧ value < 2 ^ 64 ∧
        j < k) ∧
    (let s : State := stewarded { ctx := 1, ring := 0x50000, size := 2, headAt := 0x60000, tailAt := 0x60040, head := 5, tail := 5 } [] (homeOf id);
        let die : Nat := 0; let q : Nat := 2; let value : Nat := 6;
        let d : Die := ({ booted := true, queues := [(2, { ctx := 1, ring := 0x50000, size := 2, headAt := 0x60000, tailAt := 0x60040, head := 5, tail := 5 })] } : Die);
        let x : LQueue := ({ ctx := 1, ring := 0x50000, size := 2, headAt := 0x60000, tailAt := 0x60040, head := 5, tail := 5 } : LQueue);
        let l : List (Nat × Die) := ([] : List (Nat × Die));
        let r : List (Nat × Die) := ([(1, { booted := true }), (2, { booted := true }), (3, { booted := true })] : List (Nat × Die));
        let u := s.hostStore x.tailAt (leBytes 8 value); let v := u.homeLook x.tailAt 8 (u.queueKey x.ctx x.tailAt); let k := (1 : Nat);
        s.dies = l ++ (die, d) :: r ∧ (∀ p ∈ l ++ r, p.1 ≠ die ∧ p.2.queues = []) ∧ d.queues = [(q, x)] ∧ x.stopped = false ∧
        (∀ p ∈ s.grids, p.2.unmet = []) ∧ leNat (u.homeSee x.tailAt 8 (u.queueKey x.ctx x.tailAt)) = value ∧
        leNat (v.homeSee x.tailAt 8 (v.queueKey x.ctx x.tailAt)) = value ∧ x.tail < value ∧ value = x.head + k ∧ 1 ≤ k ∧ k ≤ x.size ∧ value < 2 ^ 64) ∧
    (let s : State := { homeOf id with dies := allBooted { booted := true, devq := [(1, recOf [(0, 1)]), (1, recOf [])] } }; let die : Nat := 0;
        let ctx : Nat := 1; let bs : List Byte := recOf [(0, 1)]; let rest : List (Nat × List Byte) := [(1, recOf [])];
        (s.dieOf die).devq = (ctx, bs) :: rest ∧ (∀ p ∈ s.dies, p.2.queues = []) ∧ (∀ p ∈ s.grids, p.2.unmet = [])) ∧
    (let s : State := { unbound [(0x1C, 1), (0x40, 0x10), (0x42, 4), (0x48, 9)] (homeOf id) with hostWin := [(0, 1)] }; let g : Nat := 2;
        let k : Nat := 0; let value : Nat := 9; let va : Nat := 0x40010; let th : Nat := 9;
        let l : Leaf := ⟨0x40010, 1, true, true, false, false, true, true⟩; (s.gridOf g).deps[k]? = some (va, th) ∧
        s.ctxLeaf (s.ctxN g) va .load = some l ∧ s.plainAt l.pa 8 ∧ value < 2 ^ 64 ∧ s.portUp = true ∧ s.hostOpen l.pa = true ∧
        aget s.hostWin (l.pa / 2 ^ 30) = some l.key) ∧
    (let s : State := unbound [(0x1C, 1), (0x40, 0x10), (0x42, 4), (0x48, 9)] (homeOf id); let g : Nat := 2; let k : Nat := 0; let value : Nat := 9;
        let va : Nat := 0x40010; let th : Nat := 9; let l : Leaf := ⟨0x40010, 1, true, true, false, false, true, true⟩;
        (s.gridOf g).deps[k]? = some (va, th) ∧ s.ctxLeaf (s.ctxN g) va .load = some l ∧ s.plainAt l.pa 8 ∧ value < 2 ^ 64 ∧ s.portUp = true ∧
        s.hostOpen l.pa = false) ∧
    (let s : State := unbound [(0x1C, 1), (0x40, 0x10), (0x42, 4), (0x48, 9)] (homeOf id); let g : Nat := 2; let k : Nat := 0; let value : Nat := 9;
        let va : Nat := 0x40010; let th : Nat := 9; let l : Leaf := ⟨0x40010, 1, true, true, false, false, true, true⟩;
        (s.gridOf g).deps[k]? = some (va, th) ∧ s.ctxLeaf (s.ctxN g) va .load = some l ∧ s.plainAt l.pa 8 ∧ value < 2 ^ 64 ∧ s.portUp = true) ∧
    (let s : State := homeOf (stewarded {} [] ) |> crewed id; let d : Code := 7; let a : Code := 10; let va := (s.w.wr2 a.toNat).toNat;
      let tr := errOr (s.uniRead va 256 64) { cls := 0 }; s.uniRead va 256 64 = .error tr ∧ s.issues (.launch d a) ∧ s.plain) ∧
    (let s : State := { stewarded {} [] (solo (regs aWave [(10, 0x40000), (11, 0)])) with hbm := Mem.write tables 0x40000 (tab 256 (fun i => BitVec.ofNat 8 i)) };
      let d : Code := 7; let a : Code := 10; let va := (s.w.wr2 a.toNat).toNat; let die := s.w.core / 96;
      let bs := (okOr (s.uniRead va 256 64) ([], s)).1; let r := (okOr (s.uniRead va 256 64) ([], s)).2; s.uniRead va 256 64 = .ok (bs, r) ∧
      s.issues (.launch d a) ∧ s.plain ∧ (s.dieOf die).devq.length < 256) ∧
    (let s : State := { stewarded {} (List.replicate 256 (1, [])) (solo (regs aWave [(10, 0x40000), (11, 0)])) with hbm := Mem.write tables 0x40000 (tab 256 (fun i => BitVec.ofNat 8 i)) };
      let d : Code := 7; let a : Code := 10; let va := (s.w.wr2 a.toNat).toNat; let die := s.w.core / 96;
      let bs := (okOr (s.uniRead va 256 64) ([], s)).1; let r := (okOr (s.uniRead va 256 64) ([], s)).2; s.uniRead va 256 64 = .ok (bs, r) ∧
      s.issues (.launch d a) ∧ s.plain ∧ 256 ≤ (s.dieOf die).devq.length) :=
  ⟨by decide +kernel,
    by decide +kernel,
    by decide +kernel,
    by decide +kernel,
    by decide +kernel,
    by decide +kernel,
    by decide +kernel,
    by decide +kernel,
    by delta State.plainAt; decide +kernel,
    by delta State.plainAt; decide +kernel,
    by delta State.plainAt; decide +kernel,
    ⟨errSelf (by decide +kernel), by delta State.issues State.plain; decide +kernel⟩,
    ⟨okPair (by decide +kernel), by delta State.issues State.plain; decide +kernel⟩,
    ⟨okPair (by decide +kernel), by delta State.issues State.plain; decide +kernel⟩⟩

/-- The hypotheses of `CrewsAreBoundWithFreshWaves`, clause by clause, can be met together. -/
theorem test_meets_CrewsAreBoundWithFreshWaves :
    ((let s : State := unbound [] (homeOf id); let g : Nat := 2; let cr : Nat := 1; let u := s.look; let x := u.gridOf g;
        let first := x.eligible = true ∧ x.next = some cr ∧ ∀ h ∈ u.grids, h.2.before x = true → u.couldBind h.1 = false; (¬ first)) ∧
      (let s : State := unbound [] (homeOf id); let g : Nat := 2; let cr : Nat := 0; let p : Spot := ⟨95, 31, 1968, 258048, 0x80000⟩; let u := s.look;
        let x := u.gridOf g; let c : CrewId := ⟨g, cr⟩;
        let first := x.eligible = true ∧ x.next = some cr ∧ ∀ h ∈ u.grids, h.2.before x = true → u.couldBind h.1 = false; first ∧ x.coop = false ∧
        x.saved = [] ∧ aget u.crews c = none ∧ u.fits c p = false) ∧
      (let s : State := unbound [] (homeOf id); let g : Nat := 2; let cr : Nat := 0; let p : Spot := ⟨5, 0, 0, 0, 0x80000⟩; let u := s.look;
        let x := u.gridOf g; let c : CrewId := ⟨g, cr⟩;
        let first := x.eligible = true ∧ x.next = some cr ∧ ∀ h ∈ u.grids, h.2.before x = true → u.couldBind h.1 = false; first ∧ x.coop = false ∧
        x.saved = [] ∧ aget u.crews c = none ∧ u.fits c p = true ∧ 1 ≤ x.nWaves ∧ (∀ a ∈ u.grids, ∀ b ∈ u.grids, a.2.feeds b.2 = false)) ∧
      (let s : State := { mate { aWave with age := 3, active := false } (solo { aWave with active := false }) with cores := [(0, { aCore with halted := true })] };
        let core : Nat := 0; (s.coreOf core).halted = true) ∧
      (let s : State := { solo aWave with waves := tab 9 (fun k => (⟨1, k⟩, { aWave with active := decide (k < 8) })), grids := [(1, { ctx := 1, rows := 32, nWaves := 9 })] };
        let core : Nat := 0; 8 ≤ (s.actives core).length) ∧
      (let s : State := mate { aWave with age := 7 } (solo aWave); let core : Nat := 0; (∀ j ∈ s.onCore core, (s.wv j).active = false → s.ready j = false)) ∧
      (let s : State := mate { aWave with age := 7, active := false } (solo { aWave with active := false }); let core : Nat := 0;
        let j := (⟨1, 0⟩ : WaveId); (s.coreOf core).halted = false ∧ (s.actives core).length < 8 ∧ j ∈ s.onCore core ∧ (s.wv j).active = false ∧
        s.ready j = true ∧ (∀ k ∈ s.onCore core, k ≠ j → (s.wv k).active = false → s.ready k = true → (s.wv j).age < (s.wv k).age))) :=
  by dsimp only; decide +kernel

/-- The hypotheses of `WavesWaitExchangeAndTakeFaults`, clause by clause, can be met together. -/
theorem test_meets_WavesWaitExchangeAndTakeFaults :
    ((let s : State := solo (waits (.bwait 3 true) 0 aWave); let id : WaveId := (⟨1, 0⟩ : WaveId); let h : Hold := ⟨.bwait 3 true, 0, []⟩;
        let me : State := { s with cur := id }; let t := (me.tryOp h.op).getD me; (s.wv id).hold = some h ∧ (s.wv id).active = true ∧
        (s.wv id).exited = false ∧ (s.wv id).stopped = none ∧ (s.wv id).faults = [] ∧ s.goes id = true ∧ me.tryOp h.op = some t) ∧
      (let s : State := solo { waits (.waitc 0 15 0 0 0) 0 aWave with vl := 1 }; let id : WaveId := (⟨1, 0⟩ : WaveId);
        let h : Hold := ⟨.waitc 0 15 0 0 0, 0, []⟩; let me : State := { s with cur := id }; (s.wv id).hold = some h ∧ (s.wv id).active = true ∧
        (s.wv id).exited = false ∧ (s.wv id).stopped = none ∧ (s.wv id).faults = [] ∧ s.goes id = true ∧ me.tryOp h.op = none) ∧
      (let s : State := solo (waits (.waitc 0 15 0 0 0) 0 aWave); let id : WaveId := (⟨1, 0⟩ : WaveId); let h : Hold := ⟨.waitc 0 15 0 0 0, 0, []⟩;
        let tv := 0; let tw := 15; let ts := 0; let te := 0; let tf := 0; (s.wv id).hold = some h ∧ (s.wv id).active = true ∧
        (s.wv id).exited = false ∧ (s.wv id).stopped = none ∧ (s.wv id).faults = [] ∧ s.goes id = true ∧ h.op = .waitc tv tw ts te tf ∧
        (s.wv id).quant = 0 ∧ (tv = 15 ∨ (s.wv id).vl ≤ tv) ∧ (tw = 15 ∨ (s.wv id).wl ≤ tw) ∧ (ts = 15 ∨ (s.wv id).st ≤ ts) ∧
        (te = 15 ∨ (s.wv id).ec ≤ te) ∧ (tf = 15 ∨ (s.wv id).fl ≤ tf)) ∧
      (let s : State := mate { aWave with age := 7, active := false } (solo { waits (.waitc 0 15 0 0 0) 3 aWave with vl := 1 });
        let id : WaveId := (⟨1, 0⟩ : WaveId); let h : Hold := ⟨.waitc 0 15 0 0 0, 3, []⟩; let core := (s.wv id).core; (s.wv id).hold = some h ∧
        (s.wv id).active = true ∧ (s.wv id).exited = false ∧ (s.wv id).stopped = none ∧ s.goes id = true ∧ h.op.yields = true ∧ s.isMet id = false ∧
        (s.coreOf core).clock < h.since + 32)) ∧
    ((let s : State := { mate { aWave with age := 7, active := true } (solo { waits (.waitc 0 15 0 0 0) 3 aWave with vl := 1 }) with cores := [(0, { aCore with clock := 35 })] };
        let id : WaveId := (⟨1, 0⟩ : WaveId); let h : Hold := ⟨.waitc 0 15 0 0 0, 3, []⟩; let core := (s.wv id).core; (s.wv id).hold = some h ∧
        (s.wv id).active = true ∧ (s.wv id).exited = false ∧ (s.wv id).stopped = none ∧ s.goes id = true ∧ h.op.yields = true ∧ s.isMet id = false ∧
        (∀ k ∈ s.onCore core, (s.wv k).active = false → s.ready k = false)) ∧
      (let s : State := { mate { aWave with age := 7, active := false } (solo { waits (.waitc 0 15 0 0 0) 3 aWave with vl := 1 }) with cores := [(0, { aCore with clock := 35 })] };
        let id : WaveId := (⟨1, 0⟩ : WaveId); let j : WaveId := (⟨1, 1⟩ : WaveId); let h : Hold := ⟨.waitc 0 15 0 0 0, 3, []⟩;
        let core := (s.wv id).core; (s.wv id).hold = some h ∧ (s.wv id).active = true ∧ (s.wv id).exited = false ∧ (s.wv id).stopped = none ∧
        s.goes id = true ∧ h.op.yields = true ∧ s.isMet id = false ∧ h.since + 32 ≤ (s.coreOf core).clock ∧ j ∈ s.onCore core ∧
        (s.wv j).active = false ∧ s.ready j = true ∧
        (∀ k ∈ s.onCore core, k ≠ j → (s.wv k).active = false → s.ready k = true → (s.wv j).age < (s.wv k).age)) ∧
      (let s : State := solo { superWave with faults := [⟨5, 2, 0x400FF⟩, ⟨4, 0, 1⟩] }; let id : WaveId := (⟨1, 0⟩ : WaveId);
        let f : Fault1 := ⟨5, 2, 0x400FF⟩; let fs : List Fault1 := [⟨4, 0, 1⟩]; let w := s.wv id; (s.wv id).faults = f :: fs ∧
        (s.wv id).exited = false ∧ s.goes id = true ∧ (∀ p ∈ s.waves, p.1.g = id.g → p.2.tried = false) ∧ w.sup = true) ∧
      (let s : State := solo { aWave with faults := [⟨5, 2, 0x400FF⟩, ⟨4, 0, 1⟩] }; let id : WaveId := (⟨1, 0⟩ : WaveId); let f : Fault1 := ⟨5, 2, 0x400FF⟩;
        let fs : List Fault1 := [⟨4, 0, 1⟩]; let w := s.wv id; (s.wv id).faults = f :: fs ∧ (s.wv id).exited = false ∧ s.goes id = true ∧
        (∀ p ∈ s.waves, p.1.g = id.g → p.2.tried = false) ∧ w.sup = false ∧ w.stopped = none ∧ f.cls < 256 ∧ f.sub < 256 ∧
        w.tvecl.toNat + w.tvech.toNat % 2 ^ 17 * 2 ^ 32 ≠ 0)) ∧
    ((let s : State := solo { superWave with qDue := true, quant := 4 }; let id : WaveId := (⟨1, 0⟩ : WaveId); let w := s.wv id;
        (aget s.waves id).isSome = true ∧ (w.qDue = false ∨ w.sup = true ∨ w.exited = true ∨ w.stopped ≠ none)) ∧
      (let s : State := solo { aWave with qDue := true, quant := 4, buf := [.stores [(.ls ⟨1, 0⟩ 5, [7, 8])]] }; let id : WaveId := (⟨1, 0⟩ : WaveId);
        let w := s.wv id; (aget s.waves id).isSome = true ∧ w.qDue = true ∧ w.sup = false ∧ w.exited = false ∧ w.stopped = none)) ∧
    (let s : State := solo { aWave with pc := 0x90000 }; let k : Nat := 7; s.fetchWord s.cur s.w.pc.toNat = .error k) ∧
    (let s : State := solo { aWave with pc := 0x90000 }; let k : Nat := 7; s.fetchWord s.cur (s.w.pc + 4).toNat = .error k) ∧
    (let s : State := solo aWave; let y : Word := 0; let pay : BitVec 27 := 5; s.fetchWord s.cur (s.w.pc + 4).toNat = .ok y ∧
      (2 ^ 20 ≤ pay.toNat ∨ (y.toNat / 2 ^ 27 ≠ 2 ∧ y.toNat / 2 ^ 27 ≠ 9))) :=
  ⟨by dsimp only; decide +kernel,
    by dsimp only; decide +kernel,
    by dsimp only; decide +kernel,
    errOf (by decide +kernel),
    errOf (by decide +kernel),
    ⟨okOf (by decide +kernel), by decide +kernel⟩⟩

/-- The hypotheses of `CommitPhasesPerformHeldEffects`, clause by clause, can be met together. -/
theorem test_meets_CommitPhasesPerformHeldEffects :
    (let s : State := solo aWave; let g : Nat := 1; (∃ id ∈ s.live g, (s.wv id).stopped = none ∨ (s.wv id).owes = true) ∧
        (∀ p ∈ s.waves, p.1.g = g → p.2.tried = false)) ∧
    (let s : State := solo aWave; let g : Nat := 1; (s.gridOf g).det = false) ∧
    (let s : State := roundEnd id; let g : Nat := 1; let id : WaveId := (⟨1, 0⟩ : WaveId); let w : Wave := s.wv ⟨1, 0⟩;
        let ws : List (Place × List Byte) := [(.ls ⟨1, 0⟩ 5, [7, 8]), (.ls ⟨1, 0⟩ 6, [9])]; id.g = g ∧ (aget s.grids g).isSome = true ∧
        (s.gridOf g).det = true ∧ (s.gridOf g).ended = false ∧ s.waves = [(id, w)] ∧ w.exited = false ∧ w.stopped = some .quantum ∧ w.faults = [] ∧
        w.commitHeld = false ∧ s.goes id = true ∧ w.buf = [.stores ws] ∧
        (∀ p ∈ ws, (match p.1 with | .ls x _ => x == s.crewId id | _ => false) = true) ∧ (∀ c ∈ s.cores, ∀ m ∈ c.2.mq, m.wave.g ≠ g) ∧
        (∀ c ∈ s.crews, c.2.cmds = [] ∧ (c.1.g = g → c.2.xfers = [])) ∧ (s.crewOf (s.crewId id)).bound = true) ∧
    (let s : State := { mate ({ aWave with stopped := some .quantum, quant := 1024, active := false, buf := [.stores [(.ls ⟨1, 0⟩ 6, [5])]] }) (roundEnd (fun w => w)) with grids := [(1, { ctx := 1, rows := 32, nWaves := 2, lrec := recOf [(2, 12), (5, 4)] })] };
        let g : Nat := 1; let i : Instr := .detCommitPhase g; let i : WaveId := ⟨1, 0⟩; let j : WaveId := ⟨1, 1⟩; let a : Wave := s.wv ⟨1, 0⟩;
        let b : Wave := s.wv ⟨1, 1⟩; let c := s.crewId i; let wa : List (Place × List Byte) := [(.ls ⟨1, 0⟩ 5, [7, 8]), (.ls ⟨1, 0⟩ 6, [9])];
        let wb : List (Place × List Byte) := [(.ls ⟨1, 0⟩ 6, [5])]; (s.waves = [(i, a), (j, b)] ∨ s.waves = [(j, b), (i, a)]) ∧ i.g = g ∧ j.g = g ∧
        i ≠ j ∧ s.crewId i = s.crewId j ∧ (aget s.grids g).isSome = true ∧ (s.gridOf g).det = true ∧ (s.gridOf g).ended = false ∧
        (s.crewOf c).bound = true ∧ s.goes i = true ∧ s.goes j = true ∧ (∀ w ∈ [a, b], w.exited = false ∧ w.faults = [] ∧ w.commitHeld = false) ∧
        (∀ k ∈ s.cores, ∀ m ∈ k.2.mq, m.wave.g ≠ g) ∧ (∀ k ∈ s.crews, k.2.cmds = [] ∧ (k.1.g = g → k.2.xfers = [])) ∧ i.w < j.w ∧
        a.stopped = some .quantum ∧ b.stopped = some .quantum ∧ a.buf = [.stores wa] ∧ b.buf = [.stores wb] ∧
        (∀ p ∈ wa ++ wb, (match p.1 with | .ls x _ => x == c | _ => false) = true)) ∧
    (let s : State := streamed 1 ⟨4, []⟩ ({ mate ({ aWave with stopped := some (.sync (.spush 22 6 1)), quant := 1024, active := false }) (roundEnd (fun w => { w with stopped := some (.sync (.spush 20 4 1)), buf := [] })) with grids := [(1, { ctx := 1, rows := 32, nWaves := 2, lrec := recOf [(2, 12), (5, 4)] })] });
        let g : Nat := 1; let i : Instr := .detCommitPhase g; let i : WaveId := ⟨1, 0⟩; let j : WaveId := ⟨1, 1⟩; let a : Wave := s.wv ⟨1, 0⟩;
        let b : Wave := s.wv ⟨1, 1⟩; let c := s.crewId i; let n : Nat := 1; let da : Nat := 20; let xa : Nat := 4; let db : Nat := 22;
        let xb : Nat := 6; let q := (s.crewOf c).stream n; (s.waves = [(i, a), (j, b)] ∨ s.waves = [(j, b), (i, a)]) ∧ i.g = g ∧ j.g = g ∧ i ≠ j ∧
        s.crewId i = s.crewId j ∧ (aget s.grids g).isSome = true ∧ (s.gridOf g).det = true ∧ (s.gridOf g).ended = false ∧ (s.crewOf c).bound = true ∧
        s.goes i = true ∧ s.goes j = true ∧ (∀ w ∈ [a, b], w.exited = false ∧ w.faults = [] ∧ w.commitHeld = false) ∧
        (∀ k ∈ s.cores, ∀ m ∈ k.2.mq, m.wave.g ≠ g) ∧ (∀ k ∈ s.crews, k.2.cmds = [] ∧ (k.1.g = g → k.2.xfers = [])) ∧
        (a.count.toNat < b.count.toNat ∨ (a.count = b.count ∧ i.w < j.w)) ∧ a.stopped = some (.sync (.spush da xa n)) ∧
        b.stopped = some (.sync (.spush db xb n)) ∧ (∀ w ∈ [a, b], w.buf = [] ∧ w.hold = none ∧ w.inflight = [] ∧ w.tried = false) ∧
        s.dirtyLines a.core 0 = [] ∧ s.dirtyLines b.core 0 = [] ∧ q.ents.length + 2 ≤ q.depth) :=
  ⟨by decide +kernel,
    by decide +kernel,
    by decide +kernel,
    by decide +kernel,
    by decide +kernel⟩

/-- The hypotheses of `GridsEndAndCrewsAreSaved`, clause by clause, can be met together. -/
theorem test_meets_GridsEndAndCrewsAreSaved :
    (let s : State := finishing 1 (solo aWave); let g : Nat := 1; let x := s.gridOf g; (aget s.grids g).isSome = true ∧
        ((∃ id ∈ s.live g, True) ∨ s.busy g = true ∨ x.ended = true)) ∧
    (let s : State := { (solo aWave) with hbm := Mem.write tables 0x40040 [250, 255], grids := (solo aWave).grids ++ [(2, { ctx := 1, lrec := recOf [(0x20, 0x20), (0x22, 4), (0x28, 0x40), (0x2A, 4), (0x30, 5)], status := 0, cause := 0x05000000, tpc := 0x12340, wid := 3, ending := decide (0 ≠ 0), cores := [0] })], cores := [(0, { aCore with l1 := [(0x800, { aLine with owners := [⟨2, 0⟩] })] })] };
        let g : Nat := 2; let x := s.gridOf g; let u := (s.settleGrid g).sealGrid g; let k := (0 : Nat);
        let q := ((((({ (solo aWave) with hbm := Mem.write tables 0x40040 [250, 255], grids := (solo aWave).grids ++ [(2, { ctx := 1, lrec := recOf [(0x20, 0x20), (0x22, 4), (0x28, 0x40), (0x2A, 4), (0x30, 5)], status := 0, cause := 0x05000000, tpc := 0x12340, wid := 3, ending := decide (0 ≠ 0), cores := [0] })], cores := [(0, { aCore with l1 := [(0x800, { aLine with owners := [⟨2, 0⟩] })] })] }) : State).settleGrid 2).sealGrid 2).coreOf 0).l1.headD (0, aLine);
        (aget s.grids g).isSome = true ∧ s.live g = [] ∧ s.busy g = false ∧ x.ended = false ∧
        (x.ending = true ∨ (x.saved = [] ∧ x.nextCrew = x.total)) ∧ (∀ p ∈ s.cores, (p.2.l1.map (·.1)).Nodup) ∧ k ∈ x.cores ∧ q ∈ (u.coreOf k).l1) ∧
    (let s : State := { (solo aWave) with hbm := Mem.write tables 0x40040 [250, 255], grids := (solo aWave).grids ++ [(2, { ctx := 1, lrec := recOf [(0x20, 0x20), (0x22, 4), (0x28, 0x40), (0x2A, 4), (0x30, 5)], status := 0, cause := 0x05000000, tpc := 0x12340, wid := 3, ending := decide (0 ≠ 0) })], openTxn := [⟨3, 1, 0xC300000040000, 8, [], [], [], none⟩] };
        let g : Nat := 2; let x := s.gridOf g; let u := (s.settleGrid g).sealGrid g; (aget s.grids g).isSome = true ∧ s.live g = [] ∧
        s.busy g = false ∧ x.ended = false ∧ (x.ending = true ∨ (x.saved = [] ∧ x.nextCrew = x.total)) ∧ u.unacked = true) ∧
    (let s : State := { (solo aWave) with hbm := Mem.write tables 0x40040 [250, 255], grids := (solo aWave).grids ++ [(2, { ctx := 1, lrec := recOf [(0x20, 0x20), (0x22, 9), (0x28, 0x40), (0x2A, 4), (0x30, 5)], status := 0, cause := 0x05000000, tpc := 0x12340, wid := 3, ending := decide (0 ≠ 0) })] };
        let g : Nat := 2; let x := s.gridOf g; let u := (s.settleGrid g).sealGrid g; let v := u.setGrid g { x with ended := true };
        (aget s.grids g).isSome = true ∧ s.live g = [] ∧ s.busy g = false ∧ x.ended = false ∧
        (x.ending = true ∨ (x.saved = [] ∧ x.nextCrew = x.total)) ∧ u.unacked = false ∧ v.ctxLeaf x.ctx (x.fld 0x20 8) .write = none) ∧
    (let s : State := finishing 1 (solo aWave); let g : Nat := 2; let x := s.gridOf g; let u := (s.settleGrid g).sealGrid g;
        let v := u.setGrid g { x with ended := true }; let l : Leaf := (⟨0x40020, 1, true, true, false, false, true, true⟩ : Leaf);
        (aget s.grids g).isSome = true ∧ s.live g = [] ∧ s.busy g = false ∧ x.ended = false ∧
        (x.ending = true ∨ (x.saved = [] ∧ x.nextCrew = x.total)) ∧ u.unacked = false ∧ v.ctxLeaf x.ctx (x.fld 0x20 8) .write = some l ∧
        v.plainAt l.pa 32 ∧ (x.status ≠ 0 ∨ x.sigout = 0)) ∧
    (let s : State := { (solo aWave) with hbm := Mem.write tables 0x40040 [250, 255], grids := (solo aWave).grids ++ [(2, { ctx := 1, lrec := recOf [(0x20, 0x20), (0x22, 4), (0x28, 0x40), (0x2A, 4), (0x30, 5)], status := 0, cause := 0x05000000, tpc := 0x12340, wid := 3, ending := decide (0 ≠ 0) })] };
        let g : Nat := 2; let x := s.gridOf g; let u := (s.settleGrid g).sealGrid g; let v := u.setGrid g { x with ended := true };
        let record := leBytes 4 x.status ++ leBytes 4 x.cause.toNat ++ leBytes 8 x.tpc ++ leBytes 4 x.wid ++ List.replicate 12 0;
        let l : Leaf := (⟨0x40020, 1, true, true, false, false, true, true⟩ : Leaf);
        let ls : Leaf := (⟨0x40040, 1, true, true, false, false, true, true⟩ : Leaf); let old : Nat := (65530 : Nat);
        let m := (v.ctxWalked x.ctx (x.fld 0x20 8)).stewardWrite l.pa l.key record; let n := (m.ctxWalked x.ctx x.sigout).flushLine (ls.pa / 128);
        (aget s.grids g).isSome = true ∧ s.live g = [] ∧ s.busy g = false ∧ x.ended = false ∧
        (x.ending = true ∨ (x.saved = [] ∧ x.nextCrew = x.total)) ∧ u.unacked = false ∧ v.ctxLeaf x.ctx (x.fld 0x20 8) .write = some l ∧
        v.plainAt l.pa 32 ∧ x.status = 0 ∧ x.sigout ≠ 0 ∧ m.ctxLeaf x.ctx x.sigout .load = some ls ∧ m.ctxLeaf x.ctx x.sigout .write = some ls ∧
        n.ctxLeaf x.ctx x.sigout .write = some ls ∧ n.ctxNum x.ctx x.sigout 8 = some old ∧ windowOf ls.pa = none ∧ n.plainAt ls.pa 8) ∧
    (let s : State := solo aWave; let g : Nat := 1; let wv : Nat := 0; let w := s.wv ⟨g, wv⟩; (s.gridOf g).ending = false ∧ (s.gridOf g).ended = false ∧
        (w.sup = false ∨ w.exited = true)) ∧
    (let s : State := solo superWave; let g : Nat := 1; let wv : Nat := 0; let w := s.wv ⟨g, wv⟩; (s.gridOf g).ending = false ∧
        (s.gridOf g).ended = false ∧ w.sup = true ∧ w.exited = false ∧ s.goes ⟨g, wv⟩ = true) ∧
    (let s : State := solo aWave; let g : Nat := 1; (s.gridOf g).ending = false ∧ (s.gridOf g).ended = false ∧ (aget s.grids g).isSome = true) ∧
    (let s : State := solo aWave; let c : CrewId := (⟨1, 0⟩ : CrewId); (∀ k ∈ s.cores, k.2.halted = false) ∧ s.victim c = false) ∧
    (let s : State := urgent (solo aWave); let c : CrewId := (⟨1, 0⟩ : CrewId); (∀ k ∈ s.cores, k.2.halted = false) ∧ s.victim c = true) ∧
    (let s : State := solo aWave; let c : CrewId := (⟨1, 0⟩ : CrewId); (∀ k ∈ s.cores, k.2.halted = false) ∧ s.preempting.contains c = false) ∧
    (let s : State := { solo { aWave with lvCls := 2, lvGnt := true } with preempting := [⟨1, 0⟩] }; let c : CrewId := (⟨1, 0⟩ : CrewId);
        (∀ k ∈ s.cores, k.2.halted = false) ∧ s.preempting.contains c = true ∧ (s.crewOf c).bound = true ∧ (∀ p ∈ s.waves, p.2.inflight = [])) ∧
    (let s : State := preempted (solo { aWave with search := some (aSearch true), fl := 2 }); let c : CrewId := (⟨1, 0⟩ : CrewId); s.preempting = [c] ∧
        (s.coreOf (s.crewOf c).core).halted = true ∧ (s.crewOf c).bound = true ∧ s.dirtyLines (s.crewOf c).core 4 = [] ∧ s.unacked = false ∧
        s.llcKey = [] ∧ (s.crewOf c).lsDirty = []) :=
  ⟨by decide +kernel,
    by decide +kernel,
    by decide +kernel,
    by decide +kernel,
    by delta State.plainAt; decide +kernel,
    by delta State.plainAt; decide +kernel,
    by decide +kernel,
    by decide +kernel,
    by decide +kernel,
    by decide +kernel,
    by decide +kernel,
    by decide +kernel,
    by decide +kernel,
    by decide +kernel⟩

/-- The hypotheses of `StepRunsTheDecodedInstruction`, clause by clause, can be met together. -/
theorem test_meets_StepRunsTheDecodedInstruction :
    ((let s : State := clocked (solo { aWave with active := false, exited := true }); let core : Nat := 0; let busy : List Nat := [];
        let u := s.advance.tock core; s.moduleUp = true ∧ s.chosen = .issue core busy ∧ u.pick core busy = none) ∧
      (let s : State := clocked (solo { aWave with faults := [⟨4, 0, 1⟩] }); let core : Nat := 0; let busy : List Nat := []; let u := s.advance.tock core;
        let id := (⟨1, 0⟩ : WaveId); s.moduleUp = true ∧ s.chosen = .issue core busy ∧ u.pick core busy = some id ∧ (u.wv id).owes = true) ∧
      (let s : State := { clocked (solo aWave) with agenda := [.occur .heartbeatSend] }; let e := Instr.heartbeatSend; s.moduleUp = true ∧
        s.chosen = .occur e ∧ isEvent e = true) ∧
      (let s : State := { clocked (solo aWave) with moduleUp := false }; s.moduleUp = false ∧ isPower s.chosen = false)) :=
  by dsimp only; decide +kernel

/-- The hypotheses of `WordsDecodeAsTheTablesSay`, clause by clause, can be met together. -/
theorem test_meets_WordsDecodeAsTheTablesSay :
    (let w := 0xF0000000; w ∈ [0x00000000, 0xF0000000, 0x9940028E, 0x68000142, 0x63514003]) :=
  by decide +kernel

/-- The hypotheses of `DecodingUndoesEncoding`, clause by clause, can be met together. -/
theorem test_meets_DecodingUndoesEncoding :
    (let i : Instr := .addN32 5 2 3 false; let w : Word := (encode i).getD 0; i.wellFormed = true ∧ encode i = some w) :=
  by decide +kernel

/-- The hypotheses of `ResetIsEmpty`, clause by clause, can be met together. -/
theorem test_meets_ResetIsEmpty :
    (let b := 4095; b < 4096) :=
  by decide +kernel

/-- An answer that is a next state, or the second argument. -/
def nextOr (o : Out) (s : State) : State := match o with | .next t => t | _ => s

/-- An answer is a next state where it is no fault and no refusal. -/
theorem nextSelf {o : Out} {s : State} (h : (match o with | .next _ => true | _ => false) = true) : o = .next (nextOr o s) := by
  cases o <;> simp_all [nextOr]

/-- Four facts decided together, and a fifth. -/
theorem byKernelThen {a b c d e : Prop} (h : a ∧ b ∧ c ∧ d) (he : e) : a ∧ b ∧ c ∧ d ∧ e := ⟨h.1, h.2.1, h.2.2.1, h.2.2.2, he⟩

/-- The hypotheses of `StepRunsTheDecodedInstruction` at an issue clock: the word at the PC decodes, is none, or cannot be fetched. -/
theorem test_meets_StepRunsTheDecodedInstruction_at_the_clock :
    (let s := clocked (worded [0xa554d60] (solo aWave)); let u := s.advance.tock 0; let v := u.take ⟨1, 0⟩; let x := okOr (v.fetchWord ⟨1, 0⟩ v.w.pc.toNat) 0;
      s.moduleUp = true ∧ s.chosen = .issue 0 [] ∧ u.pick 0 [] = some ⟨1, 0⟩ ∧ (u.wv ⟨1, 0⟩).owes = false ∧
      v.fetchWord ⟨1, 0⟩ v.w.pc.toNat = .ok x ∧ decodeWord x = .instr (.addN32 37 42 53 true)) ∧
    (let s := clocked (worded [0xF0000000] (solo aWave)); let u := s.advance.tock 0; let v := u.take ⟨1, 0⟩; let x := okOr (v.fetchWord ⟨1, 0⟩ v.w.pc.toNat) 0;
      s.moduleUp = true ∧ s.chosen = .issue 0 [] ∧ u.pick 0 [] = some ⟨1, 0⟩ ∧ (u.wv ⟨1, 0⟩).owes = false ∧
      v.fetchWord ⟨1, 0⟩ v.w.pc.toNat = .ok x ∧ decodeWord x = .reject .unallocated) ∧
    (let s := clocked (solo { aWave with pc := 0x90000 }); let u := s.advance.tock 0; let v := u.take ⟨1, 0⟩; let k := errOr (v.fetchWord ⟨1, 0⟩ v.w.pc.toNat) 0;
      s.moduleUp = true ∧ s.chosen = .issue 0 [] ∧ u.pick 0 [] = some ⟨1, 0⟩ ∧ (u.wv ⟨1, 0⟩).owes = false ∧
      v.fetchWord ⟨1, 0⟩ v.w.pc.toNat = .error k) :=
  ⟨byKernelThen (by decide +kernel) ⟨okSelf (by decide +kernel), by decide +kernel⟩,
    byKernelThen (by decide +kernel) ⟨okSelf (by decide +kernel), by decide +kernel⟩,
    byKernelThen (by decide +kernel) (errSelf (by decide +kernel))⟩

/-- A word decodes, as `DecodingAnswersWellFormedInstructions` supposes. -/
theorem test_meets_DecodingAnswersWellFormedInstructions : decodeWord 0x50507A87 = .instr (.lfwd 5 3 106 false) := by decide +kernel

/-- A step from a state whose memories are canonical answers a next state, as `StepsKeepMemoryCanonical` supposes. -/
theorem test_meets_StepsKeepMemoryCanonical :
    let s := clocked (worded [0x10504105] (solo aWave)); let t := nextOr (step s) s; s.memOk ∧ step s = .next t :=
  ⟨by delta State.memOk; decide +kernel, nextSelf (by decide +kernel)⟩

/-- The hypotheses of `FabricDevicesExchangeOnce` for a flit: its CRC is wrong; or it is right, and the flit is out of order, a retry request, or
in order. -/
theorem test_meets_FabricDevicesExchangeOnce_on_a_link :
    let s := linked [1, 2] 0 false
    let crc := fun (hdr : Nat) => Config.crc64 (leBytes 4 hdr ++ tab 244 (fun i => ([] : List Byte).getD i 0))
    (¬ s.linkShut 2 ∧ ¬ crc 5 + 1 = crc 5) ∧ (crc 5 = crc 5 ∧ 5 / 2 ^ 24 % 2 ^ 4 ≠ 2 ∧ 5 % 2 ^ 12 ≠ (s.linkOf 2).expect) ∧
      (0x2009005 / 2 ^ 24 % 2 ^ 4 = 2 ∧ ∀ f ∈ (s.linkOf 2).sent, f.seq ≠ 0x2009005 / 2 ^ 12 % 2 ^ 12) ∧
      (0x1001FFF / 2 ^ 24 % 2 ^ 4 ≠ 2 ∧ 0x1001FFF % 2 ^ 12 = (s.linkOf 2).expect) :=
  ⟨⟨by delta State.linkShut; decide +kernel, Nat.succ_ne_self _⟩, ⟨rfl, by decide +kernel⟩, by decide +kernel⟩

/-- A thread of those that an instruction's flags `fl` make trap is the lowest, in a user wave with a handler. -/
def trapsAt (s : State) (fl : Nat → FFlags) (t0 : Nat) : Bool :=
  !s.w.sup && s.w.tvec != 0 && s.w.act t0 && (fl t0 &&& s.w.enables t0) != 0 &&
    (List.range t0).all (fun t => !(s.w.act t && (fl t &&& s.w.enables t) != 0))

/-- The hypotheses of `EnabledExceptionsTrap` for binary forms: the first form of each list. -/
theorem test_meets_EnabledExceptionsTrap_binary :
    (let s := solo infWave; let i : Instr := .divF32 8 2 3 false; s.issues i ∧ ∀ rest : List (Instr × (FEnv → Nat → Nat → FFlags)),
      (i, fun v x y => (fpDiv f32 v x y).2) ∈ (.divF32 8 2 3 false, fun v x y => (fpDiv f32 v x y).2) :: rest) ∧
    (let s := solo infWave; let i : Instr := .divF64 8 2 4 false; s.issues i ∧ ∀ rest : List (Instr × (FEnv → Nat → Nat → FFlags)),
      (i, fun v x y => (fpDiv f64 v x y).2) ∈ (.divF64 8 2 4 false, fun v x y => (fpDiv f64 v x y).2) :: rest) :=
  ⟨⟨by delta State.issues; decide +kernel, fun _ => List.mem_cons_self⟩, ⟨by delta State.issues; decide +kernel, fun _ => List.mem_cons_self⟩⟩

/-- For each kind of form of `EnabledExceptionsTrap`, a thread that traps. -/
theorem test_meets_EnabledExceptionsTrap_at_a_thread :
    let w := infWave
    let s := solo w
    let u := solo (regs { w with v := w.v.set 6 (rowOf (fun t => if t = 33 then 0x33000000 else 0x3F800000)) } [(61, 1), (62, 2)])
    trapsAt s (fun t => (fpArith .add f32 (w.env none t) (w.vr 2 t).toNat (w.vr 3 t).toNat 0).2) 31 = true ∧
    trapsAt s (fun t => (fpArith .mul f64 (w.env none t) (w.vr2 2 t).toNat (w.vr2 4 t).toNat 0).2) 0 = true ∧
    trapsAt s (fun t => (fpSpecial .sqrt f32 (w.env none t) (w.vr 3 t).toNat).2) 31 = true ∧
    trapsAt s (fun t => (fpSpecial .sqrt f64 (w.env none t) (w.vr2 2 t).toNat).2) 0 = true ∧
    trapsAt s (fun t => (fpDiv f32 (w.env none t) (w.vr 2 t).toNat (w.vr 3 t).toNat).2) 31 = true ∧
    trapsAt u (fun t => if t = 0 then (fpSumAll (u.w.env none 0) ([0, 33].map (fun t => f32.readF ((u.w.fsrOf t).getLsbD 11) (u.w.vr 6 t).toNat))).2 else 0) 0
      = true := by decide +kernel

/-- The walk of `CacheLinesMoveBetweenLevels` meets four entries of a table without an uncorrectable error. -/
theorem test_meets_CacheLinesMoveBetweenLevels_walk :
    let s := { solo aWave with cores := [], crews := [], hbm := Mem.write (Mem.write (Mem.write (Mem.write [] 0x0 (leBytes 8 0xC001)) 0xC000 (leBytes 8 0x18001)) 0x18000 (leBytes 8 0x24001)) 0x24008 (leBytes 8 0x0100000000030353) }
    let entry := fun (table shift n : Nat) => leNat (s.homeRead (table + 8 * (0x12345 / 2 ^ shift % n)) 8 1)
    (∀ ln i, s.homeBad ln i = false) ∧ (aget s.ctxs 1 = some { tkey := 1, quota := 64 } ∧ (∀ k, k < 12 → (aget s.keys (k * 256 + 1)).isSome = true) ∧
      (∀ lvl, lvl < 4 → s.walkHeld (sectorOf 5) 1 0x12345 lvl = none) ∧
      entry 0 39 1024 = 0xC001 ∧ entry 0xC000 30 512 = 0x18001 ∧ entry 0x18000 21 512 = 0x24001 ∧ entry 0x24000 16 32 = 0x0100000000030353 ∧
      badPointer 3 0xC001 = false ∧ badPointer 2 0x18001 = false ∧ badPointer 1 0x24001 = false ∧ badLeaf 0 0x0100000000030353 = false) :=
  ⟨fun _ _ => rfl, by decide +kernel⟩

/-- A page at 0x60000 in the window of device 3, which is in the domain. -/
def windowed (w : Wave) : State :=
  { solo w with peers := [(3, { inDomain := true })],
                cores := [(0, { tlb := [⟨1, 0x60000, 0x10000, ⟨0xC300000040000, 0, true, true, false, false, true, true⟩⟩] })] }

/-- An owner that may refuse, for `WaitsRetireOnTheirCondition` and `ArrivalsArePostedAndSessionsSealed`: the word can be read, and whether it is
refused is the owner's free answer. -/
theorem test_meets_a_refusal_by_an_owner :
    let s := windowed (openWave 0x60000 0 0)
    let l : Leaf := ⟨0xC300000040000, 0, true, true, false, false, true, true⟩
    let p := Place.mem l.pa l.key 1 0x60000
    ((s.w.ws2 10).toNat = 0x60000 ∧ (s.w.wr2 10).toNat = 0x60000 ∧ s.w.quant = 0 ∧ s.readBad s.w p 8 = false ∧ (s.peerFor l.pa).isSome = true) ∧
      s.check s.w.core (s.ctxN s.cur.g) 0x60000 8 .load = .ok l ∧
      ((s.peerFor l.pa).isSome && s.refuses s.w.core l.pa) = Config.peerCloses 3 0 s.nextUid (s.coreOf s.w.core).clock :=
  ⟨by decide +kernel, okOf (by decide +kernel), rfl⟩

/-- The hypotheses of `Fmt.RoundsReal`, for 1 / 3 strictly between two neighbours of 27 binary places, and for 1 / 2 at one of 26. -/
theorem test_meets_RoundsReal :
    (2 ^ (f32.fb + 2) ≤ 44739242 ∧ dyadicLt (44739242 * 3) (-27) 1 0 ∧ dyadicLt 1 0 (44739243 * 3) (-27)) ∧
    (2 ^ (f32.fb + 2) ≤ 2 ^ 25 ∧ ¬ dyadicLt (2 ^ 25 * 2) (-26) 1 0 ∧ ¬ dyadicLt 1 0 (2 ^ 25 * 2) (-26)) := by
  delta dyadicLt; decide +kernel

end Sys2Proof.Tests
end

/-! Vector integer instructions (R98) and conversions between integers (R118): each runs a shared operation whose function is that of the spec's table. -/

namespace Sys2Proof.Machine

/-! ### The result functions of the integer instructions -/

/-- Bits [63:32] of a product taken in 64 bits. -/
theorem extractLsb'_high_ofInt (z : Int) : (BitVec.ofInt 64 z).extractLsb' 32 32 = BitVec.ofInt 32 (z / 2 ^ 32) := by
  apply BitVec.eq_of_toNat_eq
  rw [BitVec.extractLsb'_toNat, BitVec.toNat_ofInt, BitVec.toNat_ofInt, Nat.shiftRight_eq_div_pow]
  omega

theorem iMulhiS_eq (A B : Word) : iMulhiS A B = (A.signExtend 64 * B.signExtend 64).extractLsb' 32 32 := by
  unfold iMulhiS BitVec.signExtend
  rw [← BitVec.ofInt_mul, extractLsb'_high_ofInt]

theorem iMulhiN_eq (A B : Word) : iMulhiN A B = (A.setWidth 64 * B.setWidth 64).extractLsb' 32 32 := by
  have hprod : A.setWidth 64 * B.setWidth 64 = BitVec.ofInt 64 ((A.toNat * B.toNat : Nat) : Int) := by
    rw [BitVec.ofInt_natCast, BitVec.ofNat_mul, BitVec.ofNat_toNat, BitVec.ofNat_toNat]
  rw [iMulhiN, hprod, extractLsb'_high_ofInt, ← BitVec.ofInt_natCast]
  norm_cast

theorem shiftLeft_eq_ofNat (A : Word) (n : Nat) : A <<< n = BitVec.ofNat 32 (A.toNat * 2 ^ n) := by
  apply BitVec.eq_of_toNat_eq
  rw [BitVec.toNat_shiftLeft, BitVec.toNat_ofNat, Nat.shiftLeft_eq]

theorem ushiftRight_eq_ofNat (A : Word) (n : Nat) : A >>> n = BitVec.ofNat 32 (A.toNat / 2 ^ n) := by
  rw [← Nat.shiftRight_eq_div_pow, ← BitVec.toNat_ushiftRight, BitVec.ofNat_toNat, BitVec.setWidth_eq]

theorem iShl_eq (A B : Word) : iShl A B = if 32 ≤ B.toNat then 0 else BitVec.ofNat 32 (A.toNat * 2 ^ B.toNat) := by
  rw [iShl, shiftLeft_eq_ofNat]

theorem iShr_eq (A B : Word) : iShr A B = if 32 ≤ B.toNat then 0 else BitVec.ofNat 32 (A.toNat / 2 ^ B.toNat) := by
  rw [iShr, ushiftRight_eq_ofNat]

theorem iSar_eq (A B : Word) : iSar A B = BitVec.ofInt 32 (A.toInt / 2 ^ min B.toNat 31) := by
  rw [iSar, ← BitVec.ofInt_toInt (x := A.sshiftRight _), BitVec.toInt_sshiftRight, Int.shiftRight_eq_div_pow]
  norm_cast

theorem ite_slt_eq_min (A B : Word) : (if A.slt B then A else B) = BitVec.ofInt 32 (min A.toInt B.toInt) := by
  simp only [BitVec.slt_iff_toInt_lt, min_def_lt, apply_ite (BitVec.ofInt 32), BitVec.ofInt_toInt]

theorem ite_slt_eq_max (A B : Word) : (if A.slt B then B else A) = BitVec.ofInt 32 (max A.toInt B.toInt) := by
  simp only [BitVec.slt_iff_toInt_lt, max_def_lt, apply_ite (BitVec.ofInt 32), BitVec.ofInt_toInt]

theorem ite_ult_eq_min (A B : Word) : (if A.ult B then A else B) = BitVec.ofNat 32 (min A.toNat B.toNat) := by
  simp only [BitVec.ult_iff_lt, BitVec.lt_def, min_def_lt, apply_ite (BitVec.ofNat 32), BitVec.ofNat_toNat, BitVec.setWidth_eq]

theorem ite_ult_eq_max (A B : Word) : (if A.ult B then B else A) = BitVec.ofNat 32 (max A.toNat B.toNat) := by
  simp only [BitVec.ult_iff_lt, BitVec.lt_def, max_def_lt, apply_ite (BitVec.ofNat 32), BitVec.ofNat_toNat, BitVec.setWidth_eq]

theorem iBool_eq_ite {b : Bool} {p : Prop} [Decidable p] (h : b = true ↔ p) : iBool b = if p then 1 else 0 := by
  rw [iBool]; exact if_congr h rfl rfl

/-- A test that holds below `m` and fails at `m` stops a run over the positions at `m`. -/
theorem length_takeWhile_range {p : Nat → Bool} {m n : Nat} (hm : m < n) (hp : ∀ i, i < m → p i = true) (hf : p m = false) :
    ((List.range n).takeWhile p).length = m := by
  obtain ⟨k, rfl⟩ := Nat.exists_eq_add_of_lt hm
  rw [Nat.add_assoc, List.range_add, List.takeWhile_append_of_pos (by simpa using hp), List.range_succ_eq_map]
  simp [hf]

theorem iClz_eq (A : Word) : iClz A = BitVec.ofNat 32 ((List.range 32).takeWhile (fun i => !A.getLsbD (31 - i))).length := by
  rw [iClz]
  congr 1
  split
  · next h =>
    have hz : ∀ i, (!A.getLsbD (31 - i)) = true := by simp [h]
    rw [List.takeWhile_eq_self_iff.2 fun i _ => hz i, List.length_range]
  · next h =>
    have hA : A.toNat ≠ 0 := fun hz => h (BitVec.eq_of_toNat_eq hz)
    have hlog : A.toNat.log2 < 32 := (Nat.log2_lt hA).2 A.isLt
    symm
    apply length_takeWhile_range (by omega)
    · intro i hi
      have : A.toNat < 2 ^ (31 - i) := (Nat.log2_lt hA).1 (by omega)
      rw [BitVec.getLsbD, Nat.testBit_lt_two_pow this]; rfl
    · rw [show 31 - (31 - A.toNat.log2) = A.toNat.log2 by omega, BitVec.getLsbD, Nat.testBit_log2 hA]; rfl

/-- The bits below `n`, summed from bit 31 downwards, are those bits in reverse order at the top of a word. -/
theorem foldl_reversed_bits (p : Nat → Bool) {n : Nat} (hn : n ≤ 32) :
    (List.range n).foldl (fun v i => if p i then v + 2 ^ (31 - i) else v) 0
      = 2 ^ (32 - n) * Nat.ofBits (fun j : Fin n => p (n - 1 - j)) := by
  induction n with
  | zero => simp
  | succ n ih =>
    have hpow : 2 ^ (32 - n) = 2 * 2 ^ (31 - n) := by rw [← pow_succ']; congr 1; omega
    have hbits : Nat.ofBits (fun j : Fin (n + 1) => p (n + 1 - 1 - j))
        = 2 * Nat.ofBits (fun j : Fin n => p (n - 1 - j)) + (p n).toNat := by
      rw [Nat.ofBits_succ]
      congr 3
      funext j
      simp [Nat.sub_sub, Nat.add_comm]
    rw [List.range_succ, List.foldl_append, ih (by omega), hbits, hpow, show 32 - (n + 1) = 31 - n by omega]
    cases h : p n <;> simp [h] <;> ring

theorem iBrev_eq (A : Word) : iBrev A = A.reverse := by
  rw [iBrev, foldl_reversed_bits A.getLsbD le_rfl]
  apply BitVec.eq_of_getLsbD_eq
  intro i hi
  rw [BitVec.getLsbD_ofNat, BitVec.getLsbD_reverse, BitVec.getMsbD]
  simp [hi, Nat.testBit_ofBits_lt]

theorem iSatS_eq (n : Int) : iSatS n = BitVec.ofInt 32 (max (-2 ^ 31) (min n (2 ^ 31 - 1))) := by
  rw [iSatS]; congr 1; omega

theorem iSatN_add_eq (A B : Word) : iSatN ((A.toNat : Int) + B.toNat) = BitVec.ofNat 32 (min (A.toNat + B.toNat) (2 ^ 32 - 1)) := by
  rw [iSatN, ← BitVec.ofInt_natCast]; congr 1; omega

theorem iSatN_sub_eq (A B : Word) : iSatN ((A.toNat : Int) - B.toNat) = BitVec.ofNat 32 (A.toNat - B.toNat) := by
  rw [iSatN, ← BitVec.ofInt_natCast]; congr 1; have := A.isLt; omega

theorem iBfi_eq (A B D : Word) : iBfi A B D = intResult 0x1C A B D := by
  rw [iBfi, shiftLeft_eq_ofNat]; rfl

/-! ### Vector instructions of major 0x01 -/

/-- A row of R98 of two or three sources: its fields are those that the issue checks, and its function is that of the table. -/
theorem State.writesRow_of_vec3 {s : State} {i : Instr} {k : Nat} {d a b : Code} {nw : Bool} (third : Bool)
    (f : Word → Word → Word → Word) (hi : s.issues i) (hops : i.operands = fVVV d a b ++ fThird third d)
    (hrun : exec i s = vec3 third f d a b nw s) (hf : ∀ A B D, f A B D = intResult k A B D) :
    s.writesRow d nw 4 (fun w t => intResult k (w.vr a t) (w.vr b t) (w.vr d t)) (exec i s) := by
  obtain rfl : f = intResult k := by funext A B D; exact hf A B D
  exact State.writesRow_of (hops ▸ hi.2) hrun

/-- A row of R98 of one source. -/
theorem State.writesRow_of_vec2 {s : State} {i : Instr} {k : Nat} {d a b : Code} {nw : Bool}
    (f : Word → Word) (hi : s.issues i) (hops : i.operands = fVV d a) (hrun : exec i s = vec2 f d a nw s)
    (hf : ∀ A B D, f A = intResult k A B D) :
    s.writesRow d nw 4 (fun w t => intResult k (w.vr a t) (w.vr b t) (w.vr d t)) (exec i s) := by
  have hrow : (fun (w : Wave) t => intResult k (w.vr a t) (w.vr b t) (w.vr d t)) = fun w t => f (w.vr a t) := by
    funext w t; exact (hf _ _ _).symm
  rw [hrow]
  exact State.writesRow_of (hops ▸ hi.2) hrun

/-- Settles O1: row by row of R98, the function that the model runs is the one that the table states. -/
theorem vectorIntegersWriteTheirResult : Obligations.VectorIntegersWriteTheirResult := by
  intro i s k d a b nw hform hi
  cases i with
  | addN32 => cases hform; exact State.writesRow_of_vec3 false (fun A B _ => A + B) hi rfl rfl fun _ _ _ => rfl
  | subN32 => cases hform; exact State.writesRow_of_vec3 false (fun A B _ => A - B) hi rfl rfl fun _ _ _ => rfl
  | mulN32 => cases hform; exact State.writesRow_of_vec3 false (fun A B _ => A * B) hi rfl rfl fun _ _ _ => rfl
  | mulhiS32 => cases hform; exact State.writesRow_of_vec3 false (fun A B _ => iMulhiS A B) hi rfl rfl fun A B _ => iMulhiS_eq A B
  | mulhiN32 => cases hform; exact State.writesRow_of_vec3 false (fun A B _ => iMulhiN A B) hi rfl rfl fun A B _ => iMulhiN_eq A B
  | madN32 => cases hform; exact State.writesRow_of_vec3 true (fun A B D => A * B + D) hi rfl rfl fun _ _ _ => rfl
  | andN32 => cases hform; exact State.writesRow_of_vec3 false (fun A B _ => A &&& B) hi rfl rfl fun _ _ _ => rfl
  | orN32 => cases hform; exact State.writesRow_of_vec3 false (fun A B _ => A ||| B) hi rfl rfl fun _ _ _ => rfl
  | xorN32 => cases hform; exact State.writesRow_of_vec3 false (fun A B _ => A ^^^ B) hi rfl rfl fun _ _ _ => rfl
  | shlN32 => cases hform; exact State.writesRow_of_vec3 false (fun A B _ => iShl A B) hi rfl rfl fun A B _ => iShl_eq A B
  | shrN32 => cases hform; exact State.writesRow_of_vec3 false (fun A B _ => iShr A B) hi rfl rfl fun A B _ => iShr_eq A B
  | shrS32 => cases hform; exact State.writesRow_of_vec3 false (fun A B _ => iSar A B) hi rfl rfl fun A B _ => iSar_eq A B
  | minS32 =>
    cases hform
    exact State.writesRow_of_vec3 false (fun A B _ => if A.slt B then A else B) hi rfl rfl fun A B _ => ite_slt_eq_min A B
  | minN32 =>
    cases hform
    exact State.writesRow_of_vec3 false (fun A B _ => if A.ult B then A else B) hi rfl rfl fun A B _ => ite_ult_eq_min A B
  | maxS32 =>
    cases hform
    exact State.writesRow_of_vec3 false (fun A B _ => if A.slt B then B else A) hi rfl rfl fun A B _ => ite_slt_eq_max A B
  | maxN32 =>
    cases hform
    exact State.writesRow_of_vec3 false (fun A B _ => if A.ult B then B else A) hi rfl rfl fun A B _ => ite_ult_eq_max A B
  | seqN32 => cases hform; exact State.writesRow_of_vec3 false (fun A B _ => iBool (A == B)) hi rfl rfl fun A B _ => iBool_eq_ite beq_iff_eq
  | sltS32 =>
    cases hform
    exact State.writesRow_of_vec3 false (fun A B _ => iBool (A.slt B)) hi rfl rfl fun A B _ => iBool_eq_ite BitVec.slt_iff_toInt_lt
  | sltN32 =>
    cases hform
    exact State.writesRow_of_vec3 false (fun A B _ => iBool (A.ult B)) hi rfl rfl fun A B _ => iBool_eq_ite BitVec.ult_iff_lt
  | selN32 =>
    cases hform
    exact State.writesRow_of_vec3 true (fun A B D => if D = 0 then B else A) hi rfl rfl fun _ _ _ => (ite_not ..).symm
  | popN32 => cases hform; exact State.writesRow_of_vec2 iPop hi rfl rfl fun _ _ _ => rfl
  | clzN32 => cases hform; exact State.writesRow_of_vec2 iClz hi rfl rfl fun A _ _ => iClz_eq A
  | brevN32 => cases hform; exact State.writesRow_of_vec2 iBrev hi rfl rfl fun A _ _ => iBrev_eq A
  | addsS32 => cases hform; exact State.writesRow_of_vec3 false (fun A B _ => iSatS (A.toInt + B.toInt)) hi rfl rfl fun _ _ _ => iSatS_eq _
  | subsS32 => cases hform; exact State.writesRow_of_vec3 false (fun A B _ => iSatS (A.toInt - B.toInt)) hi rfl rfl fun _ _ _ => iSatS_eq _
  | addsN32 =>
    cases hform
    exact State.writesRow_of_vec3 false (fun A B _ => iSatN ((A.toNat : Int) + B.toNat)) hi rfl rfl fun A B _ => iSatN_add_eq A B
  | subsN32 =>
    cases hform
    exact State.writesRow_of_vec3 false (fun A B _ => iSatN ((A.toNat : Int) - B.toNat)) hi rfl rfl fun A B _ => iSatN_sub_eq A B
  | bfxN32 => cases hform; exact State.writesRow_of_vec3 false (fun A B _ => iBfx A B) hi rfl rfl fun _ _ _ => rfl
  | bfiN32 => cases hform; exact State.writesRow_of_vec3 true iBfi hi rfl rfl iBfi_eq
  | _ => cases hform

/-! ### Conversions between integers -/

/-- The checks of some of the fields pass when those of all do. -/
theorem Wave.precheck_none_mono {w : Wave} {ops all : List Opnd} (h : w.precheck all = none) (hsub : ops ⊆ all) : w.precheck ops = none :=
  (w.precheck_none ops).2 fun o ho => (w.precheck_none all).1 h o (hsub ho)

theorem ofNat_narrow {lo hi : Int} (h : lo ≤ hi) (x : Word) : BitVec.ofNat 32 (narrow lo hi x) = BitVec.ofInt 32 (max lo (min x.toInt hi)) := by
  have hclamp : clampI lo hi x.toInt = max lo (min x.toInt hi) := by unfold clampI; omega
  rw [narrow, hclamp]
  apply BitVec.eq_of_toNat_eq
  rw [BitVec.toNat_ofNat, BitVec.toNat_ofInt, wrap]
  omega

/-- A narrow conversion, whose third field is a rounding selector that it does not use (R118). -/
theorem State.writesRow_of_narrow {s : State} {i : Instr} {d a sel : Code} {nw : Bool} {lo up : Int} (hle : lo ≤ up) (hi : s.issues i)
    (hops : i.operands = [⟨.vDst, d.toNat⟩, ⟨.vSrc, a.toNat⟩, ⟨.range 0 5, sel.toNat⟩]) (hrun : exec i s = bits32 (narrow lo up) d a nw s) :
    s.writesRow d nw 4 (fun w t => BitVec.ofInt 32 (max lo (min (w.vr a t).toInt up))) (exec i s) := by
  simp only [← ofNat_narrow hle]
  exact State.writesRow_of (Wave.precheck_none_mono (hops ▸ hi.2) (by simp [fVV])) hrun

/-- A conversion of a 32-bit position to a pair. -/
theorem State.writesPair_of_widen {s : State} {i : Instr} {d a : Code} {nw : Bool} (f : Word → BitVec 64) (hi : s.issues i)
    (hops : i.operands = [⟨.vDstP, d.toNat⟩, ⟨.vSrc, a.toNat⟩, ⟨.range 0 0, nw.toNat⟩])
    (hrun : exec i s = s.guarded [⟨.vDstP, d.toNat⟩, ⟨.vSrc, a.toNat⟩] (fun s => s.modW (fun w => (w.out64 d (fun t => f (w.vr a t))).retire))) :
    s.writesPair d (fun w t => f (w.vr a t)) (exec i s) :=
  State.writesPair_of (Wave.precheck_none_mono (hops ▸ hi.2) (by simp)) hrun

/-- Settles O9: each narrow conversion clamps, each wide one extends, and none reaches `fsr`. -/
theorem integerConversionsClamp : Obligations.IntegerConversionsClamp := by
  intro s d a sel nw
  refine ⟨fun hi => ?_, fun hi => ?_, fun hi => ?_, fun hi => ?_, fun hi => ?_, fun hi => ?_⟩
  · exact State.writesRow_of_narrow (by decide) hi rfl rfl
  · exact State.writesRow_of_narrow (by decide) hi rfl rfl
  · exact State.writesRow_of_narrow (by decide) hi rfl rfl
  · exact State.writesRow_of_narrow (by decide) hi rfl rfl
  · exact State.writesPair_of_widen (BitVec.signExtend 64) hi rfl rfl
  · simp only [BitVec.ofNat_toNat]
    exact State.writesPair_of_widen (BitVec.setWidth 64) hi rfl rfl

end Sys2Proof.Machine

/-! Taking a precise trap (R22, R134, R135, R369): the wave enters its handler, or its grid is terminated; and the instructions that take one. -/

namespace Sys2Proof.Machine

/-! ### The wave at its handler -/

/-- Bits [48:32] of the handler entry are the low 17 bits of `tvech` (R131). -/
theorem Wave.toNat_tvec (w : Wave) : w.tvec.toNat = w.tvecl.toNat + w.tvech.toNat % 2 ^ 17 * 2 ^ 32 := by
  have := w.tvecl.isLt
  rw [Wave.tvec, BitVec.toNat_ofNat]
  omega

theorem Wave.tvec_eq_zero_iff (w : Wave) : w.tvec = 0 ↔ w.tvecl.toNat + w.tvech.toNat % 2 ^ 17 * 2 ^ 32 = 0 := by
  rw [← Wave.toNat_tvec, BitVec.toNat_eq]; rfl

/-- The two words of a trap PC hold all of its 49 bits (R131). -/
theorem toNat_low_add_high (e : BitVec 49) : (BitVec.ofNat 32 e.toNat).toNat + (BitVec.ofNat 32 (e.toNat / 2 ^ 32)).toNat * 2 ^ 32 = e.toNat := by
  have := e.isLt
  rw [BitVec.toNat_ofNat, BitVec.toNat_ofNat]
  omega

/-- The fields of `cause` do not overlap (R133). -/
theorem Trap.cause_eq {t : Trap} (hcls : t.cls < 256) (hsub : t.sub < 256) (hcode : t.code < 128) :
    t.cause = BitVec.ofNat 32 (t.cls * 2 ^ 24 + t.sub * 2 ^ 16 + t.code) := by
  rw [Trap.cause, Nat.mod_eq_of_lt hcls, Nat.mod_eq_of_lt hsub, Nat.mod_eq_of_lt hcode]

section Enter
variable (w : Wave) (t : Trap)

@[simp] theorem Wave.enter_sup : (w.enter t).sup = true := by unfold Wave.enter; rfl
@[simp] theorem Wave.enter_pc : (w.enter t).pc = w.tvec := by unfold Wave.enter; rfl
@[simp] theorem Wave.enter_count : (w.enter t).count = w.count := by unfold Wave.enter Wave.record; rfl
@[simp] theorem Wave.enter_cause : (w.enter t).cause = t.cause := by unfold Wave.enter Wave.record; rfl
@[simp] theorem Wave.enter_epcl : (w.enter t).epcl = BitVec.ofNat 32 (t.epc.getD w.pc).toNat := by unfold Wave.enter Wave.record; rfl
@[simp] theorem Wave.enter_epch : (w.enter t).epch = BitVec.ofNat 32 ((t.epc.getD w.pc).toNat / 2 ^ 32) := by
  unfold Wave.enter Wave.record; rfl
@[simp] theorem Wave.enter_qSaved : (w.enter t).qSaved = w.q := by unfold Wave.enter; rfl
@[simp] theorem Wave.enter_badQSaved : (w.enter t).badQSaved = w.badQ := by unfold Wave.enter; rfl
@[simp] theorem Wave.enter_trapCause : (w.enter t).trapCause = t.cause := by unfold Wave.enter Wave.record; rfl
@[simp] theorem Wave.enter_trapPc : (w.enter t).trapPc = (t.epc.getD w.pc).toNat := by unfold Wave.enter Wave.record; rfl
@[simp] theorem Wave.enter_entryDepth : (w.enter t).entryDepth = w.tokens.length + w.spilled := by unfold Wave.enter Wave.depth; rfl
@[simp] theorem Wave.sansTrap_enter : (w.enter t).sansTrap = w.sansTrap := by unfold Wave.enter Wave.record Wave.sansTrap; rfl

end Enter

theorem Wave.entered_enter (w : Wave) {t : Trap} {cause : Nat} (hcls : t.cls < 256) (hsub : t.sub < 256) (hcode : t.code < 128)
    (hcause : t.cls * 2 ^ 24 + t.sub * 2 ^ 16 + t.code = cause) : w.Entered (w.enter t) cause (t.epc.getD w.pc) where
  sup := w.enter_sup t
  pc := by rw [Wave.enter_pc, Wave.toNat_tvec]
  cause := by rw [Wave.enter_cause, Trap.cause_eq hcls hsub hcode, hcause]
  savedPc := by rw [Wave.enter_epcl, Wave.enter_epch, toNat_low_add_high]
  saved := ⟨w.enter_qSaved t, w.enter_badQSaved t⟩
  kept := ⟨by rw [Wave.enter_trapCause, Wave.enter_cause], w.enter_trapPc t⟩
  depth := w.enter_entryDepth t
  rest := w.sansTrap_enter t

/-- What a handler's entry says of the wave before depends only on what trap entry does not write. -/
theorem Wave.Entered.congr {w y x : Wave} {cause : Nat} {epc : BitVec 49} (h : y.Entered x cause epc) (hy : y.sansTrap = w.sansTrap) :
    w.Entered x cause epc := by
  have hfields := congrArg (fun v : Wave => (v.tvecl, v.tvech, v.q, v.badQ, v.tokens, v.spilled)) hy
  simp only [Wave.sansTrap, Prod.mk.injEq] at hfields
  obtain ⟨htvecl, htvech, hq, hbadQ, htokens, hspilled⟩ := hfields
  obtain ⟨hsup, hpc, hcause, hsavedPc, hsaved, hkept, hdepth, hrest⟩ := h
  exact ⟨hsup, htvecl ▸ htvech ▸ hpc, hcause, hsavedPc, hq ▸ hbadQ ▸ hsaved, hkept, htokens ▸ hspilled ▸ hdepth, hrest.trans hy⟩

theorem Wave.faultAddr_enter (w : Wave) {t : Trap} {a : Nat} (h : t.tval = some a) : (w.enter t).FaultAddr a := by
  simp [Wave.FaultAddr, Wave.enter, Wave.record, h]

/-- A trap without a fault address leaves the address registers. -/
theorem Wave.enter_tval_none (w : Wave) {t : Trap} (h : t.tval = none) : (w.enter t).tvall = w.tvall ∧ (w.enter t).tvalh = w.tvalh := by
  simp [Wave.enter, Wave.record, h]

/-- A trap that is not a floating-point one leaves the mask registers. -/
theorem Wave.enter_fp_none (w : Wave) {t : Trap} (h : t.fp = none) :
    (w.enter t).tmask0 = w.tmask0 ∧ (w.enter t).tmask1 = w.tmask1 ∧ (w.enter t).tmask2 = w.tmask2 ∧ (w.enter t).tlane = w.tlane := by
  simp [Wave.enter, Wave.record, h]

/-- Retiring writes nothing that trap entry does not write too. -/
theorem Wave.sansTrap_retire (w : Wave) : w.retire.sansTrap = w.sansTrap := by
  unfold Wave.retire Wave.retireTo; split <;> rfl

/-! ### The three outcomes of a trap -/

section Trap
variable {s : State} (t : Trap)

theorem State.trap_of_handler (hsup : s.w.sup = false) (hvec : s.w.tvec ≠ 0) : s.trap t = s.setW (s.w.enter t) := by
  simp only [State.trap, hsup, hvec, Bool.false_eq_true, if_false]

theorem State.trap_of_no_handler (hsup : s.w.sup = false) (hvec : s.w.tvec = 0) :
    s.trap t = (s.setW (s.w.record t)).terminate s.cur.g 0x0001 t.cause (t.epc.getD s.w.pc).toNat s.cur.w := by
  simp [State.trap, hsup, hvec]

theorem State.trap_of_sup (hsup : s.w.sup = true) :
    s.trap t = s.terminate s.cur.g 0x0001 (Trap.cause { cls := 0x0A, sub := t.cls }) (t.epc.getD s.w.pc).toNat s.cur.w := by
  simp [State.trap, hsup]

end Trap

/-! ### A grid's termination -/

theorem State.terminated_terminate {s : State} {g : Nat} (cause tpc wid : Nat) (hending : (s.gridOf g).ending = false)
    (hended : (s.gridOf g).ended = false) : s.Terminated (s.terminate g 0x0001 (BitVec.ofNat 32 cause) tpc wid) g cause tpc wid where
  grid := by rw [State.gridOf_terminate _ _ _ _ _ _ hending hended, if_pos rfl]
  grids h hne := by rw [State.gridOf_terminate _ _ _ _ _ _ hending hended, if_neg hne.symm]
  stopped id hg hsome := by
    rw [State.wv_terminate _ _ _ _ _ _ hending hended, if_pos ⟨hg, hsome⟩]
    exact ⟨rfl, rfl⟩
  waves id hg := by rw [State.wv_terminate _ _ _ _ _ _ hending hended, if_neg fun h => hg h.1]
  memory :=
    have h := s.terminate_same g 0x0001 (BitVec.ofNat 32 cause) tpc wid
    ⟨h.hbm, h.sysMem, h.llc⟩

/-- A wave of the grid may be written before the grid is terminated. -/
theorem State.Terminated.of_setW {s t : State} {w : Wave} {cause tpc wid : Nat} (h : (s.setW w).Terminated t s.cur.g cause tpc wid) :
    s.Terminated t s.cur.g cause tpc wid where
  grid := h.grid
  grids := h.grids
  stopped id hg hsome := by
    refine h.stopped id hg ?_
    rw [State.setW, State.setWv, aget_aput]
    split
    · rfl
    · exact hsome
  waves id hg := by
    have hne : s.cur ≠ id := fun heq => hg (heq ▸ rfl)
    rw [h.waves id hg, State.setW, State.wv_setWv, if_neg hne]
  memory := h.memory

section Ends
variable {s : State} {t : Trap} (hending : s.g.ending = false) (hended : s.g.ended = false)
include hending hended

theorem State.terminated_trap_of_no_handler (hcls : t.cls < 256) (hsub : t.sub < 256) (hcode : t.code < 128) (hsup : s.w.sup = false)
    (hvec : s.w.tvec = 0) :
    s.Terminated (s.trap t) s.cur.g (t.cls * 2 ^ 24 + t.sub * 2 ^ 16 + t.code) (t.epc.getD s.w.pc).toNat s.cur.w := by
  rw [State.trap_of_no_handler t hsup hvec, Trap.cause_eq hcls hsub hcode]
  exact (State.terminated_terminate (s := s.setW (s.w.record t)) _ _ _ hending hended).of_setW

/-- R135: a trap in supervisor mode is CLASS 0x0A, with the class of the trap as SUB. -/
theorem State.terminated_trap_of_sup {cause : Nat} (hcls : t.cls < 256) (hcause : 0x0A * 2 ^ 24 + t.cls * 2 ^ 16 = cause)
    (hsup : s.w.sup = true) : s.Terminated (s.trap t) s.cur.g cause (t.epc.getD s.w.pc).toNat s.cur.w := by
  rw [State.trap_of_sup t hsup, Trap.cause_eq (by simp) hcls (by simp), Nat.add_zero, hcause]
  exact State.terminated_terminate _ _ _ hending hended

end Ends

/-! ### The instructions that trap -/

theorem exec_svc_of_user (n : BitVec 7) {s : State} (hsup : s.w.sup = false) :
    exec (.svc n) s = .next ((s.modW (·.retire)).trap { cls := 0x08, code := n.toNat }) :=
  congrArg _ (if_neg (by simp [hsup]))

theorem exec_svc_of_sup (n : BitVec 7) {s : State} (hsup : s.w.sup = true) : exec (.svc n) s = .next (s.trap (.state 0x03)) :=
  congrArg _ (if_pos hsup)

theorem exec_trap_of_user (n : BitVec 7) {s : State} (hsup : s.w.sup = false) :
    exec (.trap n) s = .next (s.trap { cls := 0x09, code := n.toNat }) :=
  congrArg _ (if_neg (by simp [hsup]))

theorem exec_trap_of_sup (n : BitVec 7) {s : State} (hsup : s.w.sup = true) : exec (.trap n) s = .next (s.trap (.state 0x03)) :=
  congrArg _ (if_pos hsup)

theorem exec_illegalInstruction (s : State) : exec .illegalInstruction s = .next (s.trap .illegal) := rfl

section Handler
variable {s : State} (hsup : s.w.sup = false) (hvec : s.w.tvec ≠ 0)
include hsup hvec

/-- R134, R20: `svc` retires, and only then enters the handler; its trap PC is the address behind it. -/
theorem State.ends_svc (n : BitVec 7) : s.ends (exec (.svc n) s) (fun x => s.w.Entered x (0x08000000 + n.toNat) s.w.past
    ∧ x.count = s.w.count + 1 ∧ x.tvall = s.w.tvall ∧ x.tvalh = s.w.tvalh) := by
  have hretired : s.w.Retired s.w.retire s.w.past := s.w.retired_retireTo _
  have hsup' : (s.modW (·.retire)).w.sup = false := by simp [Wave.retire, hsup]
  have hvec' : (s.modW (·.retire)).w.tvec ≠ 0 := by simpa [Wave.retire, Wave.tvec] using hvec
  refine ⟨s.w.retire.enter { cls := 0x08, code := n.toNat }, ?_, ?_, ?_, ?_⟩
  · rw [exec_svc_of_user n hsup, State.trap_of_handler _ hsup' hvec', State.w_modW, State.modW_eq, State.setW_setW]
  · rw [← hretired.pc]
    exact (s.w.retire.entered_enter (by simp) (by simp) n.isLt (by norm_num)).congr s.w.sansTrap_retire
  · rw [Wave.enter_count, hretired.count, if_neg (by simp [hsup])]
  · simpa [Wave.retire] using s.w.retire.enter_tval_none (t := { cls := 0x08, code := n.toNat }) rfl

theorem State.ends_trap {t : Trap} {cause : Nat} (hcls : t.cls < 256) (hsub : t.sub < 256) (hcode : t.code < 128)
    (hcause : t.cls * 2 ^ 24 + t.sub * 2 ^ 16 + t.code = cause) :
    s.ends (.next (s.trap t)) (fun x => s.w.Entered x cause (t.epc.getD s.w.pc) ∧ x.count = s.w.count
      ∧ (∀ a, t.tval = some a → x.FaultAddr a) ∧ (t.tval = none → x.tvall = s.w.tvall ∧ x.tvalh = s.w.tvalh)
      ∧ (t.fp = none → x.tmask0 = s.w.tmask0 ∧ x.tmask1 = s.w.tmask1 ∧ x.tmask2 = s.w.tmask2 ∧ x.tlane = s.w.tlane)) :=
  ⟨s.w.enter t, congrArg _ (State.trap_of_handler t hsup hvec), s.w.entered_enter hcls hsub hcode hcause, s.w.enter_count t,
    fun _ => s.w.faultAddr_enter, s.w.enter_tval_none, s.w.enter_fp_none⟩

end Handler

/-- Settles O18: the three outcomes of a trap for every trap, and then for those of `svc`, `trap` and a word that is no instruction. -/
theorem trapsEnterTheHandlerOrEndTheGrid : Obligations.TrapsEnterTheHandlerOrEndTheGrid := by
  constructor
  · intro s t hcls hsub hcode
    refine ⟨fun hsup hvec => ?_, fun hending hended hsup hvec => ?_, fun hending hended hsup => ?_⟩
    · exact State.ends_trap hsup (mt s.w.tvec_eq_zero_iff.1 hvec) hcls hsub hcode rfl
    · exact State.terminated_trap_of_no_handler hending hended hcls hsub hcode hsup (s.w.tvec_eq_zero_iff.2 hvec)
    · exact State.terminated_trap_of_sup hending hended hcls rfl hsup
  · intro s n hvec
    have hvec := mt s.w.tvec_eq_zero_iff.1 hvec
    refine ⟨fun hsup => ⟨State.ends_svc hsup hvec n, ?_, ?_⟩, fun hsup hending hended => ?_⟩
    · obtain ⟨x, hx, hentered, hcount, -, htval, -⟩ :=
        State.ends_trap (t := { cls := 0x09, code := n.toNat }) (cause := 0x09000000 + n.toNat) hsup hvec (by simp) (by simp) n.isLt
          (by norm_num)
      exact ⟨x, (exec_trap_of_user n hsup).trans hx, hentered, hcount, htval rfl⟩
    · obtain ⟨x, hx, hentered, hcount, -⟩ := State.ends_trap (t := .illegal) hsup hvec (by decide) (by decide) (by decide) rfl
      exact ⟨x, (exec_illegalInstruction s).trans hx, hentered, hcount⟩
    · have hstate := State.terminated_trap_of_sup (t := .state 0x03) (cause := 0x0A020000) hending hended (by decide) rfl hsup
      have hillegal := State.terminated_trap_of_sup (t := .illegal) (cause := 0x0A010000) hending hended (by decide) rfl hsup
      exact ⟨_, _, _, exec_svc_of_sup n hsup, hstate, exec_trap_of_sup n hsup, hstate, exec_illegalInstruction s, hillegal⟩

end Sys2Proof.Machine

/-! Cross-lane instructions (R157-R166): what a fold, a test and a mask over the active threads come to, then each instruction by its destination. -/

namespace Sys2Proof.Machine

/-! ### Folds over words -/

theorem foldl_add_eq_ofNat_sum (l : List Word) : l.foldl (· + ·) 0 = BitVec.ofNat 32 (l.map BitVec.toNat).sum := by
  rw [List.sum_eq_foldl, List.foldl_map]
  exact List.foldl_hom (BitVec.ofNat 32) fun n x => by rw [BitVec.ofNat_add, BitVec.ofNat_toNat, BitVec.setWidth_eq]

theorem toInt_foldl_min (l : List Word) (z : Word) :
    (l.foldl (fun m x => if x.slt m then x else m) z).toInt = (l.map BitVec.toInt).foldl min z.toInt := by
  rw [List.foldl_map]
  refine (List.foldl_hom BitVec.toInt fun m x => ?_).symm
  simp only [BitVec.slt_iff_toInt_lt, apply_ite BitVec.toInt, min_comm m.toInt, min_def_lt]

theorem toInt_foldl_max (l : List Word) (z : Word) :
    (l.foldl (fun m x => if m.slt x then x else m) z).toInt = (l.map BitVec.toInt).foldl max z.toInt := by
  rw [List.foldl_map]
  refine (List.foldl_hom BitVec.toInt fun m x => ?_).symm
  simp only [BitVec.slt_iff_toInt_lt, apply_ite BitVec.toInt, max_def_lt]

theorem Wave.foldAct_eq_foldl (w : Wave) (f : Word → Word → Word) (z : Word) (a : Code) :
    w.foldAct f z (w.vr a) = (activeValues w a).foldl f z := List.foldl_map.symm

theorem Wave.foldAct_add (w : Wave) (a : Code) :
    w.foldAct (fun m x => m + x) 0 (w.vr a) = BitVec.ofNat 32 ((activeValues w a).map BitVec.toNat).sum := by
  rw [Wave.foldAct_eq_foldl, foldl_add_eq_ofNat_sum]

theorem Wave.foldAct_min (w : Wave) (a : Code) :
    w.foldAct (fun m x => if x.slt m then x else m) 0x7FFFFFFF (w.vr a)
      = BitVec.ofInt 32 (((activeValues w a).map BitVec.toInt).foldl min (2 ^ 31 - 1)) := by
  rw [Wave.foldAct_eq_foldl, ← BitVec.ofInt_toInt (x := List.foldl ..), toInt_foldl_min]
  rfl

theorem Wave.foldAct_max (w : Wave) (a : Code) :
    w.foldAct (fun m x => if m.slt x then x else m) 0x80000000 (w.vr a)
      = BitVec.ofInt 32 (((activeValues w a).map BitVec.toInt).foldl max (-2 ^ 31)) := by
  rw [Wave.foldAct_eq_foldl, ← BitVec.ofInt_toInt (x := List.foldl ..), toInt_foldl_max]
  rfl

theorem Wave.foldAct_and (w : Wave) (a : Code) :
    w.foldAct (fun m x => m &&& x) 0xFFFFFFFF (w.vr a) = (activeValues w a).foldr (· &&& ·) 0xFFFFFFFF := by
  rw [Wave.foldAct_eq_foldl, List.foldl_eq_foldr]

theorem Wave.foldAct_or (w : Wave) (a : Code) :
    w.foldAct (fun m x => m ||| x) 0 (w.vr a) = (activeValues w a).foldr (· ||| ·) 0 := by
  rw [Wave.foldAct_eq_foldl, List.foldl_eq_foldr]

/-! ### Tests of the active threads and of a wave triple -/

theorem iBool_any_actives (w : Wave) (a : Code) :
    iBool (w.actives.any fun t => w.vr a t != 0) = if (activeValues w a).any (· ≠ 0) then 1 else 0 :=
  iBool_eq_ite (by simp [activeValues])

theorem iBool_all_actives (w : Wave) (a : Code) :
    iBool (w.actives.all fun t => w.vr a t != 0) = if (activeValues w a).all (· ≠ 0) then 1 else 0 :=
  iBool_eq_ite (by simp [activeValues])

/-- A field of a triple names three wave registers or `z` (R157), for which the model's bits are those of R161. -/
theorem Wave.triBit_eq_tripleBit (w : Wave) {a : Code} (h : Opnd.ok ⟨.wTriZ, a.toNat⟩ = true) : w.triBit a = tripleBit w a := by
  funext t
  have hcode : a.toNat ≤ 61 ∨ a.toNat = 112 := by simpa [Opnd.ok] using h
  unfold Wave.triBit Wave.tri tripleBit
  rcases hcode with hreg | hz
  · rw [if_pos (by omega), if_neg (by omega)]
  · rw [if_neg (by omega), if_pos hz]; exact BitVec.getLsbD_zero

/-- The first position that passes a test, or the number of positions where none does, counts those before it. -/
theorem getD_find?_range (p : Nat → Bool) (n : Nat) :
    ((List.range n).find? p).getD n = ((List.range n).takeWhile fun i => !p i).length := by
  cases h : (List.range n).find? p with
  | none =>
    have hall : ∀ i ∈ List.range n, (!p i) = true := by simpa using List.find?_eq_none.1 h
    rw [List.takeWhile_eq_self_iff.2 hall, List.length_range]; rfl
  | some k =>
    obtain ⟨hk, hmem, hbelow⟩ := List.find?_range_eq_some.1 h
    exact (length_takeWhile_range (List.mem_range.1 hmem) hbelow (by simp [hk])).symm

/-! ### The words of a mask -/

theorem testBit_foldl_bits (p : Nat → Bool) (n i : Nat) :
    ((List.range n).foldl (fun m l => if p l then m + 2 ^ l else m) 0).testBit i = (decide (i < n) && p i) := by
  induction n generalizing i with
  | zero => simp
  | succ n ih =>
    rw [List.range_succ, List.foldl_append]
    set m := (List.range n).foldl (fun m l => if p l then m + 2 ^ l else m) 0
    have hm : m < 2 ^ n := Nat.lt_pow_two_of_testBit m fun j hj => by simp [ih, hj]
    have hstep : (if p n then m + 2 ^ n else m).testBit i = (m.testBit i || (decide (n = i) && p n)) := by
      split
      · next hp =>
        rw [Nat.add_comm, ← Nat.mul_one (2 ^ n), Nat.two_pow_add_eq_or_of_lt hm 1]
        simp [hp, Bool.or_comm, Nat.testBit_two_pow]
      · next hp => simp [hp]
    show (if p n then m + 2 ^ n else m).testBit i = _
    rw [hstep, ih]
    obtain rfl | hne := eq_or_ne n i
    · simp
    · have hlt : i < n + 1 ↔ i < n := by omega
      simp [hne, hlt]

theorem getLsbD_maskWord (b : Nat) (p : Nat → Bool) {l : Nat} (hl : l < 32) : (maskWord b p).getLsbD l = p (32 * b + l) := by
  rw [maskWord, BitVec.getLsbD_ofNat, testBit_foldl_bits fun l => p (32 * b + l)]
  simp [hl]

theorem isBallot_maskWord (w : Wave) (a : Code) (b : Nat) : isBallot w a b (maskWord b fun t => w.act t && w.vr a t != 0) :=
  fun _ hl => getLsbD_maskWord b _ hl

/-! ### Instructions with a wave destination -/

/-- A gather: its source is among the fields that the issue checks, and its function is that of the statement. -/
theorem State.writesReg_of_gather {s : State} {i : Instr} {d a : Code} {nw : Bool} {g : Wave → Word}
    (f : Wave → (Nat → Word) → Word) (hi : s.issues i) (hops : i.operands = [⟨.wDst, d.toNat⟩, ⟨.vSrc, a.toNat⟩])
    (hrun : exec i s = gather f d a nw s) (hfg : ∀ w : Wave, f w (w.vr a) = g w) : s.writesReg d nw 4 g (exec i s) := by
  obtain rfl : (fun w => f w (w.vr a)) = g := funext hfg
  exact State.writesReg_of (Wave.precheck_none_mono (hops ▸ hi.2) (by simp)) hrun

/-- A count over the bits of a wave triple (R161). -/
theorem State.writesReg_of_triple {s : State} {i : Instr} {d a : Code} {nw : Bool} (f : (Nat → Bool) → Nat) {g : (Nat → Bool) → Nat}
    (hi : s.issues i) (hops : i.operands = [⟨.wDst, d.toNat⟩, ⟨.wTriZ, a.toNat⟩])
    (hrun : exec i s = s.guarded [] (fun s => s.modW (fun w => (w.outW d nw (BitVec.ofNat 32 (f (w.triBit a)))).retire)))
    (hfg : ∀ p, f p = g p) : s.writesReg d nw 4 (fun w => BitVec.ofNat 32 (g (tripleBit w a))) (exec i s) := by
  obtain rfl : f = g := funext hfg
  have hok : Opnd.ok ⟨.wTriZ, a.toNat⟩ = true := List.all_eq_true.1 hi.1 _ (by simp [hops])
  simp only [← fun w : Wave => w.triBit_eq_tripleBit hok]
  exact State.writesReg_of (Wave.precheck_none_mono hi.2 (List.nil_subset _)) hrun

/-- The wave with three successive wave registers written (R157). -/
def Wave.setTri (w : Wave) (n : Nat) (m : Nat → Word) : Wave := ((w.setWr n (m 0)).setWr (n + 1) (m 1)).setWr (n + 2) (m 2)

theorem Wave.wr_setTri (w : Wave) (n k : Nat) (m : Nat → Word) :
    (w.setTri n m).wr k = if n ≤ k ∧ k ≤ n + 2 then m (k - n) else w.wr k := by
  rw [Wave.setTri, Wave.wr_setWr, Wave.wr_setWr, Wave.wr_setWr]
  by_cases hk : n ≤ k ∧ k ≤ n + 2
  · obtain rfl | rfl | rfl : k = n ∨ k = n + 1 ∨ k = n + 2 := by omega
    all_goals simp
  · rw [if_neg (by omega), if_neg (by omega), if_neg (by omega), if_neg hk]

/-- An instruction that writes three wave registers, the first of which enters q0. -/
theorem Wave.setTri_retire (w : Wave) (d : Code) (m : Nat → Word) :
    let x := ((w.setTri d.toNat m).outW d true (m 0)).retire
    w.Retired x w.past ∧ (∀ k, x.wr k = if d.toNat ≤ k ∧ k ≤ d.toNat + 2 then m (k - d.toNat) else w.wr k)
      ∧ w.Shifted x (fun _ => m 0) ∧ w.OnlyRegs x := by
  obtain ⟨hret, hreg, hshift, honly⟩ := (w.setTri d.toNat m).outW_retire d true (m 0) 4
  refine ⟨⟨hret.pc, hret.count, hret.hold, hret.due⟩, fun k => ?_, ⟨hshift.first, hshift.rest, hshift.errors⟩, honly⟩
  rw [hreg k, if_neg (by simp), Wave.wr_setTri]

theorem exec_ballot {s : State} {d a : Code} (hi : s.issues (.ballot d a)) :
    let m := fun b => maskWord b (fun t => s.w.act t && s.w.vr a t != 0)
    exec (.ballot d a) s = .next (s.setW ((s.w.setTri d.toNat m).outW d true (m 0)).retire) := by
  have hpass : s.w.precheck [⟨.vSrc, a.toNat⟩] = none := Wave.precheck_none_mono hi.2 (List.subset_cons_self ..)
  show execBallot d a s = _
  rw [execBallot, State.guarded_pass _ hpass]
  rfl

theorem State.ends_ballot {s : State} {d a : Code} (hi : s.issues (.ballot d a)) :
    s.ends (exec (.ballot d a) s) (fun x => s.w.Retired x s.w.past ∧ (∀ b, b < 3 → isBallot s.w a b (x.wr (d.toNat + b)))
      ∧ (∀ m, ¬(d.toNat ≤ m ∧ m ≤ d.toNat + 2) → x.wr m = s.w.wr m) ∧ s.w.Shifted x (fun _ => x.wr d.toNat) ∧ s.w.OnlyRegs x) := by
  obtain ⟨hret, hwr, hshift, honly⟩ := s.w.setTri_retire d (fun b => maskWord b (fun t => s.w.act t && s.w.vr a t != 0))
  refine ⟨_, exec_ballot hi, hret, fun b hb => ?_, fun k hk => ?_, ⟨fun t ht => ?_, hshift.rest, hshift.errors⟩, honly⟩
  · rw [hwr, if_pos (by omega), Nat.add_sub_cancel_left]; exact isBallot_maskWord s.w a b
  · rw [hwr, if_neg hk]
  · rw [hshift.first t ht, hwr, if_pos (by omega), Nat.sub_self]

/-! ### The sum of `redadd.f32` -/

theorem Wave.OnlyRegs.fsrOf {w x : Wave} (h : w.OnlyRegs x) (t : Nat) : x.fsrOf t = w.fsrOf t := by
  show x.sansRegs.fsrOf t = w.sansRegs.fsrOf t
  rw [show x.sansRegs = w.sansRegs from h]

theorem Wave.OnlyRegs.flags {w y x : Wave} (h : y.OnlyRegs x) (hy : y.sansFsr = w.sansFsr) : w.OnlyRegsFlags x :=
  (congrArg Wave.sansFsr (show x.sansRegs = y.sansRegs from h)).trans (congrArg Wave.sansRegs hy)

/-- A floating-point instruction with a wave destination, whose flags go to one thread alone. -/
theorem State.ends_fpEnd_outW (s : State) (d : Code) (nw : Bool) (v : Word) {t0 : Nat} {fl : FFlags} (h : fl &&& s.w.enables t0 = 0) :
    s.ends (.next (s.fpEnd (fun t => t == t0) (fun _ => fl) (fun w => w.outW d nw v)))
      (fun x => s.w.Retired x s.w.past ∧ s.w.RegSet x (!nw) d.toNat v ∧ s.w.Shifted x (fun _ => v)
        ∧ s.w.FlagsSet x (fun t => t == t0) (fun _ => fl) ∧ s.w.OnlyRegsFlags x) := by
  have hu : s.w.Untrapped (fun t => t == t0) (fun _ => fl) := fun t _ ht => by rw [eq_of_beq ht, h]
  rw [State.fpEnd_pass s _ hu]
  obtain ⟨hret, hreg, hshift, honly⟩ := (s.w.raise (fun t => t == t0) (fun _ => fl)).outW_retire d nw v 4
  refine ⟨_, rfl, ⟨hret.pc, hret.count, hret.hold, hret.due⟩, hreg, ⟨hshift.first, hshift.rest, hshift.errors⟩, fun t ht => ?_,
    honly.flags rfl⟩
  rw [honly.fsrOf]
  exact Wave.flagsSet_raise hu t ht

section RedaddF32
variable {s : State} {d a : Code} {nw : Bool} (hi : s.issues (.redaddF32 d a nw))
include hi

theorem exec_redaddF32_of_nil (hnone : s.w.actives = []) :
    exec (.redaddF32 d a nw) s = .next (s.setW (s.w.outW d nw 0).retire) := by
  have hpass : s.w.precheck [⟨.vSrc, a.toNat⟩] = none := Wave.precheck_none_mono hi.2 (List.subset_cons_self ..)
  show execRedaddF32 d a nw s = _
  rw [execRedaddF32, State.guarded_pass _ hpass]
  simp only [hnone]

theorem exec_redaddF32_of_cons {t0 : Nat} {ts : List Nat} (hsome : s.w.actives = t0 :: ts) :
    let r := fpSumAll (s.w.env none t0) ((t0 :: ts).map (fun t => f32.readF ((s.w.fsrOf t).getLsbD 11) (s.w.vr a t).toNat))
    exec (.redaddF32 d a nw) s = .next (s.fpEnd (fun t => t == t0) (fun _ => r.2) (fun w => w.outW d nw (BitVec.ofNat 32 r.1))) := by
  have hpass : s.w.precheck [⟨.vSrc, a.toNat⟩] = none := Wave.precheck_none_mono hi.2 (List.subset_cons_self ..)
  show execRedaddF32 d a nw s = _
  rw [execRedaddF32, State.guarded_pass _ hpass]
  simp only [hsome]
  rfl

end RedaddF32

/-- Settles O14: each instruction runs a gather, a count or a read whose value is that of the spec; `ballot` and `redadd.f32` have their own ends. -/
theorem gathersWriteOneRegister : Obligations.GathersWriteOneRegister := by
  refine ⟨fun s d a b nw => ⟨fun hi => ?_, fun hi => ?_, fun hi => ?_, fun hi => ?_, fun hi => ?_, fun hi => ?_, fun hi => ?_, fun hi => ?_,
    fun hi => ?_, fun hi => ?_, State.ends_ballot⟩, fun s d a nw hi => ⟨fun hnone => ?_, fun t0 ts hsome => ?_⟩⟩
  · exact State.writesReg_of_gather (fun w v => iBool (w.actives.any fun t => v t != 0)) hi rfl rfl (iBool_any_actives · a)
  · exact State.writesReg_of_gather (fun w v => iBool (w.actives.all fun t => v t != 0)) hi rfl rfl (iBool_all_actives · a)
  · exact State.writesReg_of_triple (List.countP · (List.range threads)) hi rfl rfl fun _ => List.countP_eq_length_filter
  · exact State.writesReg_of_triple (fun p => ((List.range threads).find? p).getD threads) hi rfl rfl fun p => getD_find?_range p threads
  · have hlt : ∀ n, n ≤ 95 ↔ n < threads := fun n => by unfold threads; omega
    simp only [hlt]
    exact State.writesReg_of (Wave.precheck_none_mono hi.2 (List.subset_cons_self ..)) rfl
  · exact State.writesReg_of_gather _ hi rfl rfl (Wave.foldAct_add · a)
  · exact State.writesReg_of_gather _ hi rfl rfl (Wave.foldAct_min · a)
  · exact State.writesReg_of_gather _ hi rfl rfl (Wave.foldAct_max · a)
  · exact State.writesReg_of_gather _ hi rfl rfl (Wave.foldAct_and · a)
  · exact State.writesReg_of_gather _ hi rfl rfl (Wave.foldAct_or · a)
  · rw [exec_redaddF32_of_nil hi hnone]
    exact ⟨_, rfl, s.w.outW_retire d nw 0 4⟩
  · intro r hclear
    rw [exec_redaddF32_of_cons hi hsome]
    exact State.ends_fpEnd_outW s d nw _ hclear

/-! ### Instructions with a vector destination -/

/-- What thread t receives of a shuffle that names thread k (R162). -/
def Wave.shuffled (w : Wave) (a : Code) (t : Nat) (k : Int) : Word := if 0 ≤ k ∧ k ≤ 95 then w.vr a k.toNat else w.vr a t

theorem Wave.shuffled_natCast (w : Wave) (a : Code) (t k : Nat) : w.shuffled a t k = if k < threads then w.vr a k else w.vr a t :=
  if_congr (by unfold threads; omega) rfl rfl

theorem Wave.shuffled_of_neg (w : Wave) (a : Code) (t : Nat) {k : Int} (h : k < 0) : w.shuffled a t k = w.vr a t :=
  if_neg (by omega)

/-- A shuffle whose source is a thread exactly where the index of the statement is its number. -/
theorem State.writesRow_of_shuffle {s : State} {i : Instr} {d a b : Code} {nw : Bool} (src : Nat → Nat → Option Nat) (idx : Nat → Nat → Int)
    (hi : s.issues i) (hops : i.operands = fVVV d a b) (hrun : exec i s = shuffle src d a b nw s)
    (hsrc : ∀ t n k, src t n = some k ↔ idx t n = k) :
    s.writesRow d nw 4 (fun w t => w.shuffled a t (idx t (w.vr b t).toNat)) (exec i s) := by
  have hpass : s.w.precheck (fVVV d a b) = none := hops ▸ hi.2
  refine State.writesRow_of hpass (hrun.trans ?_)
  unfold shuffle
  congr! 6 with s w
  funext t
  cases h : src t (w.vr b t).toNat with
  | some k => rw [(hsrc ..).1 h, Wave.shuffled_natCast]
  | none =>
    refine (w.shuffled_of_neg a t ?_).symm
    by_contra hneg
    have hsome := (hsrc t (w.vr b t).toNat (idx t (w.vr b t).toNat).toNat).2 (by omega)
    exact absurd (h.symm.trans hsome) (by simp)

theorem State.writesRow_of_prefixSum {s : State} {i : Instr} {d a : Code} {nw : Bool} (p : Nat → Nat → Bool)
    (hi : s.issues i) (hops : i.operands = fVV d a) (hrun : exec i s = prefixSum p d a nw s) :
    s.writesRow d nw 4 (fun w t => BitVec.ofNat 32 ((w.actives.filter (p t)).map (fun k => (w.vr a k).toNat)).sum) (exec i s) := by
  have hpass : s.w.precheck (fVV d a) = none := hops ▸ hi.2
  refine State.writesRow_of hpass (hrun.trans ?_)
  unfold prefixSum
  congr! 6 with s w
  funext t
  rw [← List.foldl_map (f := w.vr a) (g := (· + ·)), foldl_add_eq_ofNat_sum, List.map_map]
  rfl

/-- Settles O15: each shuffle by the index that its source has as an integer, each scan by the threads that count for a thread. -/
theorem shufflesAndScansWriteARow : Obligations.ShufflesAndScansWriteARow := by
  intro s d a b nw
  refine ⟨fun hi => ?_, fun hi => ?_, fun hi => ?_, fun hi => ?_, fun hi => ?_, fun hi => ?_⟩
  · exact State.writesRow_of_shuffle (fun _ n => some n) (fun _ n => n) hi rfl rfl fun t n k => by simp
  · exact State.writesRow_of_shuffle (fun t n => if n ≤ t then some (t - n) else none) (fun t n => (t : Int) - n) hi rfl rfl
      fun t n k => by split <;> simp <;> omega
  · exact State.writesRow_of_shuffle (fun t n => some (t + n)) (fun t n => (t : Int) + n) hi rfl rfl fun t n k => by simp; omega
  · exact State.writesRow_of_shuffle (fun t n => some (t ^^^ n)) (fun t n => ((t ^^^ n : Nat) : Int)) hi rfl rfl fun t n k => by simp
  · exact State.writesRow_of_prefixSum (fun t k => k ≤ t) hi rfl rfl
  · exact State.writesRow_of_prefixSum (fun t k => k < t) hi rfl rfl

end Sys2Proof.Machine

/-! Microscaling quantizers and the maximum registers (R322-R325): the scale of a block and its largest magnitude, the wave that a quantizer leaves,
then each instruction. -/

namespace Sys2Proof.Machine

/-! ### Binary32 magnitudes and the scale of a block -/

theorem f32_sign_of_lt {m : Nat} (h : m < 2 ^ 31) : f32.sign m = false := by
  show (m / 2 ^ 31 % 2 == 1) = false
  rw [Nat.div_eq_of_lt h]
  rfl

theorem f32_expo_of_lt {m : Nat} (h : m < 2 ^ 31) : f32.expo m = m / 2 ^ 23 :=
  Nat.mod_eq_of_lt (Nat.div_lt_of_lt_mul h)

theorem f32_val_of_subnormal {m : Nat} (hpos : 0 < m) (hlt : m < 2 ^ 23) : f32.val m = .fin false m (-149) := by
  have hexpo : f32.expo m = 0 := by rw [f32_expo_of_lt (by omega), Nat.div_eq_of_lt hlt]
  have hfrac : f32.frac m = m := Nat.mod_eq_of_lt hlt
  simp only [Fmt.val, f32_sign_of_lt (by omega : m < 2 ^ 31), hexpo, hfrac]
  rw [if_neg (by decide), if_pos (by decide), if_neg (by simpa using hpos.ne')]
  rfl

theorem f32_val_of_normal {m : Nat} (hge : 2 ^ 23 ≤ m) (hlt : m < 0x7F800000) :
    f32.val m = .fin false (2 ^ 23 + m % 2 ^ 23) ((m / 2 ^ 23 : Nat) - 127 - 23) := by
  have hlow : m / 2 ^ 23 ≠ 0 := by omega
  have hhigh : m / 2 ^ 23 ≠ f32.emaxField := by rw [show f32.emaxField = 255 from rfl]; omega
  have hm : m < 2 ^ 31 := by omega
  simp only [Fmt.val, f32_sign_of_lt hm, f32_expo_of_lt hm, beq_iff_eq, if_neg hlow, if_neg hhigh]
  rfl

theorem le_inf_of_not_isNaN {c : Nat} (h : f32.isNaN c = false) : c % 2 ^ 31 ≤ 0x7F800000 := by
  replace h : ((c / 2 ^ 23 % 2 ^ 8 == 255) && (c % 2 ^ 23 != 0)) = false := h
  simp only [Bool.and_eq_false_iff, beq_eq_false_iff_ne, bne_eq_false_iff_eq] at h
  omega

theorem log2_significand (m : Nat) : (2 ^ 23 + m % 2 ^ 23).log2 = 23 :=
  (Nat.log2_eq_iff (by omega)).2 ⟨by omega, by omega⟩

theorem clampI_eq_max_min {lo hi : Int} (h : lo ≤ hi) (x : Int) : clampI lo hi x = max lo (min hi x) := by
  unfold clampI
  split
  · omega
  · split <;> omega

theorem mxEmax_eq_getD {k : Nat} (hk : k < 6) : mxEmax k = [8, 15, 4, 2, 2, 0].getD k 0 := by
  interval_cases k <;> rfl

theorem mxWidth_eq_getD {k : Nat} (hk : k < 6) : mxWidth k = [8, 8, 6, 6, 4, 8].getD k 8 := by
  interval_cases k <;> rfl

/-- The scale of R322 by what its largest magnitude is: zero, infinity, a subnormal or a normal. -/
theorem mxScale_eq_blockScale {k m : Nat} (hk : k < 6) (hm : m ≤ 0x7F800000) : mxScale k m = blockScale k m := by
  have hclamp := clampI_eq_max_min (show (-127 : Int) ≤ 127 by decide)
  unfold mxScale blockScale floorLog2
  rw [← mxEmax_eq_getD hk]
  obtain rfl | hpos := Nat.eq_zero_or_pos m
  · rfl
  obtain rfl | hfin := Nat.eq_or_lt_of_le hm
  · rfl
  rw [if_neg hpos.ne', if_neg hfin.ne]
  obtain hsub | hnorm := Nat.lt_or_ge m (2 ^ 23)
  · rw [f32_val_of_subnormal hpos hsub, if_pos hsub]
    exact hclamp _
  · rw [f32_val_of_normal hnorm hfin, if_neg hnorm.not_gt]
    simp only [hclamp, log2_significand]
    congr 3
    omega

/-! ### The largest magnitude of some threads -/

theorem Wave.maxMag_filter_act (w : Wave) (a : Code) (ts : List Nat) : w.maxMag a (ts.filter w.act) = w.largest a ts := by
  unfold Wave.maxMag Wave.largest
  rw [List.foldl_map, List.foldl_filter, List.foldl_filter]
  congr 1
  funext m t
  cases w.act t
  · rfl
  · cases h : f32.isNaN (w.vr a t).toNat
    · exact if_neg (Bool.eq_false_iff.1 h)
    · exact if_pos h

theorem Wave.largest_le_inf (w : Wave) (a : Code) (ts : List Nat) : w.largest a ts ≤ 0x7F800000 := by
  unfold Wave.largest
  refine List.foldlRecOn _ _ (motive := fun m => m ≤ 0x7F800000) (Nat.zero_le _) fun m hm x hx => max_le hm ?_
  obtain ⟨t, ht, rfl⟩ := List.mem_map.1 hx
  obtain ⟨-, hnan⟩ := Bool.and_eq_true_iff.1 (List.mem_filter.1 ht).2
  exact le_inf_of_not_isNaN ((Bool.not_eq_true' _).mp hnan)

theorem filter_beat_range {n : Nat} (hn : n < 3) : (List.range threads).filter (fun t => t / 32 = n) = beatThreads n := by
  interval_cases n <;> rfl

theorem Wave.filter_beat_actives (w : Wave) {n : Nat} (hn : n < 3) :
    w.actives.filter (fun t => t / 32 = n) = (beatThreads n).filter w.act := by
  rw [Wave.actives, List.filter_comm, filter_beat_range hn]

theorem ite_isEmpty_filter {α β : Type} (p : α → Bool) (l : List α) (x y : β) :
    (if (l.filter p).isEmpty then x else y) = if l.any p then y else x := by
  by_cases h : l.any p
  · rw [if_pos h, if_neg (by simpa using h)]
  · rw [if_neg h, if_pos (by simpa using h)]

/-! ### The wave that a quantizer leaves -/

theorem funext_ite {α β : Type} {p : α → Bool} {f g : α → β} (z : α → β) (h : ∀ t, p t = true → f t = g t) :
    (fun t => if p t then f t else z t) = fun t => if p t then g t else z t :=
  funext fun t => ite_congr rfl (h t) fun _ => rfl

theorem Wave.orFlags_congr (w : Wave) {p : Nat → Bool} {f g : Nat → FFlags} (h : ∀ t, p t = true → f t = g t) :
    w.orFlags p f = w.orFlags p g :=
  congrArg (fun r => { w with fsr := tab threads r }) (funext_ite _ fun t ht => by rw [h t ht])

theorem Wave.putRow_congr (w : Wave) (r : Nat) {p : Nat → Bool} {f g : Nat → Word} (h : ∀ t, p t = true → f t = g t) :
    w.putRow r p f = w.putRow r p g :=
  congrArg (fun l => { w with v := setAt [] w.v (w.wbase + r) (tab threads l), badRows := w.badRows.filter (· ≠ w.wbase + r) }) (funext_ite _ h)

theorem Wave.lt_threads_of_act {w : Wave} {t : Nat} (h : w.act t = true) : t < threads := by
  simpa using (Bool.and_eq_true_iff.1 h).1

/-- The wave with the codes of `f` in row `d` and its flags ORed into `fsr`, both for the active threads, as `cvtmx` and `dqmx` leave it. -/
def Wave.quantized (w : Wave) (d : Code) (f : Nat → Nat × FFlags) : Wave :=
  (w.orFlags w.act (fun t => (f t).2)).putRow d.toNat w.act (fun t => BitVec.ofNat 32 (f t).1)

theorem Wave.quantized_congr (w : Wave) (d : Code) {f g : Nat → Nat × FFlags} (h : ∀ t, w.act t = true → f t = g t) :
    w.quantized d f = w.quantized d g := by
  unfold Wave.quantized
  rw [w.orFlags_congr fun t ht => congrArg Prod.snd (h t ht)]
  exact Wave.putRow_congr _ _ fun t ht => by rw [h t ht]

/-- The model keeps the lanes' results in a table. -/
theorem Wave.quantized_lanes (w : Wave) (d : Code) (f : Nat → Nat × FFlags) :
    w.quantized d (fun t => (tab threads (fun t => if w.act t then f t else (0, 0))).getD t (0, 0)) = w.quantized d f :=
  w.quantized_congr d fun _ ht => lane_getD w.act f (Wave.lt_threads_of_act ht) ht

theorem Wave.rowSet_quantized (w : Wave) (d : Code) (f : Nat → Nat × FFlags) :
    w.RowSet (w.quantized d f) true d.toNat (fun t => BitVec.ofNat 32 (f t).1) :=
  let h := (w.orFlags w.act (fun t => (f t).2)).rowSet_out d false (fun t => BitVec.ofNat 32 (f t).1)
  ⟨h.cells, h.errors⟩

theorem Wave.flagsSet_quantized (w : Wave) (d : Code) (f : Nat → Nat × FFlags) :
    w.FlagsSet (w.quantized d f) w.act (fun t => (f t).2) :=
  fun _ ht => Row.at_tab (fun t => if w.act t then w.fsrOf t ||| (f t).2.setWidth 32 else w.fsrOf t) ht

theorem Wave.regSet_setWr (w : Wave) (n : Nat) (v : Word) : w.RegSet (w.setWr n v) true n v := fun m => by
  simp only [Wave.wr_setWr, true_and, eq_comm]

theorem Wave.retired_retire {w y : Wave} (h : y.pc = w.pc ∧ y.sup = w.sup ∧ y.count = w.count ∧ y.quant = w.quant ∧ y.qDue = w.qDue) :
    w.Retired y.retire w.past := by
  rw [Wave.past, ← h.1]
  exact Wave.retired_of _ h.2

theorem Wave.RowSet.retire {w y : Wave} {on : Bool} {r : Nat} {f : Nat → Word} (h : w.RowSet y on r f) : w.RowSet y.retire on r f :=
  ⟨fun k t ht => by rw [Wave.cell, Wave.retire, Wave.retireTo_v]; exact h.cells k t ht, (y.retireTo_badRows _).trans h.errors⟩

theorem Wave.FlagsSet.retire {w y : Wave} {p : Nat → Bool} {f : Nat → FFlags} (h : w.FlagsSet y p f) : w.FlagsSet y.retire p f :=
  fun t ht => by rw [Wave.fsrOf, Wave.retire, Wave.retireTo_fsr]; exact h t ht

theorem Wave.RegSet.retire {w y : Wave} {on : Bool} {n : Nat} {v : Word} (h : w.RegSet y on n v) : w.RegSet y.retire on n v :=
  fun m => by rw [Wave.wr, Wave.retire, Wave.retireTo_w]; exact h m

theorem Wave.Unshifted.retire {w y : Wave} (h : w.Unshifted y) : w.Unshifted y.retire :=
  ⟨(y.retireTo_q _).trans h.1, (y.retireTo_badQ _).trans h.2⟩

theorem Wave.retire_amx (w : Wave) : w.retire.amx = w.amx := w.retireTo_amx _

theorem Wave.sansPc_retire (w : Wave) : w.retire.sansPc = w.sansPc := by
  unfold Wave.retire Wave.retireTo
  split <;> rfl

theorem Wave.quantized_retire (w : Wave) (d : Code) (f : Nat → Nat × FFlags) :
    let x := (w.quantized d f).retire
    w.Retired x w.past ∧ w.RowSet x true d.toNat (fun t => BitVec.ofNat 32 (f t).1) ∧ w.FlagsSet x w.act (fun t => (f t).2) ∧ w.Unshifted x ∧
      ({ x with v := [], badRows := [], fsr := [] } : Wave).sansPc = ({ w with v := [], badRows := [], fsr := [] } : Wave).sansPc :=
  ⟨Wave.retired_retire ⟨rfl, rfl, rfl, rfl, rfl⟩, (w.rowSet_quantized d f).retire, (w.flagsSet_quantized d f).retire,
    Wave.Unshifted.retire ⟨rfl, rfl⟩,
    congrArg (fun y : Wave => { y with v := [], badRows := [], fsr := [] }) (Wave.sansPc_retire (w.quantized d f))⟩

/-! ### `dqmx` -/

/-- A reading in binary32, ties to even; a NaN is the default NaN. -/
def FVal.toF32 (v : FVal) : Nat × FFlags :=
  match v with
  | .nan _ _ _ => (f32.defNaN, 0)
  | .inf n => (f32.inf n, 0)
  | .zero n => (f32.zero n, 0)
  | .fin n m e => f32.round .rne ⟨n, m, e⟩

theorem scaledElement_eq (k el sc : Nat) :
    scaledElement k el sc = if sc = 255 then (f32.defNaN, 0) else ((mxVal k el).scale ((sc : Int) - 127)).toF32 := by
  unfold scaledElement
  split
  case h_1 => rfl
  all_goals
    next hsc hval =>
    rw [if_neg hsc, hval]
    rfl

/-- Thread t's result of `dqmx` (R323). -/
def Wave.dequantize (w : Wave) (k : Nat) (a b : Code) (t : Nat) : Nat × FFlags :=
  scaledElement k ((w.vr a t).toNat % 2 ^ [8, 8, 6, 6, 4, 8].getD k 8) ((w.ws b).toNat / 2 ^ (8 * (t / 32)) % 2 ^ 8)

theorem dqmx_eq {k : Nat} (hk : k < 6) {d a b : Code} {s : State}
    (hpass : s.w.precheck [⟨.vDst, d.toNat⟩, ⟨.vSrc, a.toNat⟩, ⟨.wSrc, b.toNat⟩] = none) :
    dqmx k d a b s = .next (s.setW (s.w.quantized d (s.w.dequantize k a b)).retire) := by
  rw [← Wave.quantized_lanes]
  unfold Wave.dequantize
  simp only [scaledElement_eq, ← mxWidth_eq_getD hk, pow_mul]
  rw [dqmx, State.guarded_pass _ hpass]
  rfl

theorem dqmxForm_eq_some {i : Instr} {k : Nat} {d a b : Code} (h : dqmxForm i = some (k, d, a, b)) :
    k < 6 ∧ i.operands = [⟨.vDst, d.toNat⟩, ⟨.vSrc, a.toNat⟩, ⟨.wSrc, b.toNat⟩] ∧ ∀ s, exec i s = dqmx k d a b s := by
  unfold dqmxForm at h
  split at h
  case h_7 => cases h
  all_goals
    cases h
    exact ⟨by decide, rfl, fun _ => rfl⟩

/-! ### `cvtmx` -/

theorem cvtmxForm_eq_some {i : Instr} {k : Nat} {d a b : Code} (h : cvtmxForm i = some (k, d, a, b)) :
    k < 6 ∧ i.operands = [⟨.vDst, d.toNat⟩, ⟨.vSrc, a.toNat⟩, ⟨.wMax 62, b.toNat⟩, ⟨.useW, b.toNat + 1⟩] ∧
      ∀ s, exec i s = cvtmx k d a b s := by
  unfold cvtmxForm at h
  split at h
  case h_7 => cases h
  all_goals
    cases h
    exact ⟨by decide, rfl, fun _ => rfl⟩

/-- X of thread t's block (R322). -/
def Wave.blockX (w : Wave) (k : Nat) (a : Code) (t : Nat) : Int := blockScale k (w.largest a (beatThreads (t / 32)))

/-- Thread t's result of `cvtmx` (R322). -/
def Wave.quantize (w : Wave) (k : Nat) (a : Code) (t : Nat) : Nat × FFlags :=
  mxRound k .rne ((f32.val (w.vr a t).toNat).scale (-(w.blockX k a t)))

/-- The scale byte of a beat (R322). -/
def Wave.scaleByte (w : Wave) (k : Nat) (a : Code) (beat : Nat) : Nat :=
  if (beatThreads beat).any w.act then (w.blockX k a (32 * beat) + 127).toNat else 0

/-- The word of the three scale bytes (R322). -/
def Wave.scaleWord (w : Wave) (k : Nat) (a : Code) : Word :=
  BitVec.ofNat 32 (w.scaleByte k a 0 + w.scaleByte k a 1 * 2 ^ 8 + w.scaleByte k a 2 * 2 ^ 16)

/-- `amxn` after `cvtmx` (R324). -/
def Wave.amxAfter (w : Wave) (a : Code) (n : Nat) : Word :=
  let old := w.amx.getD n 0
  let nan := w.actives.any (fun t => f32.isNaN (w.vr a t).toNat)
  BitVec.ofNat 32 (max (old.toNat % 2 ^ 31) (w.largest a (List.range 96)) + if nan || 2 ^ 31 ≤ old.toNat then 2 ^ 31 else 0)

theorem cvtmx_of_bad_selector {k : Nat} {d a b : Code} {s : State} (hpass : s.w.precheck [⟨.vDst, d.toNat⟩, ⟨.vSrc, a.toNat⟩] = none)
    (hn : 4 ≤ (s.w.wr b.toNat).toNat) : cvtmx k d a b s = .next (s.trap (.state 0x51)) := by
  rw [cvtmx, State.guarded_pass _ hpass]
  exact congrArg _ (if_pos hn)

/-- The three blocks' X as `cvtmx` keeps them. -/
def Wave.scales (w : Wave) (k : Nat) (a : Code) : List Int :=
  tab 3 (fun n => mxScale k (w.maxMag a (w.actives.filter (fun t => t / 32 = n))))

theorem Wave.getD_scales (w : Wave) {k : Nat} (hk : k < 6) (a : Code) {n : Nat} (hn : n < 3) :
    (w.scales k a).getD n 0 = blockScale k (w.largest a (beatThreads n)) := by
  rw [Wave.scales, getD_tab, if_pos hn, w.filter_beat_actives hn, Wave.maxMag_filter_act, mxScale_eq_blockScale hk (w.largest_le_inf a _)]

theorem Wave.quantize_eq (w : Wave) {k : Nat} (hk : k < 6) (a : Code) {t : Nat} (ht : t < threads) :
    w.quantize k a t = mxRound k .rne ((f32.val (w.vr a t).toNat).scale (-((w.scales k a).getD (t / 32) 0))) := by
  rw [w.getD_scales hk a (Nat.div_lt_of_lt_mul ht), Wave.quantize, Wave.blockX]

theorem Wave.scaleByte_eq (w : Wave) {k : Nat} (hk : k < 6) (a : Code) {n : Nat} (hn : n < 3) :
    w.scaleByte k a n = if (w.actives.filter (fun t => t / 32 = n)).isEmpty then 0 else ((w.scales k a).getD n 0 + 127).toNat := by
  rw [w.getD_scales hk a hn, w.filter_beat_actives hn, ite_isEmpty_filter, Wave.scaleByte, Wave.blockX, Nat.mul_div_cancel_left n (by decide)]

theorem cvtmx_of_selector {k : Nat} (hk : k < 6) {d a b : Code} {s : State} (hpass : s.w.precheck [⟨.vDst, d.toNat⟩, ⟨.vSrc, a.toNat⟩] = none)
    (hn : (s.w.wr b.toNat).toNat < 4) :
    let n := (s.w.wr b.toNat).toNat
    cvtmx k d a b s = .next (s.setW (({ s.w.quantized d (s.w.quantize k a) with amx := setAt 0 s.w.amx n (s.w.amxAfter a n) } : Wave).setWr
      (b.toNat + 1) (s.w.scaleWord k a)).retire) := by
  intro n
  have hmax : s.w.largest a (List.range 96) = s.w.maxMag a s.w.actives := (s.w.maxMag_filter_act a _).symm
  rw [s.w.quantized_congr d fun t ht => s.w.quantize_eq hk a (Wave.lt_threads_of_act ht), ← Wave.quantized_lanes, Wave.scaleWord,
    s.w.scaleByte_eq hk a (n := 0) (by decide), s.w.scaleByte_eq hk a (n := 1) (by decide), s.w.scaleByte_eq hk a (n := 2) (by decide),
    Wave.amxAfter, hmax, cvtmx, State.guarded_pass _ hpass]
  exact congrArg _ (if_neg (Nat.not_le.2 hn))

theorem getLsbD_31_eq_decide (x : Word) : x.getLsbD 31 = decide (2 ^ 31 ≤ x.toNat) := x.msb_eq_decide

theorem ofNat_low_add_top {m : Nat} (hm : m < 2 ^ 31) (c : Bool) :
    (BitVec.ofNat 32 (m + if c then 2 ^ 31 else 0)).toNat % 2 ^ 31 = m ∧ (BitVec.ofNat 32 (m + if c then 2 ^ 31 else 0)).getLsbD 31 = c := by
  rw [getLsbD_31_eq_decide, BitVec.toNat_ofNat]
  cases c
  · simp only [Bool.false_eq_true, if_false, decide_eq_false_iff_not]; omega
  · simp only [if_true, decide_eq_true_eq]; omega

/-- A maximum register is the larger magnitude, under a bit that stays set once a NaN was seen (R324). -/
theorem Wave.amxAfter_spec (w : Wave) (a : Code) (n : Nat) :
    (w.amxAfter a n).toNat % 2 ^ 31 = max ((w.amx.getD n 0).toNat % 2 ^ 31) (w.largest a (List.range 96)) ∧
      (w.amxAfter a n).getLsbD 31 = ((w.amx.getD n 0).getLsbD 31 || w.actives.any (fun t => f32.isNaN (w.vr a t).toNat)) := by
  have hinf := w.largest_le_inf a (List.range 96)
  rw [getLsbD_31_eq_decide (w.amx.getD n 0), Bool.or_comm]
  exact ofNat_low_add_top (max_lt (Nat.mod_lt _ (by decide)) (by omega)) _

theorem Wave.converted_retire (w : Wave) (d : Code) (f : Nat → Nat × FFlags) (amx : List Word) (r : Nat) (v : Word) :
    let x := (({ w.quantized d f with amx := amx } : Wave).setWr r v).retire
    w.Retired x w.past ∧ w.RowSet x true d.toNat (fun t => BitVec.ofNat 32 (f t).1) ∧ w.FlagsSet x w.act (fun t => (f t).2) ∧
      w.RegSet x true r v ∧ w.Unshifted x ∧ x.amx = amx ∧
      ({ x with v := [], badRows := [], w := [], fsr := [], amx := [] } : Wave).sansPc =
        ({ w with v := [], badRows := [], w := [], fsr := [], amx := [] } : Wave).sansPc :=
  let y : Wave := { w.quantized d f with amx := amx }.setWr r v
  have hrow : w.RowSet y true d.toNat (fun t => BitVec.ofNat 32 (f t).1) := ⟨(w.rowSet_quantized d f).cells, (w.rowSet_quantized d f).errors⟩
  have hflags : w.FlagsSet y w.act (fun t => (f t).2) := w.flagsSet_quantized d f
  have hreg : w.RegSet y true r v := w.regSet_setWr r v
  ⟨Wave.retired_retire ⟨rfl, rfl, rfl, rfl, rfl⟩, hrow.retire, hflags.retire, hreg.retire, Wave.Unshifted.retire ⟨rfl, rfl⟩, y.retire_amx,
    congrArg (fun y : Wave => { y with v := [], badRows := [], w := [], fsr := [], amx := [] }) y.sansPc_retire⟩

/-! ### The maximum registers -/

theorem Wave.setWr_retire (w : Wave) (n : Nat) (v : Word) :
    let x := (w.setWr n v).retire
    w.Retired x w.past ∧ w.RegSet x true n v ∧ w.Unshifted x ∧ w.OnlyRegs x :=
  ⟨Wave.retired_retire ⟨rfl, rfl, rfl, rfl, rfl⟩, (w.regSet_setWr n v).retire, Wave.Unshifted.retire ⟨rfl, rfl⟩,
    show (w.setWr n v).retire.sansRegs = w.sansRegs from
      congrArg (fun y : Wave => { y with q := [], badQ := [], w := [] }) (w.setWr n v).sansPc_retire⟩

theorem State.ends_amxrd {s : State} {d a : Code} (hi : s.issues (.amxrd d a)) :
    let n := (s.w.ws a).toNat
    (4 < n → exec (.amxrd d a) s = .next (s.trap (.state 0x51))) ∧
    (n ≤ 4 → s.ends (exec (.amxrd d a) s) (fun x => s.w.Retired x s.w.past ∧
      s.w.RegSet x true d.toNat (if n = 4 then s.mrp s.cur else s.w.amx.getD n 0) ∧ s.w.Unshifted x ∧ s.w.OnlyRegs x)) := by
  intro n
  have hpass : s.w.precheck [⟨.wSrc, a.toNat⟩] = none := Wave.precheck_none_mono hi.2 (List.subset_cons_self ..)
  have hrun : exec (.amxrd d a) s = .next (if 4 < n then s.trap (.state 0x51)
      else s.setW (s.w.setWr d.toNat (if n = 4 then s.mrp s.cur else s.w.amx.getD n 0)).retire) := by
    show execAmxrd d a s = _
    rw [execAmxrd, State.guarded_pass _ hpass]
    rfl
  refine ⟨fun hn => ?_, fun hn => ?_⟩
  · rw [hrun, if_pos hn]
  · rw [hrun, if_neg (Nat.not_lt.2 hn)]
    exact ⟨_, rfl, s.w.setWr_retire _ _⟩

theorem State.ends_amxclr {s : State} {a : Code} (hi : s.issues (.amxclr a)) :
    let n := (s.w.ws a).toNat
    (3 < n → exec (.amxclr a) s = .next (s.trap (.state 0x51))) ∧
    (n ≤ 3 → s.ends (exec (.amxclr a) s) (fun x => s.w.Retired x s.w.past ∧ (∀ m, x.amx.getD m 0 = if m = n then 0 else s.w.amx.getD m 0) ∧
      ({ x with amx := [] } : Wave).sansPc = ({ s.w with amx := [] } : Wave).sansPc)) := by
  intro n
  have hpass : s.w.precheck [⟨.wSrc, a.toNat⟩] = none := hi.2
  have hrun : exec (.amxclr a) s = .next (if 3 < n then s.trap (.state 0x51)
      else s.setW ({ s.w with amx := setAt 0 s.w.amx n 0 } : Wave).retire) := by
    show execAmxclr a s = _
    rw [execAmxclr, State.guarded_pass _ hpass]
    rfl
  refine ⟨fun hn => ?_, fun hn => ?_⟩
  · rw [hrun, if_pos hn]
  · rw [hrun, if_neg (Nat.not_lt.2 hn)]
    refine ⟨_, rfl, Wave.retired_retire ⟨rfl, rfl, rfl, rfl, rfl⟩, fun m => ?_,
      congrArg (fun y : Wave => { y with amx := [] }) (Wave.sansPc_retire _)⟩
    rw [Wave.retire_amx, getD_setAt]
    simp only [eq_comm]

/-- Settles O42: `cvtmx` and `dqmx` leave a quantized wave, whose lanes are those of the spec; the two instructions on the maximum registers by
their selector. -/
theorem quantizersAndMaximaWriteTheirResult : Obligations.QuantizersAndMaximaWriteTheirResult := by
  refine ⟨fun i s k d a b hform hi => ?_, fun i s k d a b hform hi => ?_, fun s d a hi => ?_, fun s a hi => State.ends_amxclr hi⟩
  · obtain ⟨hk, hops, hrun⟩ := cvtmxForm_eq_some hform
    have hpass : s.w.precheck [⟨.vDst, d.toNat⟩, ⟨.vSrc, a.toNat⟩] = none := Wave.precheck_none_mono (hops ▸ hi.2) (by simp)
    rw [hrun]
    refine ⟨cvtmx_of_bad_selector hpass, fun hn => ?_⟩
    obtain ⟨hret, hrow, hflags, hreg, hlatch, hamx, hframe⟩ := s.w.converted_retire d (s.w.quantize k a)
      (setAt 0 s.w.amx (s.w.wr b.toNat).toNat (s.w.amxAfter a (s.w.wr b.toNat).toNat)) (b.toNat + 1) (s.w.scaleWord k a)
    obtain ⟨hmag, hnan⟩ := s.w.amxAfter_spec a (s.w.wr b.toNat).toNat
    refine ⟨_, cvtmx_of_selector hk hpass hn, hret, hrow, hflags, hreg, hlatch, fun m hm => ?_, ?_, ?_, hframe⟩
    · rw [hamx, getD_setAt_ne _ _ _ hm.symm]
    · rw [hamx, getD_setAt_same, hmag]
    · rw [hamx, getD_setAt_same, hnan]
  · obtain ⟨hk, hops, hrun⟩ := dqmxForm_eq_some hform
    rw [hrun]
    exact ⟨_, dqmx_eq hk (hops ▸ hi.2), s.w.quantized_retire d (s.w.dequantize k a b)⟩
  · intro n oldest mrp
    have hmrp : s.mrp s.cur = BitVec.ofNat 32 mrp := by
      have hcase : s.mrp s.cur = (match oldest with | some c => BitVec.ofNat 32 (2 ^ 31 + c.kstep * 2 ^ 16 + c.rb) | none => 0) := rfl
      rw [hcase]
      clear_value oldest
      cases oldest <;> rfl
    obtain ⟨htrap, hread⟩ := State.ends_amxrd hi
    rw [hmrp] at hread
    exact ⟨htrap, fun hn _ => hread hn⟩

end Sys2Proof.Machine
